-- ==== Sys2Proof/Word.lean ====
section
/-! DEFINITION. The word types of the K9 and their plainest arithmetic (R10: little-endian, bits numbered from 0). -/

namespace Sys2Proof

/-- A byte (R10). -/
abbrev Byte := BitVec 8
/-- A half (R10). -/
abbrev W16 := BitVec 16
/-- A word (R10). -/
abbrev W32 := BitVec 32
/-- A dword (R10). -/
abbrev W64 := BitVec 64
/-- One bit for each of the 64 lanes of a group (R6, R7). -/
abbrev Mask := BitVec 64

/-- SR_LANEW of the K9 (R7). -/
abbrev lanes : Nat := 64

/-- Bits lo+len-1:lo of a word (R10). -/
abbrev fld {n : Nat} (w : BitVec n) (lo len : Nat) : BitVec len := w.extractLsb' lo len

/-- Bits lo+len-1:lo of a word as a number. -/
abbrev fldN {n : Nat} (w : BitVec n) (lo len : Nat) : Nat := (w.extractLsb' lo len).toNat

/-- Bit i of a word. -/
abbrev bitAt {n : Nat} (w : BitVec n) (i : Nat) : Bool := w.getLsbD i

/-- The lowest n bytes of a word, lowest address first (R10). -/
def bytesOf {m : Nat} (n : Nat) (w : BitVec m) : List Byte :=
  (List.range n).map fun i => w.extractLsb' (8 * i) 8

/-- The number that bytes stand for, lowest address first (R10). -/
def natOfBytes : List Byte → Nat
  | [] => 0
  | b :: bs => b.toNat + 256 * natOfBytes bs

/-- The lane numbers 0 to 63, in ascending order. -/
def allLanes : List Nat := List.range lanes

/-- The mask with bit l set where f l holds. -/
def maskOf (f : Nat → Bool) : Mask :=
  allLanes.foldl (fun m l => if f l then m ||| ((1 : Mask) <<< l) else m) 0

/-- The lanes of a mask, in ascending order. -/
def lanesOf (m : Mask) : List Nat := allLanes.filter fun l => bitAt m l

/-- The lowest lane of a mask, 0 for an empty one. -/
def lowest (m : Mask) : Nat := (lanesOf m).headD 0

/-- m bits 31:0 XOR m bits 63:32 (R160). -/
def fold32 (m : Mask) : W32 := fld m 0 32 ^^^ fld m 32 32

/-- A list of pairs in strictly rising order of key, in which no value equals the default. -/
abbrev SMap (β : Type) := List (Nat × β)

namespace SMap
variable {β : Type}

/-- The value at key k, d where k is not listed. -/
def get (d : β) : SMap β → Nat → β
  | [], _ => d
  | (a, v) :: m, k => if a = k then v else get d m k

/-- The map without key k. -/
def erase : SMap β → Nat → SMap β
  | [], _ => []
  | (a, v) :: m, k => if a = k then erase m k else (a, v) :: erase m k

/-- The map with v at key k, listed even if it is a default. -/
def put : SMap β → Nat → β → SMap β
  | [], k, v => [(k, v)]
  | (a, w) :: m, k, v =>
    if k < a then (k, v) :: (a, w) :: m else if a = k then (k, v) :: m else (a, w) :: put m k v

/-- The map with v at key k; a default is not listed. -/
def set [DecidableEq β] (d : β) (m : SMap β) (k : Nat) (v : β) : SMap β :=
  if v = d then erase m k else put m k v

/-- Keys rise strictly from above lo. -/
def rising : Nat → SMap β → Bool
  | _, [] => true
  | lo, (a, _) :: m => decide (lo ≤ a) && rising (a + 1) m

/-- The canonical form: keys strictly rising, no default listed. -/
def wf [DecidableEq β] (d : β) (m : SMap β) : Bool :=
  rising 0 m && m.all fun e => decide (e.2 ≠ d)

end SMap

/-- A list with one more entry, before the first that has a larger key. -/
def insertOn {α : Type} (key : α → Nat) (x : α) : List α → List α
  | [] => [x]
  | y :: ys => if key x < key y then x :: y :: ys else y :: insertOn key x ys

/-- A list in rising order of key; entries with one key keep their order. -/
def sortOn {α : Type} (key : α → Nat) (l : List α) : List α := l.foldl (fun r x => insertOn key x r) []

/-- x to the power of two n, as an integer scale. -/
abbrev pow2 (n : Nat) : Nat := 2 ^ n

end Sys2Proof
end

