-- ==== Sys2Proof/Syntax.lean ====
section
/-! DEFINITION. The instructions and steps of the K9: one constructor for each row of spec/opcode_table.json. -/

namespace Sys2Proof

/-- A 10-bit source operand (R65, R66). -/
inductive Src where
  /-- v0 to v255. -/
  | v (r : BitVec 8)
  /-- s0 to s63. -/
  | s (r : BitVec 6)
  /-- Bypass latch b0 to b3. -/
  | b (r : BitVec 2)
  /-- Signed immediate, -64 to 63. -/
  | imm (n : BitVec 7)
  /-- The constants 0x80 to 0x87 of R66. -/
  | const (k : BitVec 3)
  deriving DecidableEq, Repr, Inhabited

/-- Format V (R58). -/
structure VForm where
  d : BitVec 8 := 0
  w : Bool := false
  bl : BitVec 2 := 0
  p : BitVec 3 := 0
  pn : Bool := false
  a : Src := .v 0
  b : Src := .v 0
  c : Src := .v 0
  md : BitVec 11 := 0
  deriving DecidableEq, Repr, Inhabited

/-- Format I (R59). -/
structure IForm where
  d : BitVec 8 := 0
  w : Bool := false
  bl : BitVec 2 := 0
  p : BitVec 3 := 0
  a : Src := .v 0
  imm : W32 := 0
  deriving DecidableEq, Repr, Inhabited

/-- Format M (R60). -/
structure MForm where
  d : BitVec 8 := 0
  p : BitVec 3 := 0
  pn : Bool := false
  a : Src := .v 0
  b : Src := .v 0
  sz : BitVec 4 := 0
  scope : BitVec 3 := 0
  ord : BitVec 2 := 0
  off : BitVec 12 := 0
  deriving DecidableEq, Repr, Inhabited

/-- Format C (R61). -/
structure CForm where
  d : BitVec 8 := 0
  p : BitVec 3 := 0
  pn : Bool := false
  hint : BitVec 2 := 0
  live : BitVec 4 := 0
  off : W32 := 0
  deriving DecidableEq, Repr, Inhabited

/-- A command block as the firmware read it (R375). -/
structure CmdBlock where
  slot : Nat := 0
  opc : BitVec 8 := 0
  cw : BitVec 6 := 0
  irq : Bool := false
  ctx : BitVec 16 := 0
  arg0 : W64 := 0
  arg1 : W64 := 0
  arg2 : W64 := 0
  arg3 : W64 := 0
  /-- A reserved bit of the block is set. -/
  bad : Bool := false
  deriving DecidableEq, Repr, Inhabited

/-- One access of a PCIe requester through an aperture (R372, R381): size is in bytes. -/
structure HostAccess where
  requester : Nat := 0
  write : Bool := false
  off : Nat := 0
  size : Nat := 8
  data : BitVec 256 := 0
  deriving DecidableEq, Repr, Inhabited

/-- A packet of the fabric: the header fields of R360 and its data flits. -/
structure Packet where
  type : BitVec 6 := 0
  src : BitVec 9 := 0
  dst : BitVec 10 := 0
  ctx : BitVec 16 := 0
  tag : BitVec 11 := 0
  win : BitVec 4 := 0
  sz : BitVec 3 := 0
  ord : BitVec 2 := 0
  scope : BitVec 3 := 0
  budget : BitVec 16 := 0
  line : BitVec 45 := 0
  be : BitVec 128 := 0
  /-- STAT of a reply. -/
  stat : BitVec 6 := 0
  /-- The line's 128 bytes as the data flits carry them, byte i at position i. -/
  data : List Byte := []
  /-- The plane, that is the port, on which it travels (R354, R359). -/
  port : Nat := 0
  /-- Its header, as received, has an NDATA that is not the number of its data flits, or a reserved bit set (R360). -/
  bad : Bool := false
  deriving DecidableEq, Repr, Inhabited

/-- A flit as it reaches a port (R357): whole is false for one of which only a part arrived. -/
structure Flit where
  sq : Byte := 0
  payload : BitVec 256 := 0
  /-- The link CRC as it stands after FEC. -/
  crc : BitVec 32 := 0
  /-- It carries the tag and the count of a frame (R369). -/
  tag : Bool := false
  whole : Bool := true
  /-- The lane to which a failed flit is traced (R365). -/
  lane : Nat := 0
  deriving DecidableEq, Repr, Inhabited

/-- GET_CAPABILITIES of a port: the SPDM version that its requester names (R368). -/
structure Hello where
  port : Nat := 0
  version : Nat := 0x12
  deriving DecidableEq, Repr, Inhabited

/-- FINISH of a port: whether its requester has proven its identity (R368). -/
structure Finish where
  port : Nat := 0
  proven : Bool := true
  deriving DecidableEq, Repr, Inhabited

/-- What a patrol visit finds in a row (R347). -/
inductive ScrubFound where
  | clean
  | corrected
  /-- The byte offsets in the row of the 8-byte words with an uncorrectable error. -/
  | uncorrectable (words : List Nat)
  deriving DecidableEq, Repr, Inhabited

/-- The states of a device in its domain (R344). -/
inductive PeerState where
  | absent | run | degraded | recovering | fenced
  deriving DecidableEq, Repr, Inhabited

/-- An instruction of R72, or a step of a unit, of the firmware or of the outside world. -/
inductive Instr where
  /-- NOP (R116): Does nothing except enter its word into SIGB. -/
  | nop (f : VForm)
  /-- IADD (R112): Per-lane 32-bit integer add, wrapping or signed-saturating. -/
  | iadd (f : VForm)
  /-- ISUB (R112): Per-lane 32-bit integer subtract. -/
  | isub (f : VForm)
  /-- IMUL (R112): Per-lane low 32 bits of an integer product. -/
  | imul (f : VForm)
  /-- IMULH (R112): Per-lane high 32 bits of the exact 64-bit product. -/
  | imulh (f : VForm)
  /-- IMAD (R112): Per-lane integer multiply-add. -/
  | imad (f : VForm)
  /-- IMIN (R112): Per-lane signed or unsigned minimum. -/
  | imin (f : VForm)
  /-- IMAX (R112): Per-lane signed or unsigned maximum. -/
  | imax (f : VForm)
  /-- IABS (R112): Per-lane signed absolute value. -/
  | iabs (f : VForm)
  /-- INEG (R112): Per-lane integer negation. -/
  | ineg (f : VForm)
  /-- IDIV (R113): Per-lane integer division rounded toward zero, with fixed edge results. -/
  | idiv (f : VForm)
  /-- IREM (R113): Per-lane integer remainder with the sign of the dividend. -/
  | irem (f : VForm)
  /-- IADDI (R114): Adds a 32-bit immediate to each lane's operand. -/
  | iaddi (f : IForm)
  /-- IMULI (R114): Multiplies each lane's operand by a 32-bit immediate. -/
  | imuli (f : IForm)
  /-- MOVI (R114): Writes a 32-bit immediate to each selected lane. -/
  | movi (f : IForm)
  /-- LOP3 (R115): Bitwise three-input function given by a truth table. -/
  | lop3 (f : VForm)
  /-- LADD (R112): Per-lane 64-bit add. -/
  | ladd (f : VForm)
  /-- LSUB (R112): Per-lane 64-bit subtract. -/
  | lsub (f : VForm)
  /-- LMUL (R112): Per-lane low 64 bits of a 64-bit product. -/
  | lmul (f : VForm)
  /-- LEA (R112): Per-lane 64-bit base plus shifted sign-extended index. -/
  | lea (f : VForm)
  /-- AND (R117): Per-lane bitwise AND. -/
  | and (f : VForm)
  /-- OR (R117): Per-lane bitwise OR. -/
  | or (f : VForm)
  /-- XOR (R117): Per-lane bitwise XOR. -/
  | xor (f : VForm)
  /-- ANDN (R117): Per-lane a AND NOT b. -/
  | andn (f : VForm)
  /-- SHL (R117): Per-lane left shift. -/
  | shl (f : VForm)
  /-- SHR (R117): Per-lane logical or arithmetic right shift. -/
  | shr (f : VForm)
  /-- ROT (R117): Per-lane rotate left. -/
  | rot (f : VForm)
  /-- BFE (R118): Extracts a bit field, zero- or sign-extended. -/
  | bfe (f : VForm)
  /-- BFI (R118): Inserts a bit field into c. -/
  | bfi (f : VForm)
  /-- POPC (R117): Counts one bits per lane. -/
  | popc (f : VForm)
  /-- CLZ (R117): Counts leading zero bits per lane. -/
  | clz (f : VForm)
  /-- BREV (R117): Reverses the bits of each lane. -/
  | brev (f : VForm)
  /-- ISETP (R138): Writes an integer comparison result to a predicate in each selected lane. -/
  | isetp (f : VForm)
  /-- FSETP (R138): Writes an FP32 comparison result to a predicate in each selected lane. -/
  | fsetp (f : VForm)
  /-- PLOP (R138): Predicate truth-table function of three predicates. -/
  | plop (f : VForm)
  /-- SEL (R138): Selects a or b per lane by a predicate. -/
  | sel (f : VForm)
  /-- PMOV (R138): Moves a predicate to a register or a register to a predicate. -/
  | pmov (f : VForm)
  /-- CLMUL (R138): Low 32 bits of a carry-less product. -/
  | clmul (f : VForm)
  /-- CLMULH (R138): High bits of a carry-less product. -/
  | clmulh (f : VForm)
  /-- PRMT (R138): Byte permute of two sources under a selector. -/
  | prmt (f : VForm)
  /-- FADD (R120): Correctly rounded FP32 addition. -/
  | fadd (f : VForm)
  /-- FSUB (R120): Correctly rounded FP32 subtraction. -/
  | fsub (f : VForm)
  /-- FMUL (R120): Correctly rounded FP32 multiplication. -/
  | fmul (f : VForm)
  /-- FFMA (R120): Fused FP32 multiply-add with one rounding. -/
  | ffma (f : VForm)
  /-- FMIN (R121): FP32 minimumNumber. -/
  | fmin (f : VForm)
  /-- FMAX (R121): FP32 maximumNumber. -/
  | fmax (f : VForm)
  /-- FCLAMP (R121): FP32 clamp, maximum before minimum. -/
  | fclamp (f : VForm)
  /-- FDIV (R120): Correctly rounded FP32 division. -/
  | fdiv (f : VForm)
  /-- FSQRT (R120): Correctly rounded FP32 square root. -/
  | fsqrt (f : VForm)
  /-- FRCP (R122): FP32 reciprocal rounded to nearest even. -/
  | frcp (f : VForm)
  /-- FRSQ (R122): FP32 reciprocal square root rounded to nearest even. -/
  | frsq (f : VForm)
  /-- FRND (R123): Rounds an FP32 value to an integral value. -/
  | frnd (f : VForm)
  /-- FSCALE (R123): Multiplies an FP32 value by 2 to an integer power. -/
  | fscale (f : VForm)
  /-- FEXPT (R123): Returns the exponent of an FP32 value as an integer. -/
  | fexpt (f : VForm)
  /-- HADD2 (R124): Packed 16-bit float addition. -/
  | hadd2 (f : VForm)
  /-- HMUL2 (R124): Packed 16-bit float multiplication. -/
  | hmul2 (f : VForm)
  /-- HFMA2 (R124): Packed 16-bit float fused multiply-add. -/
  | hfma2 (f : VForm)
  /-- HMIN2 (R124): Packed 16-bit float minimum. -/
  | hmin2 (f : VForm)
  /-- HMAX2 (R124): Packed 16-bit float maximum. -/
  | hmax2 (f : VForm)
  /-- CVT (R126): Converts between integer and float types, advancing SR_SEED under SRND. -/
  | cvt (f : VForm)
  /-- QPACK (R128): Quantises FP32 values into 32-lane scaled blocks. -/
  | qpack (f : VForm)
  /-- QUNPK (R130): Dequantises a scaled element to FP32. -/
  | qunpk (f : VForm)
  /-- SPL6 (R131): Splits eight packed FP6 codes into nibble and 2-bit planes. -/
  | spl6 (f : VForm)
  /-- JN6 (R131): Joins nibble and 2-bit planes into packed FP6 codes. -/
  | jn6 (f : VForm)
  /-- FEXP2 (R132): Correctly rounded 2 to the power a. -/
  | fexp2 (f : VForm)
  /-- FLOG2 (R132): Correctly rounded base-2 logarithm. -/
  | flog2 (f : VForm)
  /-- FSIN (R132): Correctly rounded sine. -/
  | fsin (f : VForm)
  /-- FCOS (R132): Correctly rounded cosine. -/
  | fcos (f : VForm)
  /-- FTANH (R132): Correctly rounded hyperbolic tangent. -/
  | ftanh (f : VForm)
  /-- FSIGM (R132): Correctly rounded logistic sigmoid. -/
  | fsigm (f : VForm)
  /-- FERF (R132): Correctly rounded error function. -/
  | ferf (f : VForm)
  /-- ATEVAL (R133): Evaluates the active piecewise-linear activation bank per lane. -/
  | ateval (f : VForm)
  /-- SHFL (R139): Reads another lane's register by index, offset or XOR. -/
  | shfl (f : VForm)
  /-- REDX (R140): Reduces a value over the whole group in a fixed tree order. -/
  | redx (f : VForm)
  /-- SCANX (R141): Inclusive or exclusive scan over the group in lane order. -/
  | scanx (f : VForm)
  /-- BALLOT (R142): Forms a 64-bit mask of selected lanes with nonzero operand. -/
  | ballot (f : VForm)
  /-- MATCH (R142): Forms the mask of selected lanes sharing this lane's key. -/
  | matchKeys (f : VForm)
  /-- ELECT (R45): Sets a predicate in the lowest selected lane or the mask's lowest lane. -/
  | elect (f : VForm)
  /-- VOTE (R142): Writes ALL, ANY or UNI of the selected lanes to a predicate. -/
  | vote (f : VForm)
  /-- RDLANE (R143): Copies one lane's register into an s register. -/
  | rdlane (f : VForm)
  /-- WRLANE (R143): Writes a value into one lane of a register. -/
  | wrlane (f : VForm)
  /-- XSHUF (R144): Issues a register exchange rendezvous with a partner group. -/
  | xshuf (f : VForm)
  /-- XSHTO (R144): An XSHUF rendezvous not completed within 65,536 clocks raises XSHTO. -/
  | xshto (g sp : Nat)
  /-- SMOV (R145): Copies a value into an s register. -/
  | smov (f : VForm)
  /-- SMOVI (R145): Writes a sign-extended 32-bit immediate to an s register. -/
  | smovi (f : IForm)
  /-- SMOVH (R145): Writes an immediate to the high half of an s register. -/
  | smovh (f : IForm)
  /-- SADD (R145): 64-bit scalar add. -/
  | sadd (f : VForm)
  /-- SSUB (R145): 64-bit scalar subtract. -/
  | ssub (f : VForm)
  /-- SMUL (R145): 64-bit scalar multiply. -/
  | smul (f : VForm)
  /-- SAND (R145): 64-bit scalar AND. -/
  | sand (f : VForm)
  /-- SOR (R145): 64-bit scalar OR. -/
  | sor (f : VForm)
  /-- SXOR (R145): 64-bit scalar XOR. -/
  | sxor (f : VForm)
  /-- SSHL (R145): 64-bit scalar left shift. -/
  | sshl (f : VForm)
  /-- SSHR (R145): 64-bit scalar right shift. -/
  | sshr (f : VForm)
  /-- SCMP (R145): Scalar comparison writing 1 or 0. -/
  | scmp (f : VForm)
  /-- SSEL (R145): Scalar select by a nonzero condition. -/
  | ssel (f : VForm)
  /-- SRD (R146): Copies a special register into an s register; SR_RFLT with V set raises RMTFLT. -/
  | srd (f : VForm)
  /-- SWR (R146): Writes a special register, refusing RO and privileged ones. -/
  | swr (f : VForm)
  /-- BRA (R148): Conditional branch that may divide the split or serialise. -/
  | bra (f : CForm)
  /-- JMP (R149): Branches to an address held in an s register. -/
  | jmp (f : VForm)
  /-- CALL (R149): Writes the link and branches to a label. -/
  | call (f : CForm)
  /-- RET (R149): Branches to the address in an s register. -/
  | ret (f : VForm)
  /-- MJOIN (R150): Pushes a join record for a join address. -/
  | mjoin (f : CForm)
  /-- JOIN (R150): Arrives at the innermost join record, pops a deferred entry or merges splits. -/
  | join (f : CForm)
  /-- EXIT (R151): Ends the selected lanes. -/
  | exit (f : CForm)
  /-- KILL (R151): Ends the selected lanes and records them in SR_KILL. -/
  | kill (f : CForm)
  /-- BAR (R153): Marks arrival at a workgroup barrier, completing it when all live groups arrive. -/
  | bar (f : VForm)
  /-- YIELD (R152): Continues and moves the group to the pending set. -/
  | yield (f : CForm)
  /-- WAITC (R320): Holds the split until a path counter is at or below a threshold. -/
  | waitc (f : VForm)
  /-- IDEM (R154): Opens or closes an idempotent region and records the restart record. -/
  | idem (f : VForm)
  /-- TRAP (R155): Raises SWTRAP in the selected lanes. -/
  | trap (f : IForm)
  /-- TRET_RPL (R156): Leaves trap mode and replays the trapping instruction for the unfinished lanes. -/
  | tretRpl (f : VForm)
  /-- TRET_SKP (R156): Leaves trap mode and resumes after the trapping instruction. -/
  | tretSkp (f : VForm)
  /-- RBSUR (R157): Surrenders the group's highest register blocks. -/
  | rbsur (f : VForm)
  /-- RBCLM (R158): Queues a claim of register blocks from the surrendered pool. -/
  | rbclm (f : VForm)
  /-- BRK (R155): Raises BRKPT with a break code. -/
  | brk (f : CForm)
  /-- LDS (R207): Scratchpad load through the address's window. -/
  | lds (f : MForm)
  /-- STS (R207): Scratchpad store through the address's window. -/
  | sts (f : MForm)
  /-- ATOMS (R211): Scratchpad atomic performed at the bank. -/
  | atoms (f : MForm)
  /-- LDSX (R208): Loads columns of a row-major scratchpad block into registers. -/
  | ldsx (f : MForm)
  /-- STSX (R208): Stores registers into columns of a row-major scratchpad block. -/
  | stsx (f : MForm)
  /-- LD (R209): Global load through the address's window. -/
  | ld (f : MForm)
  /-- ST (R209): Global store through the address's window. -/
  | st (f : MForm)
  /-- ATOM (R211): Global atomic performed indivisibly at home. -/
  | atom (f : MForm)
  /-- SLD (R210): One global load for the split into an s register. -/
  | sld (f : MForm)
  /-- SST (R210): One global store for the split from an s register. -/
  | sst (f : MForm)
  /-- FENCE (R212): Release, acquire or both at a scope, without an access. -/
  | fence (f : MForm)
  /-- FENCEL (R213): Completes when earlier stores have left the core's store buffer. -/
  | fencel (f : MForm)
  /-- FENCEH (R213): Serialises every core in scope and waits for their stores. -/
  | fenceh (f : MForm)
  /-- OPFENCE (R214): Makes register writes and scratchpad stores visible to the next matrix issue. -/
  | opfence (f : MForm)
  /-- INVL1 (R215): Invalidates lines in the issuing core's L1. -/
  | invl1 (f : MForm)
  /-- PREF (R216): Prefetches lines into the home slice and L1. -/
  | pref (f : MForm)
  /-- DFILL (R217): Fills or fails a deferred cell as a release at domain scope. -/
  | dfill (f : MForm)
  /-- CPY (R221): Hands a linear copy to the copy engine. -/
  | cpy (f : VForm)
  /-- TCPY (R224): Hands a tensor tile copy to the copy engine. -/
  | tcpy (f : VForm)
  /-- CHAIN (R226): Hands a chain record of eight entries to the copy engine. -/
  | chain (f : VForm)
  /-- GATHER (R225): Hands an indexed row gather to the copy engine. -/
  | gather (f : VForm)
  /-- SCATTER (R225): Hands an indexed row scatter to the copy engine. -/
  | scatter (f : VForm)
  /-- NRSET (R228): Opens an in-network reduction id from a descriptor. -/
  | nrset (f : VForm)
  /-- NRED (R229): Contributes FP32 values to an open reduction. -/
  | nred (f : VForm)
  /-- MMA (R241): Team member's arrival for a dense matrix multiply-accumulate. -/
  | mma (f : VForm)
  /-- PMMA (R245): Team arrival for a matrix operation spanning a core pair. -/
  | pmma (f : VForm)
  /-- SMMA (R241): Team arrival for a sparse matrix multiply-accumulate. -/
  | smma (f : VForm)
  /-- ACCLD (R246): Moves accumulator words into registers. -/
  | accld (f : VForm)
  /-- ACCST (R246): Moves registers into accumulator words. -/
  | accst (f : VForm)
  /-- ACCZ (R246): Zeroes an accumulator region. -/
  | accz (f : VForm)
  /-- DRAIN (R247): Drains an accumulator region through scale, bias, activation, clamp and convert. -/
  | drain (f : VForm)
  /-- LQSTART (R253): Starts the core's Lathe on a command ring. -/
  | lqstart (f : VForm)
  /-- LQSTOP (R261): Stops the ring after the iteration in progress. -/
  | lqstop (f : VForm)
  /-- ATLOAD (R252): Copies an activation table into the inactive bank. -/
  | atload (f : VForm)
  /-- ATSWAP (R252): Makes the inactive activation bank active. -/
  | atswap (f : VForm)
  /-- MSUSP (R262): Saves and takes the handler strip in trap mode. -/
  | msusp (f : VForm)
  /-- MRES (R262): Restores and releases the handler strip. -/
  | mres (f : VForm)
  /-- TSPAWN (R283): Appends a task record to a Spindle task queue. -/
  | tspawn (f : VForm)
  /-- WQRY (R285): Asks the grid's work distributor for a tile. -/
  | wqry (f : VForm)
  /-- GLAUNCH (R286): Launches a child grid from a descriptor. -/
  | glaunch (f : VForm)
  /-- GWAIT (R287): Waits for a grid's retirement. -/
  | gwait (f : VForm)
  /-- JMPX (R290): Transfers a drift group to the segment holding the target. -/
  | jmpx (f : CForm)
  /-- TOKACQ (R315): Requests a region's ownership token. -/
  | tokacq (f : VForm)
  /-- TOKREL (R315): Releases and returns a region's ownership token. -/
  | tokrel (f : VForm)
  /-- TOKQRY (R315): Writes a region's token status word. -/
  | tokqry (f : VForm)
  /-- TLBINV (R302): Invalidates translations in every TLB of the device. -/
  | tlbinv (f : VForm)
  /-- FQPOP (R307): Pops the device's fault queue into a buffer. -/
  | fqpop (f : VForm)
  /-- FQRPL (R308): Resumes or fails every access parked on a page. -/
  | fqrpl (f : VForm)
  /-- MIGR (R311): Starts a page migration on the copy engine. -/
  | migr (f : VForm)
  /-- CNTRD (R325): Writes a device counter's value to memory. -/
  | cntrd (f : VForm)
  /-- CNTCLR (R325): Clears a counter and sets a performance counter's event. -/
  | cntclr (f : VForm)
  /-- CLAUSE_ISSUE (R52): A clause whose path waits are met starts issue on a free pipe. -/
  | clauseIssue (g sp : Nat)
  /-- SWAP_EVENT (R279): Every 256 clocks with a ready pending group, active and pending groups swap. -/
  | swapEvent (core : Nat)
  /-- WATCHDOG_EXPIRY (R321): The group's watchdog reaches SR_WDLIM and raises WDOG. -/
  | watchdogExpiry (g : Nat)
  /-- MEM_REQUEST_COMPLETE (R203): A memory request completes, writes its destination and retires from its path counter in order. -/
  | memRequestComplete (op req : Nat) (land : Mask)
  /-- HOME_ACCESS (R182): A request is performed indivisibly at its home through its window. -/
  | homeAccess (op req : Nat)
  /-- FAULT_SERVICE (R310): The ROM service maps a faulting page and its neighbourhood, then answers. -/
  | faultService
  /-- MIGRATION_DONE (R311): The migration copy completes, the new PTE is stored and parked writes replay. -/
  | migrationDone (op : Nat)
  /-- GROUP_END (R22): A group with no live lane and zero path counters frees its slot. -/
  | groupEnd (g : Nat)
  /-- COMMAND_DEQUEUE (R376): Firmware dequeues a command block address and begins the command. -/
  | commandDequeue
  /-- GRID_ACCEPT (R274): A Spindle unit accepts the head of a launch queue. -/
  | gridAccept (ctx prio : Nat)
  /-- WORKGROUP_DISPATCH (R18): A Spindle unit places a workgroup on a core with room. -/
  | workgroupDispatch (core : Nat)
  /-- SHADOW_ABANDON (R340): A shadow not placed within 65,536 clocks is abandoned. -/
  | shadowAbandon (sh : Nat)
  /-- TASK_DISPATCH (R281): A Spindle unit reads a task record and creates its group. -/
  | taskDispatch (ctx prio core : Nat)
  /-- DISPATCH_PASS_OVER_LIMIT (R275): A candidate passed over for 65,536 clocks blocks later placements. -/
  | dispatchPassOverLimit (cluster : Nat)
  /-- DRIFT_CREATION (R289): A drift grid's workgroup creation takes an arrival entry at a replica. -/
  | driftCreation (grid : Nat)
  /-- DRIFT_ARRIVAL_ENTRY (R292): A waiting transfer takes an arrival entry at its receiving core. -/
  | driftArrivalEntry (x : Nat)
  /-- DRIFT_ADMISSION (R292): A receiving core admits a transfer or ring image into a free slot. -/
  | driftAdmission (core : Nat)
  /-- DRIFT_SPILL (R293): A transfer not admitted within 4,096 clocks spills to the overflow ring. -/
  | driftSpill (x : Nat)
  /-- OVERFLOW_RING_GROW (R293): Firmware grows a full overflow ring and the waiting spill completes. -/
  | overflowRingGrow (core : Nat)
  /-- COPY_OP_COMPLETE (R219): A copy-engine operation completes or faults and counts complete. -/
  | copyOpComplete (op : Nat)
  /-- CHAIN_END (R227): A chain END entry ends the pass. -/
  | chainEnd (op : Nat)
  /-- CHAIN_COPY (R227): A chain entry performs a linear copy. -/
  | chainCopy (op : Nat)
  /-- CHAIN_FILL (R227): A chain entry fills words with a value. -/
  | chainFill (op : Nat)
  /-- CHAIN_TILE (R227): A chain entry performs a tile copy. -/
  | chainTile (op : Nat)
  /-- CHAIN_SIGNAL (R227): A chain entry adds through ADDI as a release. -/
  | chainSignal (op : Nat)
  /-- CHAIN_WAITGE (R227): A chain entry waits until a word reaches a value, then acquires. -/
  | chainWaitge (op : Nat)
  /-- CHAIN_GATHER (R227): A chain entry performs a gather. -/
  | chainGather (op : Nat)
  /-- CHAIN_SCATTER (R227): A chain entry performs a scatter. -/
  | chainScatter (op : Nat)
  /-- NRED_ACCEPT (R229): Routers accept a contribution and accumulate it exactly. -/
  | nredAccept (op : Nat)
  /-- LATHE_OP_START (R230): A ready Lathe operation starts in readiness order. -/
  | latheOpStart (op : Nat)
  /-- LATHE_OP_COMPLETE (R243): A Lathe operation completes and lowers its members' MTX counters. -/
  | latheOpComplete (op : Nat)
  /-- RING_COMMAND_FETCH (R255): The Lathe fetches the next command once PROD allows. -/
  | ringCommandFetch (core : Nat)
  /-- RING_MMA (R256): A ring MMA command runs its iterations from scratchpad. -/
  | ringMma (core : Nat)
  /-- RING_SMMA (R256): A ring sparse MMA command runs its iterations. -/
  | ringSmma (core : Nat)
  /-- RING_DRAIN (R257): A ring DRAIN command drains per iteration. -/
  | ringDrain (core : Nat)
  /-- WAITCNT (R258): The Lathe waits until a scratchpad word reaches a value, then acquires. -/
  | waitcnt (core : Nat)
  /-- LATHE_SIGNAL (R258): The Lathe adds to a scratchpad word as a release. -/
  | latheSignal (core : Nat)
  /-- LATHE_STOP (R258): The STOP command stops the ring. -/
  | latheStop (core : Nat)
  /-- WQRY_ANSWER (R284): The work distributor hands out the next tile or the end token. -/
  | wqryAnswer (op : Nat)
  /-- PREEMPT_DEADLINE (R39): The PREEMPT deadline expires and the context is forcibly reset. -/
  | preemptDeadline (ctx : Nat)
  /-- HOST_WAIT_LIMIT (R199): A parked host load completes after the host wait limit. -/
  | hostWaitLimit (op : Nat)
  /-- RECOVERY_LIMIT (R345): Requests parked on a recovering peer complete with RMTFLT at the limit. -/
  | recoveryLimit (peer : Nat)
  /-- TOKEN_HOLD_EXPIRY (R314): The 20 µs hold passes and a waiting recall or grant proceeds. -/
  | tokenHoldExpiry (region : Nat)
  /-- SCRUB_VISIT (R347): A slice patrols a row, correcting, poisoning or aging history. -/
  | scrubVisit (slice row : Nat) (found : ScrubFound)
  /-- TOK_QUERY_ANSWER (R315): A token query answer is written as the status word. -/
  | tokQueryAnswer (op : Nat) (status : W64)
  /-- ACCUMULATOR_PORT_COMPLETE (R246): An ACCLD, ACCST or ACCZ finishes its writes at the accumulator port and lowers the issuer's MTX counter. -/
  | accumulatorPortComplete (op : Nat)
  /-- ACTIVATION_BANK_LOAD_DONE (R252): An ATLOAD copy into the inactive bank completes, lowering MTX and letting a waiting ATSWAP take effect. -/
  | activationBankLoadDone (op : Nat)
  /-- TOKEN_ENTRY_EXPIRY (R313): A token-table entry whose region is at home, unpinned and unmoved for 1 ms ages out, freeing an entry for a waiting request. -/
  | tokenEntryExpiry (region : Nat)
  /-- HOST_MEMORY_ACCESS (R381): A host access through the memory aperture is performed at home in its window. -/
  | hostMemoryAccess (h : HostAccess)
  /-- CONTROL_REGISTER_WRITE (R372): A write to a control-aperture location without behaviour of its own is dropped. -/
  | controlRegisterWrite (off : Nat) (data : W64)
  /-- RESET (R373): Writing 1 to RESET bit 0 resets the device as FLR does. -/
  | reset
  /-- PATCHGO_PATCH (R382): PATCHGO bit 0 signals a patch image in place, which is checked. -/
  | patchgoPatch (good : Bool)
  /-- PATCHGO_CONTINUE (R383): PATCHGO bit 1 continues bring-up without patches. -/
  | patchgoContinue
  /-- POWER_ON (R383): Power-on runs the bring-up sequence from BOOT. -/
  | powerOn
  /-- FUNCTION_LEVEL_RESET (R383): A PCIe FLR ends every context and restarts bring-up. -/
  | functionLevelReset
  /-- POWER_LOSS (R384): Removal of power loses all state. -/
  | powerLoss
  /-- SELF_TEST_DONE (R383): Memory training and core self-test complete and WAITPATCH begins. -/
  | selfTestDone
  /-- PATCH_WAIT_TIMEOUT (R383): After 1 s in WAITPATCH bring-up continues on ROM. -/
  | patchWaitTimeout
  /-- LINK_TRAINING_DONE (R383): Ports finish training and SPDM and the device becomes READY. -/
  | linkTrainingDone
  /-- NEGOTIATE (R378): Picks the command-set version. -/
  | negotiate (c : CmdBlock)
  /-- CTX_CREATE (R379): Creates a context and its task queues. -/
  | ctxCreate (c : CmdBlock)
  /-- CTX_DESTROY (R379): Frees a context. -/
  | ctxDestroy (c : CmdBlock)
  /-- MAP (R409): Writes page-table entries for a range. -/
  | map (c : CmdBlock)
  /-- UNMAP (R379): Clears entries, invalidates TLBs and frees frames. -/
  | unmap (c : CmdBlock)
  /-- MIGRATE (R379): Migrates a range page by page. -/
  | migrate (c : CmdBlock)
  /-- LAUNCH (R379): Checks and enqueues an ordinary launch descriptor. -/
  | launch (c : CmdBlock)
  /-- LAUNCH_COOP (R379): Checks and enqueues a cooperative launch. -/
  | launchCoop (c : CmdBlock)
  /-- PREEMPT (R38): Stops the context's dispatch, sets SR_PREQ and starts the deadline. -/
  | preempt (c : CmdBlock)
  /-- PREEMPT_RESUME (R379): Clears SR_PREQ and restarts dispatch. -/
  | preemptResume (c : CmdBlock)
  /-- RESET_CONTEXT (R379): Kills the context's groups and leaves it empty and usable. -/
  | resetContext (c : CmdBlock)
  /-- QUERY_DEVICE (R411): Returns the ID register, state and peer number. -/
  | queryDevice (c : CmdBlock)
  /-- QUERY_TASK_QUEUES (R411): Writes the 96 task-queue header addresses. -/
  | queryTaskQueues (c : CmdBlock)
  /-- QUERY_FAULT_QUEUE (R379): Returns the fault-queue header. -/
  | queryFaultQueue (c : CmdBlock)
  /-- QUERY_VERSION (R411): Returns the negotiated version and granted features. -/
  | queryVersion (c : CmdBlock)
  /-- QUERY_PEER_STATE (R411): Returns the domain state of a logical peer. -/
  | queryPeerState (c : CmdBlock)
  /-- SET_OPERATING_POINT (R385): Changes the device's operating point. -/
  | setOperatingPoint (c : CmdBlock)
  /-- CLEAR_FCONS (R380): Clears the forced conservative condition on cores. -/
  | clearFcons (c : CmdBlock)
  /-- SET_WDLIM (R380): Sets SR_WDLIM for the context's new groups. -/
  | setWdlim (c : CmdBlock)
  /-- SET_QOS_DEFAULT (R380): Sets the context's default SR_QOS. -/
  | setQosDefault (c : CmdBlock)
  /-- SET_PREFETCH_THRESHOLD (R380): Sets THRESH and BLOCK of the fault prefetcher. -/
  | setPrefetchThreshold (c : CmdBlock)
  /-- SET_HOST_WAIT_LIMIT (R380): Sets the host wait limit. -/
  | setHostWaitLimit (c : CmdBlock)
  /-- SET_RECOVERY_LIMIT (R380): Sets the recovery limit. -/
  | setRecoveryLimit (c : CmdBlock)
  /-- SET_DOMAIN_RUN (R380): Sets this device's domain state to RUN. -/
  | setDomainRun (c : CmdBlock)
  /-- UNPIN_REGION (R380): Unpins a token region. -/
  | unpinRegion (c : CmdBlock)
  /-- SERVICE_ATTACH (R379): Attaches a service workgroup to serve a context's faults. -/
  | serviceAttach (c : CmdBlock)
  /-- SCRUB_CFG (R379): Sets the scrub patrol period and history weighting. -/
  | scrubCfg (c : CmdBlock)
  /-- SCREEN_CFG (R340): Sets screening N and seed for a context. -/
  | screenCfg (c : CmdBlock)
  /-- LINK_LOCK_UNLOCK (R367): Returns ports to UNLOCKED and erases keys. -/
  | linkLockUnlock (c : CmdBlock)
  /-- LINK_LOCK_LOCK (R367): Freezes port configuration in LOCKED. -/
  | linkLockLock (c : CmdBlock)
  /-- LINK_LOCK_START (R367): Moves locked ports to RUN. -/
  | linkLockStart (c : CmdBlock)
  /-- GET_VERSION (R368): SPDM request for supported versions. -/
  | getVersion (port : Nat)
  /-- GET_CAPABILITIES (R368): SPDM capabilities request. -/
  | getCapabilities (port : Hello)
  /-- NEGOTIATE_ALGORITHMS (R368): SPDM algorithm negotiation. -/
  | negotiateAlgorithms (port : Nat) (common : Bool)
  /-- GET_DIGESTS (R368): SPDM certificate digests request. -/
  | getDigests (port : Nat)
  /-- GET_CERTIFICATE (R368): SPDM certificate request. -/
  | getCertificate (port : Nat)
  /-- CHALLENGE (R368): SPDM authentication challenge. -/
  | challenge (port : Nat)
  /-- GET_MEASUREMENTS (R368): SPDM measurements request, including the configuration digest. -/
  | getMeasurements (port : Nat)
  /-- KEY_EXCHANGE (R368): SPDM ECDHE key exchange. -/
  | keyExchange (port : Nat)
  /-- FINISH (R368): SPDM session finish; proven says whether the requester has proven its identity (mutual authentication). -/
  | finish (port : Finish)
  /-- KEY_UPDATE (R368): SPDM session key update request. -/
  | keyUpdate (port : Nat)
  /-- END_SESSION (R367): Ends the SPDM session, sending a locked port to ERROR. -/
  | endSession (port : Nat)
  /-- FRAME_LIMIT_KEY_UPDATE (R369): After 2^32 frames the sender updates the key and restarts the IV. -/
  | frameLimitKeyUpdate (port : Nat)
  /-- FRAME_TAG_FAIL (R369): A frame failing its GCM tag is discarded; a second failure sends the port to ERROR. -/
  | frameTagFail (port : Nat)
  /-- FLIT_RECEIVE (R358): A received flit is accepted in sequence or discarded with a replay request. -/
  | flitReceive (port : Nat) (f : Flit)
  /-- LINK_ACK_RECEIVE (R358): A cumulative acknowledgement frees replay-buffer flits. -/
  | linkAckReceive (port : Nat) (sq : Byte)
  /-- REPLAY_REQUEST (R358): A replay request makes the sender resend from a sequence number. -/
  | replayRequest (port : Nat) (sq : Byte)
  /-- LANE_LOSS_OF_LOCK (R365): A lane loses lock and the port reduces to one lane. -/
  | laneLossOfLock (port : Nat)
  /-- RETRAIN_COMPLETE (R365): Retraining completes and unacknowledged flits are resent. -/
  | retrainComplete (port : Nat)
  /-- WIDTH_RESTORE (R365): A lane clean for 100 ms restores two-lane width. -/
  | widthRestore (port : Nat)
  /-- IDLE_PORT_NARROW (R386): In BAL a port idle for 10 µs runs at one lane. -/
  | idlePortNarrow (port : Nat)
  /-- PORT_UP (R355): A port comes up and lines return to it. -/
  | portUp (port : Nat)
  /-- LINK_VERSION_OFFER (R370): Link ends agree on the highest common Deljo version. -/
  | linkVersionOffer (port : Nat) (offer : Byte)
  /-- RD (R361): A received read request is performed at this device's home. -/
  | readRequest (p : Packet)
  /-- WR (R361): A received posted write is performed and acknowledged. -/
  | writeRequest (p : Packet)
  /-- MCWR (R366): A received multicast write is performed through this context's tables. -/
  | mcwr (p : Packet)
  /-- AT (R361): A received atomic is performed and answered with old values. -/
  | atomicRequest (p : Packet)
  /-- RDATA (R361): Returned read data and status reach the requester. -/
  | rdata (p : Packet)
  /-- ACK (R363): An acknowledgement with status completes a remote store. -/
  | ack (p : Packet)
  /-- TOK_REQUEST (R314): A token request arrives at the region's home. -/
  | tokRequest (peer region : Nat)
  /-- TOK_GRANT (R314): A token grant makes this device the holder. -/
  | tokGrant (region : Nat)
  /-- TOK_RECALL (R314): A recall invalidates the holder's lines and drains its stores. -/
  | tokRecall (region : Nat)
  /-- TOK_RETURN (R314): A token returns to its home. -/
  | tokReturn (region : Nat)
  /-- PSTATE (R344): A switch announces a peer's new state, posting an event. -/
  | pstate (peer : Nat) (st : PeerState)
  /-- BADPKT (R361): A packet of reserved type is dropped and answered with BADPKT. -/
  | badpkt (p : Packet)
  /-- COMMAND_AREA_ACCESS (R374): A host access to the command area of the control aperture is performed through its window: an ENQ append to the firmware command queue, a WNZ or FCLR access to a completion word, or a read or write of a command block. -/
  | commandAreaAccess (h : HostAccess)
  /-- ROM_DIGEST_CHECK_DONE (R383): Horizon core 0 finishes checking the ROM digest and moves STATE to TEST, or to FAILED on a mismatch. -/
  | romDigestCheckDone (good : Bool)
  deriving DecidableEq, Repr, Inhabited

end Sys2Proof
end

