-- ==== Sys2Proof/WellFormed.lean ====
section
/-! DEFINITION. What makes an instruction well formed: the encoding checks of R74 (R61 to R63, R65, R68, R71, R136, R201, R231, R235, R283, R301, R320). -/

namespace Sys2Proof

/-- Why a word or an instruction is not well formed (R74). -/
inductive DecodeErr where
  /-- The opcode is unallocated (R72). -/
  | unallocated
  /-- A field that must be zero is not. -/
  | nonzeroField
  /-- A source holds a reserved code (R65). -/
  | reservedSource
  /-- A source is of a kind that the opcode does not allow (R65, R136, R235). -/
  | badKind
  /-- D, W or BL break R62 or R63. -/
  | badDest
  /-- MOD breaks R68. -/
  | badMod
  /-- A format M field breaks R71 or R201, or AOP is reserved (R70). -/
  | badMem
  /-- SRD or SWR names a register it may not (R98). -/
  | badSpecial
  /-- A step of a unit names a port, core, cluster or peer that the K9 does not have (R2). -/
  | badEvent
  deriving DecidableEq, Repr

/-- The error e unless b holds. -/
def chk (b : Bool) (e : DecodeErr) : Option DecodeErr := if b then none else some e

/-- The kinds of source that a description allows (R65, R136): an even pair where the name ends in 2. -/
inductive SrcKind where
  | zero | any | any2 | pred | vr | vr2 | s | s2 | si | imm
  deriving DecidableEq, Repr

/-- Whether a source is of a kind. -/
def SrcKind.ok : SrcKind → Src → Bool
  | .zero, x => x == .v 0
  | .any, _ => true
  | .any2, .v r => r.toNat % 2 == 0
  | .any2, _ => true
  | .pred, .v r => r.toNat < 8
  | .pred, _ => false
  | .vr, .v _ => true
  | .vr, _ => false
  | .vr2, .v r => r.toNat % 2 == 0
  | .vr2, _ => false
  | .s, .s _ => true
  | .s, _ => false
  | .s2, .s r => r.toNat % 2 == 0
  | .s2, _ => false
  | .si, .s _ => true
  | .si, .imm _ => true
  | .si, .const _ => true
  | .si, _ => false
  | .imm, .imm _ => true
  | .imm, .const _ => true
  | .imm, _ => false

/-- The kinds of destination of format V (R62, R63, R231). -/
inductive DestKind where
  | v | v2 | s | p | none | acc
  deriving DecidableEq, Repr

/-- Whether D, W and BL fit a kind of destination. -/
def DestKind.ok : DestKind → VForm → Bool
  | .v, _ => true
  | .v2, f => f.d.toNat % 2 == 0
  | .s, f => decide (f.d < 64) && !f.w && f.bl == 0
  | .p, f => decide (f.d < 8) && !f.w && f.bl == 0
  | .none, f => f.d == 0 && !f.w && f.bl == 0
  | .acc, f => (if bitAt f.d 7 then decide (fldN f.d 0 5 ≤ 17) else !bitAt f.d 6) && !f.w && f.bl == 0

/-- D64 of the logic family (R68). -/
abbrev VForm.d64 (f : VForm) : Bool := bitAt f.md 2
/-- Destination type code of CVT (R68). -/
abbrev VForm.cvtDst (f : VForm) : Nat := fldN f.md 3 4
/-- Source type code of CVT (R68). -/
abbrev VForm.cvtSrc (f : VForm) : Nat := fldN f.md 7 4

/-- The checks of a format V word. -/
def vchk (f : VForm) (dest : DestKind) (a b c : SrcKind) (md : Bool) : Option DecodeErr :=
  ((((chk md .badMod).or (chk (dest.ok f) .badDest)).or (chk (a.ok f.a) .badKind)).or
    (chk (b.ok f.b) .badKind)).or (chk (c.ok f.c) .badKind)

/-- The checks of SMOVI and SMOVH (R59, R62, R145). -/
def ichkS (f : IForm) : Option DecodeErr :=
  (chk (f.a == .v 0) .nonzeroField).or (chk (decide (f.d < 64) && !f.w && f.bl == 0) .badDest)

/-- The checks of a format C word (R61). -/
def cchk (_ : CForm) (d hint live off : Bool) : Option DecodeErr :=
  (chk d .badDest).or (chk (hint && live && off) .nonzeroField)

/-- The number of v registers that SZ bytes fill (R207). -/
def szRegs (sz : BitVec 4) : Nat := if sz ≤ 2 then 1 else 2 ^ (sz.toNat - 2)

/-- The data register is a multiple of its register count (R62). -/
def mData (f : MForm) : Bool := f.d.toNat % szRegs f.sz == 0

/-- The data register of DFILL: a pair with a v base, an s register with an s base (R217). -/
def mFillData (f : MForm) : Bool :=
  match f.a with
  | .v _ => f.d.toNat % 2 == 0
  | _ => decide (f.d < 64)

/-- The address base: a v operand, even where it names a pair, or an s operand (R65, R67). -/
def mBase (f : MForm) (pair : Bool) : Bool :=
  match f.a with
  | .v r => !pair || r.toNat % 2 == 0
  | .s _ => true
  | _ => false

/-- An s address base. -/
def mSBase (f : MForm) : Bool :=
  match f.a with
  | .s _ => true
  | _ => false

/-- SCOPE is no reserved value, and ORD needs a scope (R71). -/
def mScope (f : MForm) : Bool := decide (f.scope ≠ 7) && (f.ord == 0 || f.scope != 0)

/-- The checks of a format M word (R71, R201). -/
def mchk (f : MForm) (d base b sz : Bool) : Option DecodeErr :=
  (chk d .badDest).or ((chk base .badKind).or ((chk b .badKind).or (chk (sz && mScope f) .badMem)))

/-- AOP of an atomic (R60, R70). -/
abbrev MForm.aop (f : MForm) : Nat := fldN f.off 8 4

/-- The checks of ATOM and ATOMS (R70, R71, R201). -/
def mchkA (f : MForm) (base : Bool) : Option DecodeErr :=
  mchk f (f.sz != 3 || f.d.toNat % 2 == 0) base (f.sz != 3 || SrcKind.any2.ok f.b)
    ((f.sz == 2 || (f.sz == 3 && f.aop != 1 && f.aop != 11 && f.aop != 12)) && decide (f.aop ≤ 12))

/-- The checks of the fences (R71). -/
def fchk (f : MForm) (kind : Bool) : Option DecodeErr :=
  (chk (f.d == 0) .badDest).or (chk (f.a == .v 0 && f.b == .v 0 && f.sz == 0 && f.off == 0 && kind) .badMem)

/-- The special registers that SWR may name, by index (R98). -/
def srWritable (k : Nat) : Bool :=
  [0x13, 0x16, 0x1B, 0x1D, 0x20, 0x21, 0x22, 0x25, 0x28, 0x2A, 0x2B, 0x2C].contains k

/-- The first encoding check that an instruction fails, if any (R74). -/
def Instr.check : Instr → Option DecodeErr
  | .nop f => if f = {} then none else some .nonzeroField
  | .iadd f => vchk f .v .any .any .zero (decide (f.md &&& 0x7FD = 0))
  | .isub f => vchk f .v .any .any .zero (decide (f.md &&& 0x7FD = 0))
  | .imul f => vchk f .v .any .any .zero (decide (f.md &&& 0x7FD = 0))
  | .imulh f => vchk f .v .any .any .zero (decide (f.md &&& 0x7FE = 0))
  | .imad f => vchk f .v .any .any .any (decide (f.md &&& 0x7FD = 0))
  | .imin f => vchk f .v .any .any .zero (decide (f.md &&& 0x7FE = 0))
  | .imax f => vchk f .v .any .any .zero (decide (f.md &&& 0x7FE = 0))
  | .iabs f => vchk f .v .any .zero .zero (decide (f.md = 0))
  | .ineg f => vchk f .v .any .zero .zero (decide (f.md = 0))
  | .idiv f => vchk f .v .any .any .zero (decide (f.md &&& 0x7FE = 0))
  | .irem f => vchk f .v .any .any .zero (decide (f.md &&& 0x7FE = 0))
  | .iaddi _ => none
  | .imuli _ => none
  | .movi f => chk (decide (f.a = .v 0)) .nonzeroField
  | .lop3 f => vchk f .v .any .any .any (decide (f.md &&& 0x700 = 0))
  | .ladd f => vchk f .v2 .any2 .any2 .zero (decide (f.md &&& 0x7FD = 0))
  | .lsub f => vchk f .v2 .any2 .any2 .zero (decide (f.md &&& 0x7FD = 0))
  | .lmul f => vchk f .v2 .any2 .any2 .zero (decide (f.md &&& 0x7FD = 0))
  | .lea f => vchk f .v2 .any2 .any .any (decide (f.md = 0))
  | .and f => vchk f (if f.d64 then .v2 else .v) (if f.d64 then .any2 else .any) (if f.d64 then .any2 else .any) .zero (decide (f.md &&& 0x7FB = 0))
  | .or f => vchk f (if f.d64 then .v2 else .v) (if f.d64 then .any2 else .any) (if f.d64 then .any2 else .any) .zero (decide (f.md &&& 0x7FB = 0))
  | .xor f => vchk f (if f.d64 then .v2 else .v) (if f.d64 then .any2 else .any) (if f.d64 then .any2 else .any) .zero (decide (f.md &&& 0x7FB = 0))
  | .andn f => vchk f (if f.d64 then .v2 else .v) (if f.d64 then .any2 else .any) (if f.d64 then .any2 else .any) .zero (decide (f.md &&& 0x7FB = 0))
  | .shl f => vchk f (if f.d64 then .v2 else .v) (if f.d64 then .any2 else .any) (if f.d64 then .any else .any) .zero (decide (f.md &&& 0x7FB = 0))
  | .shr f => vchk f (if f.d64 then .v2 else .v) (if f.d64 then .any2 else .any) (if f.d64 then .any else .any) .zero (decide (f.md &&& 0x7FA = 0))
  | .rot f => vchk f (if f.d64 then .v2 else .v) (if f.d64 then .any2 else .any) (if f.d64 then .any else .any) .zero (decide (f.md &&& 0x7FB = 0))
  | .bfe f => vchk f (if f.d64 then .v2 else .v) (if f.d64 then .any2 else .any) (if f.d64 then .any else .any) .zero (decide (f.md &&& 0x7FA = 0))
  | .bfi f => vchk f (if f.d64 then .v2 else .v) (if f.d64 then .any2 else .any) (if f.d64 then .any else .any) (if f.d64 then .any2 else .any) (decide (f.md &&& 0x7FB = 0))
  | .popc f => vchk f (if f.d64 then .v else .v) (if f.d64 then .any2 else .any) .zero .zero (decide (f.md &&& 0x7FB = 0))
  | .clz f => vchk f (if f.d64 then .v else .v) (if f.d64 then .any2 else .any) .zero .zero (decide (f.md &&& 0x7FB = 0))
  | .brev f => vchk f (if f.d64 then .v2 else .v) (if f.d64 then .any2 else .any) .zero .zero (decide (f.md &&& 0x7FB = 0))
  | .isetp f => vchk f .p (if bitAt f.md 4 then .any2 else .any) (if bitAt f.md 4 then .any2 else .any) .zero (decide (f.md &&& 0x7E0 = 0 ∧ fldN f.md 0 3 ≤ 5))
  | .fsetp f => vchk f .p .any .any .zero (decide (f.md &&& 0x7F0 = 0 ∧ fldN f.md 0 4 ≤ 13))
  | .plop f => vchk f .p .pred .pred .pred (decide (f.md &&& 0x700 = 0))
  | .sel f => vchk f .v .any .any .pred (decide (f.md = 0))
  | .pmov f => if bitAt f.md 0 then vchk f .p .vr .zero .zero (decide (f.md &&& 0x7FE = 0)) else vchk f .v .pred .zero .zero (decide (f.md &&& 0x7FE = 0))
  | .clmul f => vchk f .v .any .any .zero (decide (f.md = 0))
  | .clmulh f => vchk f .v .any .any .zero (decide (f.md = 0))
  | .prmt f => vchk f .v .any .any .any (decide (f.md = 0))
  | .fadd f => vchk f .v .any .any .zero (decide (f.md &&& 0x600 = 0 ∧ fldN f.md 0 3 ≤ 3))
  | .fsub f => vchk f .v .any .any .zero (decide (f.md &&& 0x600 = 0 ∧ fldN f.md 0 3 ≤ 3))
  | .fmul f => vchk f .v .any .any .zero (decide (f.md &&& 0x600 = 0 ∧ fldN f.md 0 3 ≤ 3))
  | .ffma f => vchk f .v .any .any .any (decide (f.md &&& 0x600 = 0 ∧ fldN f.md 0 3 ≤ 3))
  | .fmin f => vchk f .v .any .any .zero (decide (f.md &&& 0x607 = 0))
  | .fmax f => vchk f .v .any .any .zero (decide (f.md &&& 0x607 = 0))
  | .fclamp f => vchk f .v .any .any .any (decide (f.md &&& 0x607 = 0))
  | .fdiv f => vchk f .v .any .any .zero (decide (f.md &&& 0x600 = 0 ∧ fldN f.md 0 3 ≤ 3))
  | .fsqrt f => vchk f .v .any .zero .zero (decide (f.md &&& 0x600 = 0 ∧ fldN f.md 0 3 ≤ 3))
  | .frcp f => vchk f .v .any .zero .zero (decide (f.md &&& 0x607 = 0))
  | .frsq f => vchk f .v .any .zero .zero (decide (f.md &&& 0x607 = 0))
  | .frnd f => vchk f .v .any .zero .zero (decide (f.md &&& 0x600 = 0 ∧ fldN f.md 0 3 ≤ 3))
  | .fscale f => vchk f .v .any .any .zero (decide (f.md &&& 0x600 = 0 ∧ fldN f.md 0 3 ≤ 3))
  | .fexpt f => vchk f .v .any .zero .zero (decide (f.md &&& 0x600 = 0 ∧ fldN f.md 0 3 ≤ 3))
  | .hadd2 f => vchk f .v .any .any .zero (decide (f.md &&& 0x400 = 0 ∧ fldN f.md 0 3 ≤ 3))
  | .hmul2 f => vchk f .v .any .any .zero (decide (f.md &&& 0x400 = 0 ∧ fldN f.md 0 3 ≤ 3))
  | .hfma2 f => vchk f .v .any .any .any (decide (f.md &&& 0x400 = 0 ∧ fldN f.md 0 3 ≤ 3))
  | .hmin2 f => vchk f .v .any .any .zero (decide (f.md &&& 0x407 = 0))
  | .hmax2 f => vchk f .v .any .any .zero (decide (f.md &&& 0x407 = 0))
  | .cvt f => vchk f (if f.cvtDst = 6 ∨ f.cvtDst = 7 then .v2 else .v) (if f.cvtSrc = 6 ∨ f.cvtSrc = 7 then .any2 else .any) .zero .zero (decide (fldN f.md 0 3 ≤ 4))
  | .qpack f => vchk f .v .any (if bitAt f.md 7 then .any else .zero) .zero (decide (fldN f.md 0 3 ≤ 4 ∧ f.md &&& 0x600 = 0 ∧ fldN f.md 3 4 ≠ 5 ∧ fldN f.md 3 4 ≠ 6 ∧ fldN f.md 3 4 ≠ 15))
  | .qunpk f => vchk f .v .any .zero .zero (decide (f.md &&& 0x787 = 0 ∧ fldN f.md 3 4 ≠ 5 ∧ fldN f.md 3 4 ≠ 6 ∧ fldN f.md 3 4 ≠ 15))
  | .spl6 f => vchk f .v2 .any2 .zero .zero (decide (f.md = 0))
  | .jn6 f => vchk f .v2 .any2 .zero .zero (decide (f.md = 0))
  | .fexp2 f => vchk f .v .any .zero .zero (decide (f.md &&& 0x607 = 0))
  | .flog2 f => vchk f .v .any .zero .zero (decide (f.md &&& 0x607 = 0))
  | .fsin f => vchk f .v .any .zero .zero (decide (f.md &&& 0x607 = 0))
  | .fcos f => vchk f .v .any .zero .zero (decide (f.md &&& 0x607 = 0))
  | .ftanh f => vchk f .v .any .zero .zero (decide (f.md &&& 0x607 = 0))
  | .fsigm f => vchk f .v .any .zero .zero (decide (f.md &&& 0x607 = 0))
  | .ferf f => vchk f .v .any .zero .zero (decide (f.md &&& 0x607 = 0))
  | .ateval f => vchk f .v .any .zero .zero (decide (f.md &&& 0x607 = 0))
  | .shfl f => vchk f .v .any .any .zero (decide (f.md &&& 0x5C0 = 0))
  | .redx f => vchk f .v .any .zero (if bitAt f.md 5 then .s else .zero) (decide (f.md &&& 0x7C0 = 0 ∧ fldN f.md 0 3 ≤ 5 ∧ fldN f.md 3 2 ≤ 2))
  | .scanx f => vchk f .v .any .zero (if bitAt f.md 5 then .s else .zero) (decide (f.md &&& 0x780 = 0 ∧ fldN f.md 0 3 ≤ 5 ∧ fldN f.md 3 2 ≤ 2))
  | .ballot f => vchk f .v2 .any .zero .zero (decide (f.md = 0))
  | .matchKeys f => vchk f .v2 (if bitAt f.md 0 then .any2 else .any) .zero .zero (decide (f.md &&& 0x7FE = 0))
  | .elect f => vchk f .p (if bitAt f.md 0 then .vr2 else .zero) .zero .zero (decide (f.md &&& 0x7FE = 0))
  | .vote f => vchk f .p .any .zero .zero (decide (f.md &&& 0x7FC = 0 ∧ fldN f.md 0 2 ≤ 2))
  | .rdlane f => vchk f .s .vr .si .zero (decide (f.md = 0))
  | .wrlane f => vchk f .v .si .si .zero (decide (f.md = 0))
  | .xshuf f => vchk f .v .any .s .zero (decide (f.md = 0))
  | .xshto _ _ => none
  | .smov f => vchk f .s .si .zero .zero (decide (f.md = 0))
  | .smovi f => ichkS f
  | .smovh f => ichkS f
  | .sadd f => vchk f .s .si .si .zero (decide (f.md &&& 0x7FD = 0))
  | .ssub f => vchk f .s .si .si .zero (decide (f.md &&& 0x7FD = 0))
  | .smul f => vchk f .s .si .si .zero (decide (f.md &&& 0x7FC = 0))
  | .sand f => vchk f .s .si .si .zero (decide (f.md = 0))
  | .sor f => vchk f .s .si .si .zero (decide (f.md = 0))
  | .sxor f => vchk f .s .si .si .zero (decide (f.md = 0))
  | .sshl f => vchk f .s .si .si .zero (decide (f.md = 0))
  | .sshr f => vchk f .s .si .si .zero (decide (f.md &&& 0x7FE = 0))
  | .scmp f => vchk f .s .si .si .zero (decide (f.md &&& 0x7E2 = 0 ∧ fldN f.md 2 3 ≤ 5))
  | .ssel f => vchk f .s .si .si .s (decide (f.md = 0))
  | .srd f => (vchk f .s .zero .zero .zero (decide (f.md &&& 0x700 = 0))).or (chk (decide (fldN f.md 0 8 ≤ 0x2C)) .badSpecial)
  | .swr f => (vchk f .none .si .zero .zero (decide (f.md &&& 0x700 = 0))).or (chk (srWritable (fldN f.md 0 8)) .badSpecial)
  | .bra f => cchk f (f.d == 0) true (f.live == 0) true
  | .jmp f => vchk f .none .s .zero .zero (decide (f.md = 0))
  | .call f => cchk f (decide (f.d < 64)) (f.hint == 0) (f.live == 0) true
  | .ret f => vchk f .none .s .zero .zero (decide (f.md = 0))
  | .mjoin f => cchk f (f.d == 0) (f.hint == 0) (f.live == 0) true
  | .join f => cchk f (f.d == 0) (f.hint == 0) (f.live == 0) (f.off == 0)
  | .exit f => cchk f (f.d == 0) (f.hint == 0) (f.live == 0) (f.off == 0)
  | .kill f => cchk f (f.d == 0) (f.hint == 0) (f.live == 0) (f.off == 0)
  | .bar f => vchk f .none .zero .zero .zero (decide (f.md &&& 0x7F0 = 0))
  | .yield f => cchk f (f.d == 0) (f.hint == 0) (f.live == 0) (f.off == 0)
  | .waitc f => vchk f .none .si .zero .zero (decide (fldN f.md 0 11 ≤ 5))
  | .idem f => (vchk f .none .imm .zero .zero (decide (f.md = 0))).or (chk (decide (f.a = .imm 0 ∨ f.a = .imm 1)) .badKind)
  | .trap f => (chk (decide (f.a = .v 0)) .nonzeroField).or (chk (decide (f.d = 0 ∧ f.w = false ∧ f.bl = 0)) .badDest)
  | .tretRpl f => vchk f .none .zero .zero .zero (decide (f.md = 0))
  | .tretSkp f => vchk f .none .zero .zero .zero (decide (f.md = 1))
  | .rbsur f => vchk f .none .si .zero .zero (decide (f.md = 0))
  | .rbclm f => vchk f .none .si .zero .zero (decide (f.md = 0))
  | .brk f => cchk f (f.d == 0) (f.hint == 0) (f.live == 0) (decide (f.off < 0x10000))
  | .lds f => mchk f (mData f) (mBase f false) (f.b == .v 0) (decide (f.sz ≤ 5))
  | .sts f => mchk f (mData f) (mBase f false) (f.b == .v 0) (decide (f.sz ≤ 5))
  | .atoms f => mchkA f (mBase f false)
  | .ldsx f => mchk f (mData f) (mSBase f) (f.b == .v 0) (decide (2 ≤ f.sz ∧ f.sz ≤ 5))
  | .stsx f => mchk f (mData f) (mSBase f) (f.b == .v 0) (decide (2 ≤ f.sz ∧ f.sz ≤ 5))
  | .ld f => mchk f (mData f) (mBase f true) (f.b == .v 0) (decide (f.sz ≤ 5))
  | .st f => mchk f (mData f) (mBase f true) (f.b == .v 0) (decide (f.sz ≤ 5))
  | .atom f => mchkA f (mBase f true)
  | .sld f => mchk f (decide (f.d < 64)) (mSBase f) (f.b == .v 0) (decide (f.sz ≤ 3))
  | .sst f => mchk f (decide (f.d < 64)) (mSBase f) (f.b == .v 0) (decide (f.sz ≤ 3))
  | .fence f => fchk f (decide (f.scope ≠ 0 ∧ f.scope ≠ 7 ∧ f.ord ≠ 0))
  | .fencel f => fchk f (decide (f.scope ≠ 0 ∧ f.scope ≠ 7 ∧ f.ord = 0))
  | .fenceh f => fchk f (decide (f.scope ≠ 0 ∧ f.scope ≠ 7 ∧ f.ord = 0))
  | .opfence f => fchk f (decide (f.scope = 0 ∧ f.ord = 0))
  | .invl1 f => mchk f (f.d == 0) (mBase f true) (f.b == .v 0) (decide (f.sz = 0 ∧ f.scope = 0 ∧ f.ord = 0))
  | .pref f => mchk f (f.d == 0) (mBase f true) (f.b == .v 0) (decide (f.sz = 0 ∧ f.scope = 0 ∧ f.ord = 0))
  | .dfill f => mchk f (mFillData f) (mBase f true) (decide (f.b = .imm 0 ∨ f.b = .imm 1)) (decide (f.sz = 3 ∧ f.scope = 5 ∧ f.ord = 2))
  | .cpy f => vchk f .none .s .s .s (decide (f.md = 0))
  | .tcpy f => vchk f .none .s .s .s (decide (f.md = 0))
  | .chain f => vchk f .none .s .zero .zero (decide (f.md = 0))
  | .gather f => vchk f .none .s .s .s (decide (f.md = 0))
  | .scatter f => vchk f .none .s .s .s (decide (f.md = 0))
  | .nrset f => vchk f .none .s .zero .zero (decide (f.md = 0))
  | .nred f => vchk f .none .s .s .zero (decide (f.md = 0))
  | .mma f => vchk f .acc .vr .s .s2 (decide (f.md &&& 0x3FF = 0))
  | .pmma f => vchk f .acc .vr .s .s2 (decide (f.md &&& 0x3FF = 0))
  | .smma f => vchk f .acc .vr .s .s2 (decide (f.md &&& 0x3FF = 0))
  | .accld f => vchk f .acc .vr .imm .zero (decide (f.md = 0))
  | .accst f => vchk f .acc .vr .imm .zero (decide (f.md = 0))
  | .accz f => vchk f .acc .si .si .zero (decide (f.md = 0))
  | .drain f => vchk f .acc .s .s .zero (decide (f.md = 0))
  | .lqstart f => vchk f .none .s .zero .zero (decide (f.md = 0))
  | .lqstop f => vchk f .none .zero .zero .zero (decide (f.md = 0))
  | .atload f => vchk f .none .s .zero .zero (decide (f.md = 0))
  | .atswap f => vchk f .none .zero .zero .zero (decide (f.md = 0))
  | .msusp f => vchk f .none .zero .zero .zero (decide (f.md = 0))
  | .mres f => vchk f .none .zero .zero .zero (decide (f.md = 0))
  | .tspawn f => vchk f .none .s .s .zero (decide (f.md = 0))
  | .wqry f => vchk f .none .s .zero .zero (decide (f.md = 0))
  | .glaunch f => vchk f .none .s .zero .zero (decide (f.md = 0))
  | .gwait f => vchk f .none .s .zero .zero (decide (f.md = 0))
  | .jmpx f => cchk f (f.d == 0) true true true
  | .tokacq f => vchk f .none .s .zero .zero (decide (f.md = 0))
  | .tokrel f => vchk f .none .s .zero .zero (decide (f.md = 0))
  | .tokqry f => vchk f .none .s .s .zero (decide (f.md = 0))
  | .tlbinv f => vchk f .none .s .s .zero (decide (f.md = 0))
  | .fqpop f => vchk f .none .s .zero .zero (decide (f.md = 0))
  | .fqrpl f => vchk f .none .s .s .zero (decide (f.md = 0))
  | .migr f => vchk f .none .s .s .s (decide (f.md = 0))
  | .cntrd f => vchk f .none .s .s .zero (decide (f.md = 0))
  | .cntclr f => vchk f .none .s .s .zero (decide (f.md = 0))
  | .clauseIssue _ _ => none
  | .swapEvent core => chk (decide (core < 192)) .badEvent
  | .watchdogExpiry _ => none
  | .memRequestComplete _ _ _ => none
  | .homeAccess _ _ => none
  | .faultService => none
  | .migrationDone _ => none
  | .groupEnd _ => none
  | .commandDequeue => none
  | .gridAccept _ prio => chk (decide (prio < 4)) .badEvent
  | .workgroupDispatch core => chk (decide (core < 192)) .badEvent
  | .shadowAbandon _ => none
  | .taskDispatch _ prio core => chk (decide (core < 192 ∧ prio < 4)) .badEvent
  | .dispatchPassOverLimit cluster => chk (decide (cluster < 24)) .badEvent
  | .driftCreation _ => none
  | .driftArrivalEntry _ => none
  | .driftAdmission core => chk (decide (core < 192)) .badEvent
  | .driftSpill _ => none
  | .overflowRingGrow core => chk (decide (core < 192)) .badEvent
  | .copyOpComplete _ => none
  | .chainEnd _ => none
  | .chainCopy _ => none
  | .chainFill _ => none
  | .chainTile _ => none
  | .chainSignal _ => none
  | .chainWaitge _ => none
  | .chainGather _ => none
  | .chainScatter _ => none
  | .nredAccept _ => none
  | .latheOpStart _ => none
  | .latheOpComplete _ => none
  | .ringCommandFetch core => chk (decide (core < 192)) .badEvent
  | .ringMma core => chk (decide (core < 192)) .badEvent
  | .ringSmma core => chk (decide (core < 192)) .badEvent
  | .ringDrain core => chk (decide (core < 192)) .badEvent
  | .waitcnt core => chk (decide (core < 192)) .badEvent
  | .latheSignal core => chk (decide (core < 192)) .badEvent
  | .latheStop core => chk (decide (core < 192)) .badEvent
  | .wqryAnswer _ => none
  | .preemptDeadline _ => none
  | .hostWaitLimit _ => none
  | .recoveryLimit peer => chk (decide (peer < 512)) .badEvent
  | .tokenHoldExpiry _ => none
  | .scrubVisit slice _ _ => chk (decide (slice < 64)) .badEvent
  | .hostMemoryAccess _ => none
  | .controlRegisterWrite _ _ => none
  | .reset => none
  | .patchgoPatch _ => none
  | .patchgoContinue => none
  | .powerOn => none
  | .functionLevelReset => none
  | .powerLoss => none
  | .selfTestDone => none
  | .patchWaitTimeout => none
  | .linkTrainingDone => none
  | .negotiate _ => none
  | .ctxCreate _ => none
  | .ctxDestroy _ => none
  | .map _ => none
  | .unmap _ => none
  | .migrate _ => none
  | .launch _ => none
  | .launchCoop _ => none
  | .preempt _ => none
  | .preemptResume _ => none
  | .resetContext _ => none
  | .queryDevice _ => none
  | .queryTaskQueues _ => none
  | .queryFaultQueue _ => none
  | .queryVersion _ => none
  | .queryPeerState _ => none
  | .setOperatingPoint _ => none
  | .clearFcons _ => none
  | .setWdlim _ => none
  | .setQosDefault _ => none
  | .setPrefetchThreshold _ => none
  | .setHostWaitLimit _ => none
  | .setRecoveryLimit _ => none
  | .setDomainRun _ => none
  | .unpinRegion _ => none
  | .serviceAttach _ => none
  | .scrubCfg _ => none
  | .screenCfg _ => none
  | .linkLockUnlock _ => none
  | .linkLockLock _ => none
  | .linkLockStart _ => none
  | .getVersion port => chk (decide (port < 72)) .badEvent
  | .getCapabilities h => chk (decide (h.port < 72)) .badEvent
  | .negotiateAlgorithms port _ => chk (decide (port < 72)) .badEvent
  | .getDigests port => chk (decide (port < 72)) .badEvent
  | .getCertificate port => chk (decide (port < 72)) .badEvent
  | .challenge port => chk (decide (port < 72)) .badEvent
  | .getMeasurements port => chk (decide (port < 72)) .badEvent
  | .keyExchange port => chk (decide (port < 72)) .badEvent
  | .finish h => chk (decide (h.port < 72)) .badEvent
  | .keyUpdate port => chk (decide (port < 72)) .badEvent
  | .endSession port => chk (decide (port < 72)) .badEvent
  | .frameLimitKeyUpdate port => chk (decide (port < 72)) .badEvent
  | .frameTagFail port => chk (decide (port < 72)) .badEvent
  | .flitReceive port _ => chk (decide (port < 72)) .badEvent
  | .linkAckReceive port _ => chk (decide (port < 72)) .badEvent
  | .replayRequest port _ => chk (decide (port < 72)) .badEvent
  | .laneLossOfLock port => chk (decide (port < 72)) .badEvent
  | .retrainComplete port => chk (decide (port < 72)) .badEvent
  | .widthRestore port => chk (decide (port < 72)) .badEvent
  | .idlePortNarrow port => chk (decide (port < 72)) .badEvent
  | .portUp port => chk (decide (port < 72)) .badEvent
  | .linkVersionOffer port _ => chk (decide (port < 72)) .badEvent
  | .readRequest _ => none
  | .writeRequest _ => none
  | .mcwr _ => none
  | .atomicRequest _ => none
  | .rdata _ => none
  | .ack _ => none
  | .tokRequest peer _ => chk (decide (peer < 512)) .badEvent
  | .tokGrant _ => none
  | .tokRecall _ => none
  | .tokReturn _ => none
  | .tokQueryAnswer _ _ => none
  | .pstate peer _ => chk (decide (peer < 512)) .badEvent
  | .badpkt _ => none
  | .commandAreaAccess _ => none
  | .romDigestCheckDone _ => none
  | .accumulatorPortComplete _ => none
  | .activationBankLoadDone _ => none
  | .tokenEntryExpiry _ => none

/-- An instruction is well formed when no check of R74 fails. -/
def Instr.wf (i : Instr) : Bool := i.check.isNone

end Sys2Proof
end

