-- ==== Sys2Proof/Decode.lean ====
section
/-! DEFINITION. The decoder of instruction words and the encoder, from R58 to R66 and the opcode map of R72. -/

namespace Sys2Proof

/-- The operand that a 10-bit source field names; none for a reserved code (R65). -/
def srcOf (w : BitVec 10) : Option Src :=
  match fldN w 8 2 with
  | 0 => some (.v (fld w 0 8))
  | 1 => if fld w 6 2 = 0 then some (.s (fld w 0 6)) else none
  | 2 => if fld w 2 6 = 0 then some (.b (fld w 0 2)) else none
  | _ =>
    if bitAt w 7 then (if fld w 3 4 = 0 then some (.const (fld w 0 3)) else none)
    else some (.imm (fld w 0 7))

/-- The 10-bit field of an operand (R65). -/
def srcWord : Src → BitVec 10
  | .v r => (0 : BitVec 2) ++ r
  | .s r => (1 : BitVec 2) ++ ((0 : BitVec 2) ++ r)
  | .b r => (2 : BitVec 2) ++ ((0 : BitVec 6) ++ r)
  | .imm n => (3 : BitVec 2) ++ ((0 : BitVec 1) ++ n)
  | .const k => (3 : BitVec 2) ++ ((1 : BitVec 1) ++ ((0 : BitVec 4) ++ k))

/-- One bit as a field. -/
abbrev bit1 (b : Bool) : BitVec 1 := BitVec.ofBool b

/-- The word of a format V instruction (R58). -/
def vWord (op : BitVec 8) (f : VForm) : W64 :=
  op ++ f.d ++ bit1 f.w ++ f.bl ++ f.p ++ bit1 f.pn ++ srcWord f.a ++ srcWord f.b ++ srcWord f.c ++ f.md

/-- The word of a format I instruction (R59). -/
def iWord (op : BitVec 8) (f : IForm) : W64 :=
  op ++ f.d ++ bit1 f.w ++ f.bl ++ f.p ++ srcWord f.a ++ f.imm

/-- The word of a format M instruction (R60). -/
def mWord (op : BitVec 8) (f : MForm) : W64 :=
  op ++ f.d ++ (0 : BitVec 3) ++ f.p ++ bit1 f.pn ++ srcWord f.a ++ srcWord f.b ++ f.sz ++ f.scope ++ f.ord ++ f.off

/-- The word of a format C instruction (R61). -/
def cWord (op : BitVec 8) (f : CForm) : W64 :=
  op ++ f.d ++ (0 : BitVec 3) ++ f.p ++ bit1 f.pn ++ f.hint ++ f.live ++ (0 : BitVec 3) ++ f.off

/-- The fields of a format V word (R58). -/
def vForm (w : W64) : Option VForm := do
  let a ← srcOf (fld w 31 10)
  let b ← srcOf (fld w 21 10)
  let c ← srcOf (fld w 11 10)
  some ⟨fld w 48 8, bitAt w 47, fld w 45 2, fld w 42 3, bitAt w 41, a, b, c, fld w 0 11⟩

/-- The fields of a format I word (R59). -/
def iForm (w : W64) : Option IForm := do
  let a ← srcOf (fld w 32 10)
  some ⟨fld w 48 8, bitAt w 47, fld w 45 2, fld w 42 3, a, fld w 0 32⟩

/-- The fields of a format M word (R60). -/
def mForm (w : W64) : Option MForm := do
  let a ← srcOf (fld w 31 10)
  let b ← srcOf (fld w 21 10)
  some ⟨fld w 48 8, fld w 42 3, bitAt w 41, a, b, fld w 17 4, fld w 14 3, fld w 12 2, fld w 0 12⟩

/-- The fields of a format C word (R61). -/
def cForm (w : W64) : CForm :=
  ⟨fld w 48 8, fld w 42 3, bitAt w 41, fld w 39 2, fld w 35 4, fld w 0 32⟩

/-- The instruction of format V with opcode op (R72). -/
def buildV (op : Nat) (f : VForm) : Option Instr :=
  match op with
  | 0x00 => some (.nop f)
  | 0x01 => some (.iadd f)
  | 0x02 => some (.isub f)
  | 0x03 => some (.imul f)
  | 0x04 => some (.imulh f)
  | 0x05 => some (.imad f)
  | 0x06 => some (.imin f)
  | 0x07 => some (.imax f)
  | 0x08 => some (.iabs f)
  | 0x09 => some (.ineg f)
  | 0x0A => some (.idiv f)
  | 0x0B => some (.irem f)
  | 0x0F => some (.lop3 f)
  | 0x10 => some (.ladd f)
  | 0x11 => some (.lsub f)
  | 0x12 => some (.lmul f)
  | 0x13 => some (.lea f)
  | 0x14 => some (.and f)
  | 0x15 => some (.or f)
  | 0x16 => some (.xor f)
  | 0x17 => some (.andn f)
  | 0x18 => some (.shl f)
  | 0x19 => some (.shr f)
  | 0x1A => some (.rot f)
  | 0x1B => some (.bfe f)
  | 0x1C => some (.bfi f)
  | 0x1D => some (.popc f)
  | 0x1E => some (.clz f)
  | 0x1F => some (.brev f)
  | 0x20 => some (.isetp f)
  | 0x21 => some (.fsetp f)
  | 0x22 => some (.plop f)
  | 0x23 => some (.sel f)
  | 0x24 => some (.pmov f)
  | 0x25 => some (.clmul f)
  | 0x26 => some (.clmulh f)
  | 0x27 => some (.prmt f)
  | 0x30 => some (.fadd f)
  | 0x31 => some (.fsub f)
  | 0x32 => some (.fmul f)
  | 0x33 => some (.ffma f)
  | 0x34 => some (.fmin f)
  | 0x35 => some (.fmax f)
  | 0x36 => some (.fclamp f)
  | 0x37 => some (.fdiv f)
  | 0x38 => some (.fsqrt f)
  | 0x39 => some (.frcp f)
  | 0x3A => some (.frsq f)
  | 0x3B => some (.frnd f)
  | 0x3C => some (.fscale f)
  | 0x3D => some (.fexpt f)
  | 0x40 => some (.hadd2 f)
  | 0x41 => some (.hmul2 f)
  | 0x42 => some (.hfma2 f)
  | 0x43 => some (.hmin2 f)
  | 0x44 => some (.hmax2 f)
  | 0x45 => some (.cvt f)
  | 0x46 => some (.qpack f)
  | 0x47 => some (.qunpk f)
  | 0x48 => some (.spl6 f)
  | 0x49 => some (.jn6 f)
  | 0x50 => some (.fexp2 f)
  | 0x51 => some (.flog2 f)
  | 0x52 => some (.fsin f)
  | 0x53 => some (.fcos f)
  | 0x54 => some (.ftanh f)
  | 0x55 => some (.fsigm f)
  | 0x56 => some (.ferf f)
  | 0x57 => some (.ateval f)
  | 0x60 => some (.shfl f)
  | 0x61 => some (.redx f)
  | 0x62 => some (.scanx f)
  | 0x63 => some (.ballot f)
  | 0x64 => some (.matchKeys f)
  | 0x65 => some (.elect f)
  | 0x66 => some (.vote f)
  | 0x67 => some (.rdlane f)
  | 0x68 => some (.wrlane f)
  | 0x69 => some (.xshuf f)
  | 0x70 => some (.smov f)
  | 0x72 => some (.sadd f)
  | 0x73 => some (.ssub f)
  | 0x74 => some (.smul f)
  | 0x75 => some (.sand f)
  | 0x76 => some (.sor f)
  | 0x77 => some (.sxor f)
  | 0x78 => some (.sshl f)
  | 0x79 => some (.sshr f)
  | 0x7A => some (.scmp f)
  | 0x7B => some (.ssel f)
  | 0x7C => some (.srd f)
  | 0x7D => some (.swr f)
  | 0x81 => some (.jmp f)
  | 0x83 => some (.ret f)
  | 0x88 => some (.bar f)
  | 0x8A => some (.waitc f)
  | 0x8B => some (.idem f)
  | 0x8D => some (if bitAt f.md 0 then .tretSkp f else .tretRpl f)
  | 0x8E => some (.rbsur f)
  | 0x8F => some (.rbclm f)
  | 0xB0 => some (.cpy f)
  | 0xB1 => some (.tcpy f)
  | 0xB2 => some (.chain f)
  | 0xB3 => some (.gather f)
  | 0xB4 => some (.scatter f)
  | 0xB5 => some (.nrset f)
  | 0xB6 => some (.nred f)
  | 0xC0 => some (.mma f)
  | 0xC1 => some (.pmma f)
  | 0xC2 => some (.smma f)
  | 0xC3 => some (.accld f)
  | 0xC4 => some (.accst f)
  | 0xC5 => some (.accz f)
  | 0xC6 => some (.drain f)
  | 0xC7 => some (.lqstart f)
  | 0xC8 => some (.lqstop f)
  | 0xC9 => some (.atload f)
  | 0xCA => some (.atswap f)
  | 0xCB => some (.msusp f)
  | 0xCC => some (.mres f)
  | 0xD0 => some (.tspawn f)
  | 0xD1 => some (.wqry f)
  | 0xD2 => some (.glaunch f)
  | 0xD3 => some (.gwait f)
  | 0xE0 => some (.tokacq f)
  | 0xE1 => some (.tokrel f)
  | 0xE2 => some (.tokqry f)
  | 0xE3 => some (.tlbinv f)
  | 0xE4 => some (.fqpop f)
  | 0xE5 => some (.fqrpl f)
  | 0xE6 => some (.migr f)
  | 0xE7 => some (.cntrd f)
  | 0xE8 => some (.cntclr f)
  | _ => none

/-- The instruction of format I with opcode op (R72). -/
def buildI (op : Nat) (f : IForm) : Option Instr :=
  match op with
  | 0x0C => some (.iaddi f)
  | 0x0D => some (.imuli f)
  | 0x0E => some (.movi f)
  | 0x71 => some (.smovi f)
  | 0x7E => some (.smovh f)
  | 0x8C => some (.trap f)
  | _ => none

/-- The instruction of format M with opcode op (R72). -/
def buildM (op : Nat) (f : MForm) : Option Instr :=
  match op with
  | 0x90 => some (.lds f)
  | 0x91 => some (.sts f)
  | 0x92 => some (.atoms f)
  | 0x93 => some (.ldsx f)
  | 0x94 => some (.stsx f)
  | 0xA0 => some (.ld f)
  | 0xA1 => some (.st f)
  | 0xA2 => some (.atom f)
  | 0xA3 => some (.sld f)
  | 0xA4 => some (.sst f)
  | 0xA5 => some (.fence f)
  | 0xA6 => some (.fencel f)
  | 0xA7 => some (.fenceh f)
  | 0xA8 => some (.opfence f)
  | 0xA9 => some (.invl1 f)
  | 0xAA => some (.pref f)
  | 0xAB => some (.dfill f)
  | _ => none

/-- The instruction of format C with opcode op (R72). -/
def buildC (op : Nat) (f : CForm) : Option Instr :=
  match op with
  | 0x80 => some (.bra f)
  | 0x82 => some (.call f)
  | 0x84 => some (.mjoin f)
  | 0x85 => some (.join f)
  | 0x86 => some (.exit f)
  | 0x87 => some (.kill f)
  | 0x89 => some (.yield f)
  | 0xFF => some (.brk f)
  | 0xD4 => some (.jmpx f)
  | _ => none

/-- The instruction that a word's opcode and fields name, before the checks of WellFormed (R72). -/
def build (w : W64) : Except DecodeErr Instr :=
  let op := fldN w 56 8
  if let some i := buildC op (cForm w) then
    if fld w 45 3 = 0 ∧ fld w 32 3 = 0 then .ok i else .error .nonzeroField
  else if (buildV op {}).isSome then
    match vForm w with
    | none => .error .reservedSource
    | some f => match buildV op f with
      | some i => .ok i
      | none => .error .unallocated
  else if (buildM op {}).isSome then
    match mForm w with
    | none => .error .reservedSource
    | some f => match buildM op f with
      | some i => if fld w 45 3 = 0 then .ok i else .error .nonzeroField
      | none => .error .unallocated
  else if (buildI op {}).isSome then
    match iForm w with
    | none => .error .reservedSource
    | some f => match buildI op f with
      | some i => .ok i
      | none => .error .unallocated
  else .error .unallocated

/-- The instruction of a word, or the reason for ILLOP (R74). -/
def decode (w : W64) : Except DecodeErr Instr :=
  match build w with
  | .error e => .error e
  | .ok i => match i.check with
    | none => .ok i
    | some e => .error e

/-- The decoder on the bytes of an instruction, lowest address first (R10, R48). -/
def decodeBytes (bs : List Byte) : Option Instr :=
  if bs.length = 8 then (decode (BitVec.ofNat 64 (natOfBytes bs))).toOption else none

/-- The instruction of a word whose bits are numbered as spec/opcode_table.json numbers them. -/
def decodeTableWord (nbits w : Nat) : Option Instr :=
  if nbits ≤ 64 then decodeBytes (bytesOf 8 (BitVec.ofNat 64 (w % 2 ^ nbits))) else none

/-- The word of an instruction; a step of a unit has none (R58 to R61, R72). -/
def encode : Instr → Option W64
  | .nop f => some (vWord 0x00 f)
  | .iadd f => some (vWord 0x01 f)
  | .isub f => some (vWord 0x02 f)
  | .imul f => some (vWord 0x03 f)
  | .imulh f => some (vWord 0x04 f)
  | .imad f => some (vWord 0x05 f)
  | .imin f => some (vWord 0x06 f)
  | .imax f => some (vWord 0x07 f)
  | .iabs f => some (vWord 0x08 f)
  | .ineg f => some (vWord 0x09 f)
  | .idiv f => some (vWord 0x0A f)
  | .irem f => some (vWord 0x0B f)
  | .iaddi f => some (iWord 0x0C f)
  | .imuli f => some (iWord 0x0D f)
  | .movi f => some (iWord 0x0E f)
  | .lop3 f => some (vWord 0x0F f)
  | .ladd f => some (vWord 0x10 f)
  | .lsub f => some (vWord 0x11 f)
  | .lmul f => some (vWord 0x12 f)
  | .lea f => some (vWord 0x13 f)
  | .and f => some (vWord 0x14 f)
  | .or f => some (vWord 0x15 f)
  | .xor f => some (vWord 0x16 f)
  | .andn f => some (vWord 0x17 f)
  | .shl f => some (vWord 0x18 f)
  | .shr f => some (vWord 0x19 f)
  | .rot f => some (vWord 0x1A f)
  | .bfe f => some (vWord 0x1B f)
  | .bfi f => some (vWord 0x1C f)
  | .popc f => some (vWord 0x1D f)
  | .clz f => some (vWord 0x1E f)
  | .brev f => some (vWord 0x1F f)
  | .isetp f => some (vWord 0x20 f)
  | .fsetp f => some (vWord 0x21 f)
  | .plop f => some (vWord 0x22 f)
  | .sel f => some (vWord 0x23 f)
  | .pmov f => some (vWord 0x24 f)
  | .clmul f => some (vWord 0x25 f)
  | .clmulh f => some (vWord 0x26 f)
  | .prmt f => some (vWord 0x27 f)
  | .fadd f => some (vWord 0x30 f)
  | .fsub f => some (vWord 0x31 f)
  | .fmul f => some (vWord 0x32 f)
  | .ffma f => some (vWord 0x33 f)
  | .fmin f => some (vWord 0x34 f)
  | .fmax f => some (vWord 0x35 f)
  | .fclamp f => some (vWord 0x36 f)
  | .fdiv f => some (vWord 0x37 f)
  | .fsqrt f => some (vWord 0x38 f)
  | .frcp f => some (vWord 0x39 f)
  | .frsq f => some (vWord 0x3A f)
  | .frnd f => some (vWord 0x3B f)
  | .fscale f => some (vWord 0x3C f)
  | .fexpt f => some (vWord 0x3D f)
  | .hadd2 f => some (vWord 0x40 f)
  | .hmul2 f => some (vWord 0x41 f)
  | .hfma2 f => some (vWord 0x42 f)
  | .hmin2 f => some (vWord 0x43 f)
  | .hmax2 f => some (vWord 0x44 f)
  | .cvt f => some (vWord 0x45 f)
  | .qpack f => some (vWord 0x46 f)
  | .qunpk f => some (vWord 0x47 f)
  | .spl6 f => some (vWord 0x48 f)
  | .jn6 f => some (vWord 0x49 f)
  | .fexp2 f => some (vWord 0x50 f)
  | .flog2 f => some (vWord 0x51 f)
  | .fsin f => some (vWord 0x52 f)
  | .fcos f => some (vWord 0x53 f)
  | .ftanh f => some (vWord 0x54 f)
  | .fsigm f => some (vWord 0x55 f)
  | .ferf f => some (vWord 0x56 f)
  | .ateval f => some (vWord 0x57 f)
  | .shfl f => some (vWord 0x60 f)
  | .redx f => some (vWord 0x61 f)
  | .scanx f => some (vWord 0x62 f)
  | .ballot f => some (vWord 0x63 f)
  | .matchKeys f => some (vWord 0x64 f)
  | .elect f => some (vWord 0x65 f)
  | .vote f => some (vWord 0x66 f)
  | .rdlane f => some (vWord 0x67 f)
  | .wrlane f => some (vWord 0x68 f)
  | .xshuf f => some (vWord 0x69 f)
  | .smov f => some (vWord 0x70 f)
  | .smovi f => some (iWord 0x71 f)
  | .smovh f => some (iWord 0x7E f)
  | .sadd f => some (vWord 0x72 f)
  | .ssub f => some (vWord 0x73 f)
  | .smul f => some (vWord 0x74 f)
  | .sand f => some (vWord 0x75 f)
  | .sor f => some (vWord 0x76 f)
  | .sxor f => some (vWord 0x77 f)
  | .sshl f => some (vWord 0x78 f)
  | .sshr f => some (vWord 0x79 f)
  | .scmp f => some (vWord 0x7A f)
  | .ssel f => some (vWord 0x7B f)
  | .srd f => some (vWord 0x7C f)
  | .swr f => some (vWord 0x7D f)
  | .bra f => some (cWord 0x80 f)
  | .jmp f => some (vWord 0x81 f)
  | .call f => some (cWord 0x82 f)
  | .ret f => some (vWord 0x83 f)
  | .mjoin f => some (cWord 0x84 f)
  | .join f => some (cWord 0x85 f)
  | .exit f => some (cWord 0x86 f)
  | .kill f => some (cWord 0x87 f)
  | .bar f => some (vWord 0x88 f)
  | .yield f => some (cWord 0x89 f)
  | .waitc f => some (vWord 0x8A f)
  | .idem f => some (vWord 0x8B f)
  | .trap f => some (iWord 0x8C f)
  | .tretRpl f => some (vWord 0x8D f)
  | .tretSkp f => some (vWord 0x8D f)
  | .rbsur f => some (vWord 0x8E f)
  | .rbclm f => some (vWord 0x8F f)
  | .brk f => some (cWord 0xFF f)
  | .lds f => some (mWord 0x90 f)
  | .sts f => some (mWord 0x91 f)
  | .atoms f => some (mWord 0x92 f)
  | .ldsx f => some (mWord 0x93 f)
  | .stsx f => some (mWord 0x94 f)
  | .ld f => some (mWord 0xA0 f)
  | .st f => some (mWord 0xA1 f)
  | .atom f => some (mWord 0xA2 f)
  | .sld f => some (mWord 0xA3 f)
  | .sst f => some (mWord 0xA4 f)
  | .fence f => some (mWord 0xA5 f)
  | .fencel f => some (mWord 0xA6 f)
  | .fenceh f => some (mWord 0xA7 f)
  | .opfence f => some (mWord 0xA8 f)
  | .invl1 f => some (mWord 0xA9 f)
  | .pref f => some (mWord 0xAA f)
  | .dfill f => some (mWord 0xAB f)
  | .cpy f => some (vWord 0xB0 f)
  | .tcpy f => some (vWord 0xB1 f)
  | .chain f => some (vWord 0xB2 f)
  | .gather f => some (vWord 0xB3 f)
  | .scatter f => some (vWord 0xB4 f)
  | .nrset f => some (vWord 0xB5 f)
  | .nred f => some (vWord 0xB6 f)
  | .mma f => some (vWord 0xC0 f)
  | .pmma f => some (vWord 0xC1 f)
  | .smma f => some (vWord 0xC2 f)
  | .accld f => some (vWord 0xC3 f)
  | .accst f => some (vWord 0xC4 f)
  | .accz f => some (vWord 0xC5 f)
  | .drain f => some (vWord 0xC6 f)
  | .lqstart f => some (vWord 0xC7 f)
  | .lqstop f => some (vWord 0xC8 f)
  | .atload f => some (vWord 0xC9 f)
  | .atswap f => some (vWord 0xCA f)
  | .msusp f => some (vWord 0xCB f)
  | .mres f => some (vWord 0xCC f)
  | .tspawn f => some (vWord 0xD0 f)
  | .wqry f => some (vWord 0xD1 f)
  | .glaunch f => some (vWord 0xD2 f)
  | .gwait f => some (vWord 0xD3 f)
  | .jmpx f => some (cWord 0xD4 f)
  | .tokacq f => some (vWord 0xE0 f)
  | .tokrel f => some (vWord 0xE1 f)
  | .tokqry f => some (vWord 0xE2 f)
  | .tlbinv f => some (vWord 0xE3 f)
  | .fqpop f => some (vWord 0xE4 f)
  | .fqrpl f => some (vWord 0xE5 f)
  | .migr f => some (vWord 0xE6 f)
  | .cntrd f => some (vWord 0xE7 f)
  | .cntclr f => some (vWord 0xE8 f)
  | _ => none

/-- The engines of a clause (R50, R73). -/
inductive Engine where
  | alu | mem | mtx | ctl
  deriving DecidableEq, Repr

/-- The engine of an opcode; an unallocated one has none (R51, R73). -/
def engineOf (op : Nat) : Option Engine :=
  if (buildC op {}).isNone && (buildV op {}).isNone && (buildM op {}).isNone && (buildI op {}).isNone then none
  else if op = 0x8A then some .mem
  else if op = 0xD4 ∨ op = 0xFF then some .ctl
  else if op < 0x80 then some .alu
  else if op < 0x90 then some .ctl
  else if 0xC0 ≤ op ∧ op ≤ 0xCC then some .mtx
  else some .mem

/-- The control transfers (R55), by opcode. -/
def isTransfer (op : Nat) : Bool :=
  [0x80, 0x81, 0x82, 0x83, 0x85, 0x86, 0x87, 0x89, 0x8C, 0x8D, 0xFF, 0xD4].contains op

end Sys2Proof
end

