-- ==== Sys2Proof/Config.lean ====
section
/-! DEFINITION. What is fixed for a K9 (R2, R5), and the values and choices that the spec leaves open: constants without a body. -/

namespace Sys2Proof.Config

/-- An unspecified value (R13): the k-th one drawn in step t. Nothing constrains it (log 2). -/
opaque free64 : Nat → Nat → BitVec 64

/-- An unspecified choice (R13): the k-th one made in step t. Nothing constrains it (log 2). -/
opaque choose : Nat → Nat → Nat

/-- The clocks that pass in step t (log 4). -/
opaque elapsed : Nat → Nat

/-- The bits that AES-256-GCM adds to the k-th flit of a frame under a key and an IV (R369; log 20). -/
opaque keystream : BitVec 64 → BitVec 96 → Nat → BitVec 256

/-- The tag of AES-256-GCM over a frame's ciphertext under a key and an IV (R369; log 20). -/
opaque tagOf : BitVec 64 → BitVec 96 → List (BitVec 256) → BitVec 128

/-- The key that follows one at KEY_UPDATE (R369; log 20). -/
opaque nextKey : BitVec 64 → BitVec 64

/-- Cores of the K9 (R2). -/
abbrev cores : Nat := 192
/-- Clusters (R2). -/
abbrev clusters : Nat := 24
/-- Memory slices (R2). -/
abbrev slices : Nat := 64
/-- Fabric ports (R2). -/
abbrev ports : Nat := 72
/-- Group slots of a core (R2). -/
abbrev slots : Nat := 32
/-- Register blocks of a core (R5). -/
abbrev blocks : Nat := 128
/-- Scratchpad bytes of a core (R5). -/
abbrev spmBytes : Nat := 0x100000
/-- HBM bytes, tier 0 (R2). -/
abbrev hbmBytes : Nat := 384 * 2 ^ 30
/-- Second-tier bytes, tier 1 (R2). -/
abbrev lpddrBytes : Nat := 2 ^ 40
/-- The local address of byte 0 of tier 1: tier 0 lies below it (log 7). -/
abbrev tier1Base : Nat := 2 ^ 40
/-- ISA features supported (R373, FEATURES). -/
abbrev features : BitVec 64 := 0x1F
/-- Part identity (R373, ID). -/
abbrev idReg : BitVec 64 := 0x00004B39000000C0
/-- Command-set versions supported (R373, VERSIONS). -/
abbrev versions : BitVec 64 := 0b1110
/-- First byte of the range reserved to the firmware (R410). -/
abbrev reservedVa : Nat := 0x00FFFF0000000000
/-- First byte beyond the range reserved to the firmware (R410). -/
abbrev reservedEnd : Nat := 0x0100000000000000

end Sys2Proof.Config
end

