-- ==== Sys2Proof/Machine/State.lean ====
section
/-! DEFINITION. The state of the K9 as plain data, and the state after reset. INVENTORY.md lists every piece with its rule. -/

namespace Sys2Proof.Machine

open Sys2Proof

/-- Why the machine stops. -/
inductive Fault where
  /-- Raised by step when the device has no power and no input restores it: it takes no step (R384). Safe: the device does nothing then. -/
  | powerOff
  deriving DecidableEq, Repr

/-- Why the model has no meaning for a step. -/
inductive Refusal where
  /-- Raised by exec for an instruction that has no meaning yet. Safe: no claim follows. -/
  | notModelled (mnemonic : String)
  deriving DecidableEq, Repr

/-- Memory: address and byte, addresses strictly rising, no byte equal to what an unlisted address reads as. -/
abbrev Memory := List Host.Cell

/-- Where a byte is held. -/
inductive Loc where
  /-- Byte off of a core's scratchpad, physical (R187). -/
  | spm (core off : Nat)
  /-- A local byte of tier 0 or 1 (R188). -/
  | mem (addr : Nat)
  /-- A peer's byte (tier 2, R297). -/
  | peer (p addr : Nat)
  /-- A byte of host physical memory (tier 3, R297). -/
  | host (addr : Nat)
  /-- Byte off of the command area (R374). -/
  | cmd (off : Nat)
  deriving DecidableEq, Repr, Inhabited

/-- The six paths (R317), numbered 0 to 5. -/
inductive Path where
  | scr | glb | rmt | cpy | mtx | qry
  deriving DecidableEq, Repr, Inhabited

/-- The trap causes of R329. -/
inductive Cause where
  | illop | illcls | priv | align | range | perm | winf | ue | sigfail | stkovf | dself | dfail | dconf
  | rmtflt | xshto | driftf | launchf | mxflt | sparsef | swtrap | brkpt | hndmx | wdog | qovf | late | pagef | regown
  deriving DecidableEq, Repr, Inhabited

/-- Why a split does not issue (R278, R321). -/
inductive Wait where
  | none
  /-- Its instruction waits at issue and is tried again: a counter, a release, a rendezvous, a queue. -/
  | stall
  /-- Its memory operation is not settled yet (R202). -/
  | memop (id : Nat)
  /-- Its fetch is parked on a page fault at this address (R303). -/
  | fetch (va : W64)
  /-- Its fetch is parked on a peer that is RECOVERING, since this clock (R345). -/
  | remote (peer : Nat) (since : W64)
  /-- Parked at a JOIN (R150); SIGB as it stood before the JOIN entered it (R321). -/
  | join (before : W16)
  /-- Its trap is pending: siblings' clauses in progress complete first (R326), or a sibling is in trap mode (R331). -/
  | trapped
  /-- A rendezvous with core, slot, begun at this clock (R144). -/
  | xshuf (core slot : Nat) (since : W64)
  /-- In transit at a JMPX (R290). -/
  | drift
  deriving DecidableEq, Repr, Inhabited

/-- A split (R25, R26). -/
structure Split where
  idx : Nat := 0
  mask : Mask := 0
  /-- Address of the next word: a header when left is 0. -/
  pc : W64 := 0
  /-- Address of the header of the clause in progress. -/
  hdrPc : W64 := 0
  /-- The header of the clause in progress. -/
  hdr : W64 := 0
  /-- Instruction words of the clause not yet retired. -/
  left : Nat := 0
  /-- The word fetched last. -/
  ir : W64 := 0
  /-- R53. -/
  sigb : W16 := 0xFFFF
  /-- R160. -/
  sigp : W32 := 0
  wait : Wait := .none
  /-- The barriers at which it has arrived (R153). -/
  bars : List Nat := []
  /-- Lanes for which the next instruction issues, after TRET.RPL (R156). -/
  replay : Option Mask := none
  /-- Acquiring accesses that hold later accesses (R206). -/
  acqs : List Nat := []
  /-- Memory operations in flight that precede its next access in program order (R264). -/
  past : List Nat := []
  /-- Accesses in flight of the splits that a JOIN merged into it: performed before any that it issues (R267). -/
  joined : List Nat := []
  /-- The sibling that issues before it after the divergence that made them (R148). -/
  after : Option Nat := none
  /-- Step of its last clause start, for the order of R277. -/
  started : Nat := 0
  /-- Last of the steps that go to the split which has waited longest in which it issued (R40; log 94). -/
  served : Nat := 0
  /-- It has executed YIELD or a clause with YLD (R54, R152). -/
  yielded : Bool := false
  /-- A queued RBCLM: its address, words left and SIGB as it issued (R158, R321). -/
  claim : Option (W64 × Nat × W16) := none
  /-- What a sibling has overwritten since this split's clause began, as this clause still reads it (R26, R106, R143):
  s register r at key r, register r of lane l at key 64 + 64 r + l, special register x at key 32768 + x. -/
  old : SMap W64 := []
  deriving DecidableEq, Repr, Inhabited

/-- An entry of the reconvergence stack (R147). -/
inductive StackEntry where
  /-- Join record: X, E, Q, G, the waiting splits, the clause after the last arrival's JOIN, and the accesses in flight of the splits that have
  arrived, which precede those of the merged split (R267). -/
  | joinRec (x : W64) (e q : Mask) (g : W32) (waiting : List Nat) (cont : W64) (past : List Nat)
  /-- Deferred entry: resume address, mask, SIGP and the split that pushed it. -/
  | deferred (pc : W64) (mask : Mask) (sigp : W32) (owner : Nat)
  deriving DecidableEq, Repr, Inhabited

/-- An operation counted on a path, in order of issue (R318). -/
structure PathOp where
  id : Nat
  path : Path
  done : Bool := false
  deriving DecidableEq, Repr, Inhabited

/-- A lane record (R328). -/
structure LaneRec where
  addr : W64
  lane : Nat
  cause : Cause
  sz : Nat := 0
  win : Nat := 0
  opc : Nat := 0
  deriving DecidableEq, Repr, Inhabited

/-- A trap of a split as it is raised (R326). -/
structure Trap where
  split : Nat := 0
  cause : Cause := .illop
  pc : W64 := 0
  mask : Mask := 0
  addr : W64 := 0
  recs : List LaneRec := []
  /-- Step in which it was raised (R331). -/
  tick : Nat := 0
  deriving DecidableEq, Repr, Inhabited

/-- What the opaque block keeps while the group is in trap mode (R326, R327). -/
structure Opaque where
  splits : List Split := []
  stack : List StackEntry := []
  /-- The split in trap mode. -/
  trapper : Nat := 0
  /-- The steps of the handler's KILLs on the kept SIGP, already applied (R151). -/
  sigp : W32 := 0
  deriving DecidableEq, Repr, Inhabited

/-- A region of an accumulator store: core, first row, rows, first column, columns (R232). -/
structure AccSpan where
  core : Nat := 0
  row : Nat := 0
  rows : Nat := 0
  col : Nat := 0
  cols : Nat := 0
  deriving DecidableEq, Repr, Inhabited

/-- A group (R16, R20, R93, R98). -/
structure Group where
  gid : Nat := 0
  core : Nat := 0
  slot : Nat := 0
  ctx : Nat := 0
  /-- The model's name of its workgroup. -/
  wg : Nat := 0
  grid : Nat := 0
  wgx : Nat := 0
  wgy : Nat := 0
  wgz : Nat := 0
  lin : Nat := 0
  ginwg : Nat := 0
  teamSize : Nat := 1
  teamIdx : Nat := 0
  depth : Nat := 0
  task : W64 := 0
  /-- Successor-counter address of its task record, as read at its dispatch (R24, R281). -/
  succ : W64 := 0
  evc : W64 := 0
  svc : Bool := false
  late : Bool := false
  drift : Bool := false
  pair : Bool := false
  /-- A screening shadow (R341): its stores become digests. -/
  shadow : Bool := false
  /-- Its stores enter its store hash: a screened workgroup's, or its shadow's (R341). -/
  screened : Bool := false
  /-- It has taken a trap (R341). -/
  trapped : Bool := false
  /-- Its task record is bad, so its first fetch raises ILLCLS (R281). -/
  badTask : Bool := false
  nblk : Nat := 1
  /-- Key 64 r + l: register r of lane l; absent reads zero (R20). -/
  v : SMap W32 := []
  /-- s0 to s63; absent reads zero. -/
  s : SMap W64 := []
  /-- The trap bank, keys 56 to 63 (R95). -/
  bank : SMap W64 := []
  /-- p1 to p7 as lane masks; p0 reads true (R20). -/
  p : SMap Mask := []
  /-- Latch values that split i has written in its clause in progress: key 256 i + 64 b + l (R43). -/
  latch : SMap W64 := []
  /-- v registers written since the last OPFENCE, with the value before (R214). -/
  unfenced : SMap W32 := []
  /-- Scratchpad bytes that it has stored since the last OPFENCE, with the byte before, by key of spm (R214). -/
  unfencedSpm : SMap Byte := []
  splits : List Split := []
  /-- Innermost entry first. -/
  stack : List StackEntry := []
  inflight : List PathOp := []
  /-- R321. -/
  wdog : Nat := 0
  kill : Mask := 0
  cons : Bool := false
  trapm : Bool := false
  preq : Bool := false
  seed : W64 := 1
  idempc : W64 := 0
  /-- Mask, SIGP and stack depth recorded by IDEM (R335). -/
  restart : Option (Mask × W32 × Nat) := none
  rflt : W64 := 0
  mxit : W64 := 0
  drainst : W64 := 0
  lqst : W64 := 0
  tvec : W64 := 0
  tpc : W64 := 0
  tmask : Mask := 0
  tcause : W64 := 0
  taddr : W64 := 0
  tframe : W64 := 0
  tnrec : W64 := 0
  dplace : Nat := 0
  wdlim : BitVec 40 := 0x400000000
  qos : W16 := 0
  mxsave : W64 := 0
  /-- Kept at trap entry (R326). -/
  saved : Option Opaque := none
  /-- Traps of sibling splits held until TRET (R331). -/
  pending : List Trap := []
  /-- A TRET has resumed the group while a trap was pending: it is entered before any split issues (R331). -/
  entering : Bool := false
  /-- The first undelivered copy fault: cause and address (R220). -/
  cpyFault : Option (Cause × W64) := none
  /-- The first undelivered Lathe fault: cause, address, and whether the operation was issued in trap mode (R244). -/
  mtxFault : Option (Cause × W64 × Bool) := none
  /-- A late reply is to be raised (R330). -/
  lateDue : Option W64 := none
  /-- Blocks surrendered that wait for zero counters (R157). -/
  owed : Nat := 0
  /-- Team instructions issued so far (R234). -/
  pairings : Nat := 0
  /-- Holds the handler strip (R262). -/
  strip : Bool := false
  /-- In the active set; else pending (R277). -/
  active : Bool := false
  /-- Step of its admission to the active set, or of its creation (R279). -/
  order : Nat := 0
  /-- Step in which it became ready, while it is pending and ready (R279). -/
  readyAt : Option Nat := none
  /-- A swap event has named it: it leaves the active set at the next clause boundary of its splits (R279). -/
  leaving : Bool := false
  /-- SR_CLK when the JMPX under way first issued (R293). -/
  jmpxAt : Option W64 := none
  /-- Store hash and XOR of ended splits' SIGP (R341). -/
  hash : W64 := 0
  endSigp : W32 := 0
  /-- Every lane has ended; the slot is freed when the counters are zero (R22). -/
  ended : Bool := false
  /-- The split whose EXIT or KILL ended the last lane, as it stood before it (R22). -/
  lastSplit : Option Split := none
  /-- Ended by a fault fatal to the group: freed without a release (R22, R332). -/
  fatal : Bool := false
  /-- A restart that waits for zero counters, and the cause of its event (R337, R339). -/
  restarting : Bool := false
  ueCause : Cause := .ue
  /-- Where accumulations have been started since the IDEM, and where one begun before it has been continued (R337). -/
  begun : List AccSpan := []
  carried : List AccSpan := []
  deriving DecidableEq, Repr, Inhabited

/-- How far one element of a memory operation has come (R202, R203). -/
inductive Stage where
  | todo
  /-- Parked in a waiter table, in this order of parking (R185, R193). -/
  | waiting (order : Nat)
  /-- Released from its waiter table, in this order, and to be performed (R185, R193); nz: by a write that left the element nonzero, so that a WNZ load does not test it again. -/
  | released (order : Nat) (nz : Bool)
  /-- Translated anew after its page was served, while the counter of its path stands at 63 (R318). -/
  | held
  /-- Parked on a page fault, or on a write-protected page (R303, R312). -/
  | pageFault
  | writeProtect
  /-- Sent to a peer in the packet with this tag (R360). -/
  | sent (tag : Nat)
  /-- In the remote-wait table (R345). -/
  | remoteWait
  /-- Performed with this result, not yet written to its destination. -/
  | performed (val : BitVec 256)
  /-- Withdrawn from its waiter table by WDOG: it counts as complete until TRET.RPL issues it again (R321). -/
  | withdrawn
  | done
  deriving DecidableEq, Repr, Inhabited

/-- One lane's element (R180, R204). -/
structure Elem where
  lane : Nat := 0
  va : W64 := 0
  loc : Loc := .mem 0
  win : Nat := 0
  size : Nat := 4
  data : BitVec 256 := 0
  /-- New value of CAS at issue (R211). -/
  swap : W64 := 0
  /-- Destination register relative to D (R208). -/
  reg : Nat := 0
  /-- The request of the instruction to which it belongs (R204). -/
  req : Nat := 0
  stage : Stage := .todo
  /-- The page keeps tags (R193). -/
  dpage : Bool := false
  /-- The page is not cached in L1 (R186). -/
  nc : Bool := false
  /-- Its delivery to the register is dropped (R203). -/
  drop : Bool := false
  /-- Registers into which its delivery is dropped (R94, R109). -/
  dropRegs : List Nat := []
  /-- Step in which its home performed it, for the order of replies (R350). -/
  replyAt : Nat := 0
  /-- Its place in the order of parking on a write-protected page (R312). -/
  parkedAt : Nat := 0
  /-- Its place among the parked requests of its group that take an entry again once released (R319). -/
  txAt : Nat := 0
  /-- Released by a DFILL: a load acquires at domain scope (R195, R268). -/
  acq : Bool := false
  /-- The bytes that it read for a peer carried a poison mark (R335, R363). -/
  mark : Bool := false
  /-- The line left or changed in its core's L1 while it was under way: its answer is not kept there (R186, R264). -/
  nofill : Bool := false
  /-- A request for it has been sent to a peer: it is not counted again when it is sent anew (R324, R345). -/
  asked : Bool := false
  deriving DecidableEq, Repr, Inhabited

/-- What a memory operation does with its elements. -/
inductive AccKind where
  | load
  | store
  | atomic (aop : Nat)
  /-- DFILL; true to fail the word (R217). -/
  | fill (fail : Bool)
  deriving DecidableEq, Repr, Inhabited

/-- The agent of an access. -/
inductive Owner where
  | group (gid split : Nat)
  /-- A PCIe requester (R199). -/
  | host (requester : Nat)
  /-- A peer's packet (R361). -/
  | peer (p : Packet)
  deriving DecidableEq, Repr, Inhabited

/-- A memory operation in flight (R203). -/
structure MemOp where
  id : Nat := 0
  owner : Owner := .group 0 0
  kind : AccKind := .load
  ctx : Nat := 0
  pc : W64 := 0
  opc : Nat := 0
  sz : Nat := 2
  scope : Nat := 0
  ord : Nat := 0
  /-- Destination register, and whether it is an s register. -/
  d : Nat := 0
  toS : Bool := false
  /-- Accessor's SR_EVC, SR_TASK, SR_DPLACE and cluster (R193, R194). -/
  evc : W64 := 0
  task : W64 := 0
  dplace : Nat := 0
  cluster : Nat := 0
  core : Nat := 0
  /-- The split waits until the operation is settled (R202, R191). -/
  hold : Bool := false
  /-- Earlier operations of its program order (R264). -/
  past : List Nat := []
  /-- Operations of joined splits, each performed before it (R267). -/
  behind : List Nat := []
  /-- Its split has passed it while elements wait on deferred words (R193, R202). -/
  passing : Bool := false
  /-- The deadline of its requests, 0 for none, SR_CLK when they were created, and whether they are marked late (R351). -/
  deadline : BitVec 16 := 0
  born : W64 := 0
  late : Bool := false
  /-- SIGB of its split before its instruction entered it (R326). -/
  sigb : W16 := 0xFFFF
  /-- Its stores precede a FENCEL that has completed, or were accepted before a FENCEH (R213). -/
  fenced : Bool := false
  /-- A FENCEL has found its stores on their way: operations of names from this one on came later (R213, R349). -/
  leftBy : Nat := 0
  /-- The result write of CNTRD, TOKQRY or FQPOP, which no path counts: SR_TMASK and SR_TADDR of its trap (R301, R325). -/
  sys : Option (Mask × W64) := none
  /-- SR_CLK when a host access first parked (R199). -/
  since : W64 := 0
  /-- Such a write goes to scratchpad. -/
  toSpm : Bool := false
  faults : List LaneRec := []
  elems : List Elem := []
  deriving DecidableEq, Repr, Inhabited

/-- An entry of a core's outstanding-transaction table in use (R319): a request of an operation of a group; pool: not one of the group's own four. -/
structure Tx where
  core : Nat := 0
  gid : Nat := 0
  op : Nat := 0
  req : Nat := 0
  pool : Bool := false
  deriving DecidableEq, Repr, Inhabited

/-- The operations of the copy engine and of the reductions (R219). -/
inductive CopyKind where
  | cpy | tcpy | chain | gather | scatter | nrset | nred | migr
  /-- The output writes of a drain (R247). -/
  | drain
  deriving DecidableEq, Repr, Inhabited

/-- An element that the copy engine has still to write (R219): copy address, bytes, poison mark; release: only once every earlier write is acknowledged. -/
structure Put where
  toward : W64 := 0
  data : List Byte := []
  mark : Bool := false
  release : Bool := false
  deriving DecidableEq, Repr, Inhabited

/-- One element to be copied; without a source, the bytes given. -/
structure Move where
  from' : Option W64 := none
  data : List Byte := []
  toward : W64 := 0
  n : Nat := 4
  deriving DecidableEq, Repr, Inhabited

/-- A read of a peer's bytes by an engine (R218, R361). -/
structure PeerRead where
  addr : W64 := 0
  n : Nat := 0
  code : Option Nat := none
  /-- SR_CLK when it was parked on a peer that is RECOVERING (R345). -/
  since : W64 := 0
  data : List Byte := []
  mark : Bool := false
  deriving DecidableEq, Repr, Inhabited

/-- A copy operation in flight. -/
structure CopyOp where
  id : Nat := 0
  gid : Nat := 0
  kind : CopyKind := .cpy
  ctx : Nat := 0
  /-- Address of its instruction. -/
  pc : W64 := 0
  core : Nat := 0
  /-- The workgroup whose allotment SELF = 1 names (R218). -/
  wg : Nat := 0
  a : W64 := 0
  b : W64 := 0
  c : W64 := 0
  /-- Next chain entry (R227). -/
  entry : Nat := 0
  /-- Code of the chain entry to which these writes belong. -/
  started : Nat := 0
  /-- Its elements, once its operands are checked, and those whose sources have been read so far. -/
  moves : Option (List Move) := none
  got : List Put := []
  /-- Bytes that it writes and its group has stored to meanwhile, with what they held before (R219). -/
  raced : List (Loc × Byte) := []
  /-- What it writes, once its sources are read, and how many of these writes are made. -/
  puts : Option (List Put) := none
  made : Nat := 0
  /-- Unanswered packets to peers, 2048 port + tag, with the address (R363). -/
  acks : List (Nat × W64) := []
  /-- What a read of a peer's bytes waits for or has taken: copy address, bytes asked for, code of its packet while it is
  unanswered, then the bytes and their poison mark (R218, R335). -/
  reads : List PeerRead := []
  /-- Parked on a page fault at this address (R220). -/
  park : Option W64 := none
  deriving DecidableEq, Repr, Inhabited

/-- What a completed copy operation wrote: its lines leave L1 when the counter passes it (R219). -/
structure Written where
  gid : Nat := 0
  id : Nat := 0
  core : Nat := 0
  lines : List Loc := []
  deriving DecidableEq, Repr, Inhabited

/-- The operations of the Lathe, the accumulator port and the activation banks (R230, R246, R252). -/
inductive LatheKind where
  | mma | pmma | smma | drain | accld | accst | accz | atload | atswap
  deriving DecidableEq, Repr, Inhabited

/-- One member's arrival at a team instruction (R234): its group, lanes and A base. -/
structure Arrival where
  gid : Nat := 0
  idx : Nat := 0
  mask : Mask := 0
  areg : Nat := 0
  /-- Its opcode, REUSE bit, accumulator word, B descriptor, format word and scale word. -/
  words : List W64 := []
  /-- Names below this one were given before its issue. -/
  since : Nat := 0
  /-- Its PC. -/
  pc : W64 := 0
  /-- What its registers and scratchpad bytes held that it had written without an OPFENCE at its issue (R214, R243). -/
  old : SMap W32 := []
  oldSpm : SMap Byte := []
  deriving DecidableEq, Repr, Inhabited

/-- A Lathe operation in flight. -/
structure LatheOp where
  id : Nat := 0
  kind : LatheKind := .mma
  core : Nat := 0
  wg : Nat := 0
  ctx : Nat := 0
  /-- The leader, or the issuer. -/
  gid : Nat := 0
  team : Nat := 0
  /-- The pairing number of the team instruction (R234). -/
  pairing : Nat := 0
  acc : W64 := 0
  bdesc : W64 := 0
  fmt : W64 := 0
  scale : W64 := 0
  reuse : Bool := false
  /-- Issued in trap mode on the handler strip (R263). -/
  inStrip : Bool := false
  members : List Arrival := []
  /-- Order of becoming ready, once it is (R230). -/
  order : Option Nat := none
  started : Bool := false
  /-- The activation bank of a drain, and the one that ATLOAD fills (R252). -/
  bank : Nat := 0
  /-- Rows, or first register, and columns of its region. -/
  n1 : Nat := 0
  n2 : Nat := 0
  mask : Mask := 0
  /-- A words as read: key 64 (64 i + l) + register of the span (R241, R242). -/
  adata : SMap W32 := []
  /-- The drain descriptor and the seed of its rounding, as of its start (R247, R249). -/
  desc : Nat := 0
  seed : W64 := 0
  /-- As of an arrival, of a drain. -/
  oldSpm : SMap Byte := []
  /-- Output writes of a drain, once its results are formed. -/
  out : Option CopyOp := none
  /-- A rule of R243 was broken: its region receives unspecified values. -/
  spoiled : Bool := false
  /-- Parked on a page fault at this address, and the address of one that was answered with FAIL (R244). -/
  park : Option W64 := none
  failed : Option W64 := none
  /-- PC of its instruction; a member of a team has its own. -/
  pc : W64 := 0
  /-- Registers from this one on have been surrendered since it issued: what it writes there is lost (R94, R157). -/
  cut : Nat := 256
  deriving DecidableEq, Repr, Inhabited

/-- Ring states of R260. -/
inductive RingState where
  | stopped | running | waiting | faulted
  deriving DecidableEq, Repr, Inhabited

/-- The ring of a core's Lathe (R253 to R261). -/
structure Ring where
  core : Nat := 0
  owner : Nat := 0
  wg : Nat := 0
  ctx : Nat := 0
  opId : Nat := 0
  rbase : W32 := 0
  logn : Nat := 0
  prod : W32 := 0
  stat : W32 := 0
  /-- Number of the command in progress. -/
  num : W32 := 0
  iter : W64 := 0
  state : RingState := .running
  /-- The command fetched, until it is done. -/
  cmd : Option (BitVec 512) := none
  stopAsked : Bool := false
  /-- As those of an operation (R244, R247). -/
  out : Option CopyOp := none
  park : Option W64 := none
  failed : Option W64 := none
  /-- PC of its LQSTART. -/
  pc : W64 := 0
  /-- The activation bank of the DRAIN command in progress (R252). -/
  bank : Option Nat := none
  /-- The drain descriptor of its iteration in progress (R247). -/
  desc : Nat := 0
  /-- What published entries held before they were rewritten, by command number (R255). -/
  rewritten : List (Nat × BitVec 512) := []
  deriving DecidableEq, Repr, Inhabited

/-- The operand-collector latch (R96, R242). -/
structure Collector where
  core : Nat := 0
  wg : Nat := 0
  team : Nat := 0
  shape : W64 := 0
  k : Nat := 0
  /-- Filled by a handler's operation, of a team of one (R263), and then its group. -/
  strip : Bool := false
  gid : Nat := 0
  adata : SMap W32 := []
  deriving DecidableEq, Repr, Inhabited

/-- A launch descriptor as copied at acceptance (R272, R274). -/
structure Desc where
  entry : W64 := 0
  arg : W64 := 0
  gx : Nat := 0
  gy : Nat := 0
  gz : Nat := 0
  g : Nat := 0
  t : Nat := 0
  nblk : Nat := 0
  skib : Nat := 0
  prio : Nat := 0
  qos : W16 := 0
  coop : Bool := false
  drift : Bool := false
  screen : Bool := false
  svc : Bool := false
  late : Bool := false
  pair : Bool := false
  tx : Nat := 0
  ty : Nat := 0
  tz : Nat := 0
  tord : Nat := 0
  segmap : W64 := 0
  nseg : Nat := 0
  compl : W64 := 0
  /-- A reserved field is nonzero. -/
  reserved : Bool := false
  deriving DecidableEq, Repr, Inhabited

/-- A candidate that a Spindle unit considers (R275): an element of a task queue by its number there, a grid's next workgroup, or a shadow. -/
inductive Cand where
  | task (ctx prio elem : Nat)
  | grid (id lin : Nat)
  | shadow (id : Nat)
  deriving DecidableEq, Repr, Inhabited

/-- A candidate that the Spindle unit of a cluster passes over (R275): since when, and whether the limit has been reached. -/
structure Pass where
  cluster : Nat := 0
  cand : Cand := .shadow 0
  since : W64 := 0
  blocks : Bool := false
  deriving DecidableEq, Repr, Inhabited

/-- A segment of a drift grid (R288). -/
structure Segment where
  base : W64 := 0
  len : Nat := 0
  reps : List Nat := []
  deriving DecidableEq, Repr, Inhabited

/-- A grid from acceptance to retirement (R16, R274, R276). -/
structure Grid where
  id : Nat := 0
  ctx : Nat := 0
  va : W64 := 0
  desc : Desc := {}
  parent : Nat := 0
  depth : Nat := 0
  /-- Next linear index to dispatch (R18). -/
  next : Nat := 0
  /-- Workgroups ended. -/
  ended : Nat := 0
  /-- Memory as it stood at the grid's dispatch, which its acceptance is (R57; log 71). -/
  code : Option Memory := none
  /-- Hand-outs made (R284). -/
  handed : Nat := 0
  segs : List Segment := []
  /-- The command that completes with it: slot, completion word, IRQ (R376). -/
  cmd : Option (Nat × Nat × Bool) := none
  deriving DecidableEq, Repr, Inhabited

/-- An entry of a Spindle launch queue (R271). -/
structure Launch where
  ctx : Nat := 0
  prio : Nat := 0
  va : W64 := 0
  coop : Bool := false
  cmd : Option (Nat × Nat × Bool) := none
  /-- The group and split whose GLAUNCH waits for it, and the lanes that it selects (R286). -/
  issuer : Option (Nat × Nat) := none
  mask : Mask := 0
  deriving DecidableEq, Repr, Inhabited

/-- A workgroup (R16, R18, R34, R153). -/
structure Workgroup where
  id : Nat := 0
  grid : Nat := 0
  ctx : Nat := 0
  core : Nat := 0
  base : Nat := 0
  size : Nat := 0
  pair : Bool := false
  /-- Surrendered blocks (R34). -/
  pool : Nat := 0
  /-- Queued claims, oldest first: group and count (R158). -/
  claims : List (Nat × Nat) := []
  /-- Groups not yet ended, and register blocks of those that have (R23). -/
  live : Nat := 0
  spent : Nat := 0
  /-- A task's group (R30). -/
  task : W64 := 0
  /-- Linear index in its grid. -/
  lin : Nat := 0
  /-- The workgroup that it shadows (R340). -/
  shadowOf : Option Nat := none
  /-- Of a screened workgroup: what it has loaded from and stored to memory other than scratchpads, and whether it has done what a screened
  kernel must not do (R342). -/
  loaded : List (Loc × Nat) := []
  stored : List (Loc × Nat) := []
  strays : Bool := false
  /-- Memory as it stood at the dispatch of its grid, or of its task (R57). -/
  code : Option Memory := none
  deriving DecidableEq, Repr, Inhabited

/-- What a dispatch places: a workgroup of a grid, a task's, or a shadow's (R18, R20, R30, R340). -/
structure Placing where
  ctx : Nat := 0
  grid : Nat := 0
  depth : Nat := 0
  lin : Nat := 0
  wgx : Nat := 0
  wgy : Nat := 0
  wgz : Nat := 0
  g : Nat := 1
  t : Nat := 1
  nblk : Nat := 1
  /-- Scratchpad bytes. -/
  size : Nat := 0
  entry : W64 := 0
  arg : W64 := 0
  qos : W16 := 0
  svc : Bool := false
  late : Bool := false
  pair : Bool := false
  drift : Bool := false
  task : W64 := 0
  succ : W64 := 0
  evc : W64 := 0
  badTask : Bool := false
  /-- Of a cooperative grid: its scratchpad lies as low as it can (R37). -/
  coop : Bool := false
  /-- The workgroup that it shadows. -/
  shadowOf : Option Nat := none
  screened : Bool := false
  deriving DecidableEq, Repr, Inhabited

/-- A shadow that waits for a place (R340): the workgroup that it shadows, and since when. -/
structure ShadowReq where
  id : Nat := 0
  wg : Nat := 0
  since : W64 := 0
  cluster : Nat := 0
  spec : Placing := {}
  deriving DecidableEq, Repr, Inhabited

/-- A final pair (H, X) of a group, kept for comparison (R341). -/
structure ScreenEnd where
  /-- The workgroup that is screened, and whether the pair is its shadow's. -/
  wg : Nat := 0
  shadow : Bool := false
  ginwg : Nat := 0
  hash : W64 := 0
  sigp : W32 := 0
  /-- It ended by a trap or was killed. -/
  bad : Bool := false
  /-- Its workgroup had done what a screened kernel must not do (R342). -/
  strays : Bool := false
  deriving DecidableEq, Repr, Inhabited

/-- Where a drift transfer stands (R292, R293). -/
inductive XferStage where
  /-- Waits at its sender for an arrival entry. -/
  | sender
  | arrival
  | ring
  deriving DecidableEq, Repr, Inhabited

/-- A drifting group, or a creation of a drift grid (R289, R290). -/
structure Xfer where
  id : Nat := 0
  /-- The image that JMPX ships, or the group that a creation starts. -/
  image : Group := {}
  creation : Bool := false
  toward : Nat := 0
  need : Nat := 1
  since : W64 := 0
  stage : XferStage := .sender
  /-- Waits for room in the overflow ring (R293). -/
  overflow : Bool := false
  /-- The frame of tier 0 that holds the spilled image (R293). -/
  room : Option Nat := none
  /-- The split as it stood before its JMPX, which WDOG takes up again while the transfer waits at its sender (R321). -/
  back : Option Split := none
  deriving DecidableEq, Repr, Inhabited

/-- A context (R379, R380). -/
structure Context where
  id : Nat := 0
  root : W64 := 0
  feats : W64 := 1
  logq : Nat := 8
  /-- Bound memory aperture base (R381). -/
  aperture : Option W64 := none
  lost : Bool := false
  /-- PREEMPT accepted, until RESUME (R38). -/
  preempt : Bool := false
  /-- Deadline and the command that waits (R38). -/
  deadline : Option (W64 × (Nat × Nat × Bool)) := none
  wdlim : BitVec 40 := 0x400000000
  qos : W16 := 0
  /-- THRESH and log2 BLOCK (R310). -/
  thresh : Nat := 50
  logBlock : Nat := 21
  /-- N and LFSR state of screening (R340). -/
  screenN : Nat := 65536
  lfsr : W32 := 1
  /-- The launch whose service workgroup serves its faults: context and descriptor address (R309, R379). -/
  service : Option (Nat × W64) := none
  /-- Demand regions: first VA, length, template, and whether they are exported to peers (R310, R409). -/
  demand : List (Nat × Nat × W64 × Bool) := []
  /-- Ranges exported to peers: first local byte and length (R363). -/
  exports : List (Nat × Nat) := []
  deriving DecidableEq, Repr, Inhabited

/-- A MIGRATE command in progress (R311, R379): the copy operation of its page under way, and the pages to come with their new entries. -/
structure Migrate where
  op : Nat
  ctx : Nat
  cmd : Nat × Nat × Bool
  pages : List (W64 × W64) := []
  /-- Where the page under way lay. -/
  old : Loc := .mem 0
  deriving DecidableEq, Repr, Inhabited

/-- An entry of the firmware event queue (R333). -/
structure FwEvent where
  type : Nat := 0
  cause : Nat := 0
  ctx : Nat := 0
  core : Nat := 0xFF
  slot : Nat := 0
  addr : W64 := 0
  clk : W64 := 0
  info : W64 := 0
  deriving DecidableEq, Repr, Inhabited

/-- A fault-queue entry (R305). -/
structure FqEntry where
  va : W64 := 0
  ctx : Nat := 0
  atype : Nat := 0
  win : Nat := 0
  src : Nat := 0
  core : Nat := 0
  slot : Nat := 0
  wpf : Bool := false
  dup : Nat := 0
  clk : W64 := 0
  sq : Nat := 0
  cluster : Nat := 0
  deriving DecidableEq, Repr, Inhabited

/-- The fault queue (R304): header and entries lie in memory, where the firmware has placed them. -/
structure FaultQueue where
  /-- Local address of the 64-byte header; none until the firmware has placed it. -/
  header : Option Nat := none
  /-- Posts that wait for room, oldest first. -/
  waiting : List FqEntry := []
  /-- Faults that wait for an entry of their cluster's CAM, oldest first (R306). -/
  camWait : List FqEntry := []
  deriving DecidableEq, Repr, Inhabited

/-- A pending-page CAM entry (R306): cluster, context, 64 KiB page, post number; 0 while its post waits for room. -/
structure CamEntry where
  cluster : Nat
  ctx : Nat
  page : Nat
  sq : Nat
  deriving DecidableEq, Repr, Inhabited

/-- A TLB entry (R299): unit u is a core, 192 + c the TLB of cluster c, 216 + c its walk-ahead TLB. -/
structure TlbEntry where
  unit : Nat
  ctx : Nat
  /-- First byte of the page and its size. -/
  va : Nat
  size : Nat
  pte : W64
  /-- Local address of the entry. -/
  ptAddr : Nat
  /-- A write has used this translation, which set MD (R298). -/
  dirty : Bool := false
  deriving DecidableEq, Repr, Inhabited

/-- A line held in a core's L1 (R186). -/
structure L1Line where
  core : Nat
  loc : Loc
  /-- The bytes held, by offset in the line. -/
  bytes : SMap Byte
  deriving DecidableEq, Repr, Inhabited

/-- An entry of the token table (R313). A region of a peer that this device holds has an entry too, under the peer's number plus one in bits 63:48. -/
structure Token where
  region : Nat
  /-- The holder's peer number; none is the home. -/
  holder : Option Nat := none
  pinned : Bool := false
  lastMove : W64 := 0
  /-- Times of the moves within the last 1 ms. -/
  moves : List W64 := []
  /-- Requests that wait, oldest first: peer, none for this device. -/
  waiting : List (Option Nat) := []
  /-- A recall is on its way to the holder; in a region of a peer that this device holds, one has arrived. -/
  recalled : Bool := false
  deriving DecidableEq, Repr, Inhabited

/-- An ENQ operation whose element lies at a peer (R191): the header, which it holds until the answer, the code of the packet that reads or
writes the element, the element's place in its line, and whether it is an append. -/
structure EnqRead where
  header : Loc := .mem 0
  code : Nat := 0
  off : Nat := 0
  size : Nat := 8
  append : Bool := false
  deriving DecidableEq, Repr, Inhabited

/-- A token operation of a group in flight (R315). -/
structure TokOp where
  id : Nat
  gid : Nat
  split : Nat
  /-- 0 TOKACQ, 1 TOKREL, 2 TOKQRY. -/
  kind : Nat
  /-- Region number; a region of a peer has the peer's number plus one in bits 63:48. -/
  region : Nat
  /-- SR_CLK since when it waits for a peer that is RECOVERING (R345). -/
  since : Option W64 := none
  deriving DecidableEq, Repr, Inhabited

/-- An open reduction (R228, R229). -/
structure Reduction where
  id : Nat
  ctx : Nat
  core : Nat
  wg : Nat
  result : W64
  doneAt : W64
  ncont : Nat
  nelem : Nat
  accepted : Nat := 0
  /-- The 320-bit sums, in units of 2^-149, and the non-finite flags: NaN, +Inf, -Inf (R175). -/
  sums : List (BitVec 320 × Bool × Bool × Bool) := []
  deriving DecidableEq, Repr, Inhabited

/-- A wait of WQRY for its answer (R285). -/
structure Query where
  id : Nat
  gid : Nat
  grid : Nat
  loc : Loc
  win : Nat
  deriving DecidableEq, Repr, Inhabited

/-- An evaluation under way (R32, R195). -/
structure Eval where
  id : Nat
  ctx : Nat
  /-- Local address of the word. -/
  word : Nat
  record : W64
  deriving DecidableEq, Repr, Inhabited

/-- An element that could not be appended to a task queue and is retried (R271, R194). -/
structure EvalPost where
  ctx : Nat
  cluster : Nat
  record : W64
  /-- Of a successor, not of an evaluation: its queue's header, and the address by which an event names it (R24). -/
  queue : Option (Loc × W64) := none
  deriving DecidableEq, Repr, Inhabited

/-- A row of a correction-history table (R316, R347). -/
structure History where
  slice : Nat
  row : Nat
  corrections : Nat := 1
  cleanVisits : Nat := 0
  /-- Rows of the slice that the patrol had visited in address order when it last visited this one. -/
  seen : Nat := 0
  deriving DecidableEq, Repr, Inhabited

/-- Lock states of a port (R367). -/
inductive LockState where
  | unlocked | locked | run | error
  deriving DecidableEq, Repr, Inhabited

/-- How far the SPDM exchange of a port has come (R368). -/
inductive Spdm where
  | idle | version | capabilities | algorithms | digests | certificate | authenticated | exchanged | session | ended
  deriving DecidableEq, Repr, Inhabited

/-- A fabric port (R352 to R370). -/
structure Port where
  /-- It carries traffic: it is in RUN and a lane is in lock (R355, R367). -/
  up : Bool := false
  lane0 : Bool := false
  lane1 : Bool := false
  /-- Lanes in use, and which one where it is one (R365). -/
  width : Nat := 2
  lane : Nat := 0
  retraining : Bool := false
  /-- SR_CLK when the width was reduced, and whether that was for want of traffic (R365, R386). -/
  narrowAt : W64 := 0
  idleNarrow : Bool := false
  /-- SR_CLK at the last flit sent or accepted (R386). -/
  lastFlit : W64 := 0
  /-- Times of the replays traced to each lane (R365). -/
  replays0 : List W64 := []
  replays1 : List W64 := []
  lock : LockState := .unlocked
  spdm : Spdm := .idle
  /-- SPDM version of the exchange, 0 for none (R368). -/
  spdmVersion : Nat := 0
  /-- Link keys present (R367). -/
  keys : Bool := false
  /-- Configuration digest of LOCK, and the one last reported as a measurement (R367). -/
  digest : Option (BitVec 256) := none
  reported : Option (BitVec 256) := none
  /-- Deljo link protocol version that the link runs, 0 for none (R370). -/
  version : Nat := 0
  /-- Number of the next new flit (R358). -/
  txSeq : Byte := 0
  /-- Flits that wait for room in the replay buffer: payloads as they are sent, and whether each carries a tag (R369). -/
  outq : List (BitVec 256 × Bool) := []
  /-- The replay buffer: flits sent and not acknowledged, oldest first (R358). -/
  replay : List Flit := []
  /-- Flits put on the lanes, oldest first. -/
  wire : List Flit := []
  /-- Number of the next flit expected, and payloads accepted that are no whole packet yet. -/
  rxSeq : Byte := 0
  accepted : List (BitVec 256) := []
  /-- The frame being received: the number of its first flit, and its payloads (R369). -/
  frameSeq : Byte := 0
  frame : List (BitVec 256) := []
  /-- Acknowledgements and replay requests returned, oldest first (R358). -/
  acks : List Byte := []
  asks : List Byte := []
  /-- Frames sent under the key, the 96-bit IV, and failures of the frame being received (R369). -/
  iv : BitVec 96 := 0
  tagFails : Nat := 0
  /-- Keys of the two directions, and frames received under the key (R369). -/
  txKey : W64 := 0
  rxKey : W64 := 0
  rxIv : BitVec 96 := 0
  deriving DecidableEq, Repr, Inhabited

/-- STATE of the device registers (R373). -/
inductive DevState where
  | boot | test | waitpatch | link | ready | failed
  deriving DecidableEq, Repr, Inhabited

/-- The operating points of R385. -/
inductive OpPoint where
  | full | bal | memh | screen
  deriving DecidableEq, Repr, Inhabited

/-- The whole K9. -/
structure State where
  /-- Events that the outside world and the units deliver next, oldest first (log 3). -/
  inputs : List Instr := []
  /-- The group and split that issue (log 3). -/
  cur : Nat × Nat := (0, 0)
  /-- Steps taken, argument of the free values (log 2). -/
  tick : Nat := 0
  /-- Next unused name of a group, operation or workgroup (log 3). -/
  nextId : Nat := 1
  power : Bool := true
  dev : DevState := .boot
  /-- SR_CLK (R98). -/
  clk : W64 := 0
  groups : List Group := []
  wgs : List Workgroup := []
  grids : List Grid := []
  launches : List Launch := []
  ctxs : List Context := []
  xfers : List Xfer := []
  /-- Capacity in images of a core's overflow ring, as grown (R293). -/
  overflowCap : SMap Nat := []
  /-- Whether a core admitted last from its overflow ring (R293). -/
  ringLast : SMap Bool := []
  mops : List MemOp := []
  /-- Entries of the outstanding-transaction tables in use (R319). -/
  txs : List Tx := []
  copies : List CopyOp := []
  written : List Written := []
  /-- Accesses of engines parked on deferred words: operation, place in the order of parking, and word (R193, R218). -/
  engineWaits : List (Nat × Nat × Loc) := []
  lathe : List LatheOp := []
  rings : List Ring := []
  collectors : List Collector := []
  queries : List Query := []
  /-- Dequeues whose element is read at a peer (R191). -/
  enqReads : List EnqRead := []
  tokOps : List TokOp := []
  evals : List Eval := []
  evalPosts : List EvalPost := []
  reductions : List Reduction := []
  tokens : List Token := []
  /-- Requests that wait for an entry of the token table, oldest first: requester and region (R313). -/
  tokWait : List (Option Nat × Nat) := []
  /-- Local bytes of tier 0 and 1 (R188). -/
  mem : Memory := []
  /-- Scratchpads: byte off of core c at 2^20 c + off (R187). -/
  spm : Memory := []
  /-- Tags of D pages: key local address / 8, 0 is VAL (R192). -/
  tags : SMap (BitVec 2) := []
  /-- Poisoned bytes, by local address (R335, R338). -/
  poison : SMap Bool := []
  /-- Poisoned bytes of scratchpads, keyed as spm (R335). -/
  spmPoison : SMap Bool := []
  /-- Poisoned elements of accumulator stores, keyed as acc (R335, R338). -/
  accPoison : SMap Bool := []
  /-- Accumulator stores: key (256 core + row) 1024 + column (R197). -/
  acc : SMap W32 := []
  /-- Holding workgroup of band b of core c: key 32 c + b, 0 is free (R233). -/
  bands : SMap Nat := []
  /-- Last context of a band plus one, and of each KiB of scratchpad: key 1024 core + KiB (R21, R233). -/
  bandCtx : SMap Nat := []
  spmCtx : SMap Nat := []
  /-- Activation banks: key 16384 core + 8192 bank + byte; and the active bank of a core (R251). -/
  act : Memory := []
  actBank : SMap Nat := []
  l1 : List L1Line := []
  /-- Words held in a core's instruction store: core, context, the grid that fetched it (0 a task's group), address and word (R57). -/
  istore : List (Nat × Nat × Nat × Nat × W64) := []
  tlb : List TlbEntry := []
  /-- Cores forced conservative, a bit a core (R99). -/
  fcons : BitVec 192 := 0
  /-- SR_SEGID plus one of a pinned core, and the drift grid that pins it (R289). -/
  segid : SMap (Nat × Nat) := []
  fq : FaultQueue := {}
  cam : List CamEntry := []
  history : List History := []
  /-- Rows that each slice's patrol has visited in address order (R347). -/
  patrol : SMap Nat := []
  /-- Firmware event queue, oldest first (R271). -/
  events : List FwEvent := []
  /-- Device counters: key 4096 INDEX + INST (R323). -/
  counters : SMap W64 := []
  /-- Event selected for a performance counter: key core 16 + j (R324). -/
  perfSel : SMap Byte := []
  shadowReqs : List ShadowReq := []
  screenEnds : List ScreenEnd := []
  /-- Workgroups whose shadow has reached its comparison, and whether it has failed (R323, R341). -/
  screens : List (Nat × Bool) := []
  /-- WQRY answers of screened groups that their shadows have still to take: workgroup, SR_GINWG and answer (R341). -/
  handouts : List (Nat × Nat × W64) := []
  passes : List Pass := []
  /-- SR_CLK at a core's last swap event (R279). -/
  lastSwap : SMap Nat := []
  /-- Command area (R374) and patch area (R372). -/
  cmdMem : Memory := []
  patch : Memory := []
  /-- The command that the firmware has begun (R376). -/
  cmd : Option CmdBlock := none
  /-- What queued command blocks held before they were rewritten: slot and block (R376). -/
  cmdRewritten : List (Nat × BitVec 512) := []
  /-- MIGRATE commands in progress. -/
  migrates : List Migrate := []
  /-- MSI-X table and pending-bit array (R372). -/
  msix : Memory := []
  /-- MSI-X vectors signalled, oldest first (R371). -/
  msi : List Nat := []
  /-- Answers to host loads, oldest first: requester and data (R199). -/
  replies : List (Nat × BitVec 256) := []
  /-- Negotiated command-set version (R378). -/
  version : Option Nat := none
  /-- A patch has been accepted (R382). -/
  patched : Bool := false
  /-- SR_CLK when STATE last changed (R383). -/
  devAt : W64 := 0
  point : OpPoint := .full
  hostWait : Nat := 40
  recovery : Nat := 8
  scrubPeriod : Nat := 10000
  scrubWeighted : Bool := false
  /-- Logical peer number, none outside a domain (R373). -/
  peer : Option Nat := none
  domain : PeerState := .absent
  /-- States of the logical peers, by number (R344); absent ones are not listed. -/
  peers : SMap PeerState := []
  /-- Members of multicast groups, by id, and the context of each group (R316). -/
  mcast : SMap (List Nat) := []
  mcastCtx : SMap Nat := []
  /-- Packets sent to the fabric, oldest first (R360). -/
  sent : List Packet := []
  /-- Writes of the device itself that wait for a port and a free tag, oldest first (R355, R360). -/
  unsent : List Packet := []
  /-- Whole packets received and not yet served, oldest first. -/
  arrived : List Packet := []
  ports : List Port := []
  /-- Frames that the firmware has handed out of tier 0 and of tier 1: first frame and number of 64 KiB frames (R409). -/
  frames : List (Nat × Nat) := []
  frames1 : List (Nat × Nat) := []
  deriving DecidableEq, Repr, Inhabited

/-- The command queue header that the firmware writes at reset (R374): LCAP 10, ESIZE 8, BASE 0x1000. -/
def resetCmdMem : Memory := [(1, 0x10), (8, 10), (9, 8)]

/-- The machine right after reset (R373, R383): bring-up stands at BOOT and every core is forced conservative (R35). -/
def State.reset : State where
  cmdMem := resetCmdMem
  fcons := BitVec.allOnes 192
  ports := List.replicate 72 {}

end Sys2Proof.Machine
end

