-- ==== Sys2Proof/Machine/Ops.lean ====
section
/-! DEFINITION. The named operations over memory, groups and registers; translation; taking a trap and returning from one. -/

namespace Sys2Proof.Machine

open Sys2Proof

/-- The outcome of a step that goes on. -/
abbrev Out := Host.Outcome State Fault Refusal

/-- The step goes on in state s. -/
abbrev go (s : State) : Out := .next s

/-! ### Memory -/

/-- What an address that holds no listed byte reads as (log 1). -/
def Memory.default : Byte := 0

/-- The canonical form of a memory. -/
def Memory.wf (m : Memory) : Bool := SMap.wf Memory.default m

/-- The byte at an address. -/
def Memory.read (m : Memory) (a : Nat) : Byte := SMap.get Memory.default m a

/-- The memory with one byte written. -/
def Memory.write (m : Memory) (a : Nat) (b : Byte) : Memory := SMap.set Memory.default m a b

/-- n bytes from an address, lowest first. -/
def Memory.readN (m : Memory) (a n : Nat) : List Byte := (List.range n).map fun i => m.read (a + i)

/-- The memory with every byte of a run replaced, in one pass. -/
def Memory.fill (m : Memory) (a : Nat) (bs : List Byte) : Memory :=
  m.filter (fun e => decide (e.1 < a)) ++ ((bs.zipIdx a).filter fun b => b.1 != Memory.default).map (fun b => (b.2, b.1))
    ++ m.filter fun e => decide (a + bs.length ≤ e.1)

/-- The memory with bytes written from an address up. -/
def Memory.writeN (m : Memory) : Nat → List Byte → Memory
  | _, [] => m
  | a, b :: bs => Memory.writeN (m.write a b) (a + 1) bs

/-- An n-byte number, little-endian (R10). -/
def Memory.num (m : Memory) (a n : Nat) : Nat := natOfBytes (m.readN a n)

/-- The memory with an n-byte number written, little-endian (R10). -/
def Memory.setNum (m : Memory) (a n v : Nat) : Memory := m.writeN a (bytesOf n (BitVec.ofNat (8 * n) v))

/-- Key of byte off of core c's scratchpad. -/
abbrev spmKey (core off : Nat) : Nat := core * Config.spmBytes + off

/-- A location with this device's own peer number turned around to the local bytes that it names (R356). -/
def State.selfLoc (s : State) (l : Loc) : Loc :=
  match l with
  | .peer p a => if s.peer = some p then .mem a else l
  | l => l

/-- n bytes at a location. Host memory and a peer's memory give unspecified bytes, since others write them (log 8); this device's own number is turned around (R356). -/
def State.readLoc (s : State) (l : Loc) (n : Nat) : List Byte :=
  let free (a : Nat) : List Byte := (List.range n).map fun i => (Config.free64 s.tick (a + i)).setWidth 8
  match l with
  | .spm c o => s.spm.readN (spmKey c o) n
  | .mem a => s.mem.readN a n
  | .peer p a => if s.peer = some p then s.mem.readN a n else free a
  | .host a => free a
  | .cmd o => s.cmdMem.readN o n

/-- Whether a port carries traffic. -/
def State.portUp (s : State) (p : Nat) : Bool := (s.ports[p]?).any (·.up)

/-- A packet type that is answered. -/
def isRequest (t : BitVec 6) : Bool := t == 1 || t == 2 || t == 3 || t == 0x24 || (decide (0x10 ≤ t.toNat) && decide (t.toNat ≤ 0x1C))

/-- The up port that requests to a line of a peer use: the first from the plane of R354 on. -/
def State.upPlane (s : State) (d x : Nat) : Option Nat :=
  let base := x / 128 % 2 ^ 41 + 37 * d
  ((List.range 72).map fun k => (base + k) % 72).find? s.portUp

/-- The port of a new request to a line of a peer: none for a spare (R352), and while a request of the line is unanswered on another port (R355). -/
def State.plane (s : State) (d x : Nat) : Option Nat :=
  if s.peer.isNone then none
  else (s.upPlane d x).filter fun n => !(s.sent.any fun q => isRequest q.type && q.port != n && q.dst.toNat == d && q.line.toNat == x / 128 % 2 ^ 45)

/-- A tag that no unanswered request of a plane carries (R360); none when all 2,048 are in use. -/
def State.freshTag (s : State) (port : Nat) : Option Nat :=
  (List.range 2048).find? fun t => !(s.sent.any fun p => isRequest p.type && p.port == port && p.tag.toNat == t)

/-- A deadline as it is stamped: a computed 0 becomes 1 (R351). -/
def stamp (x : BitVec 16) : BitVec 16 := if x = 0 then 1 else x

/-- The deadline of a request that is created now: none where SR_QOS is 0 (R351). -/
def State.deadlineOf (s : State) (qos : W16) : BitVec 16 := if qos = 0 then 0 else stamp (s.clk.setWidth 16 + qos)

/-- Urgency of a deadline (R351). -/
def State.urgency (s : State) (deadline : BitVec 16) : BitVec 16 := deadline - s.clk.setWidth 16

/-- Whether what carries a deadline is late: marked so, past it now, or past it at a router that served it before (R351). -/
def State.lateNow (s : State) (deadline : BitVec 16) (born : W64) (marked : Bool) (k : Nat) : Bool :=
  deadline != 0 && (marked || (s.urgency deadline).msb
    || (decide ((deadline - born.setWidth 16).toNat < (s.clk - born).toNat) && Config.choose s.tick (8700 + k) % 2 == 1))

/-- BUDGET of a packet: 0 without a deadline, 1 once late, else what remains of it plus 2 (R351, R360). -/
def State.budget (s : State) (deadline : BitVec 16) (late : Bool) : BitVec 16 :=
  if deadline = 0 then 0 else if late || (s.urgency deadline).msb then 1 else s.urgency deadline + 2

/-- The deadline that a received packet is stamped with afresh (R360). -/
def State.restamp (s : State) (budget : BitVec 16) : BitVec 16 := if budget = 0 then 0 else stamp (s.clk.setWidth 16 + (budget - 2))

/-- Byte enables of n bytes from a line offset (R360). -/
def enables (off n : Nat) : BitVec 128 := BitVec.ofNat 128 ((2 ^ n - 1) * 2 ^ off)

/-- The 128 bytes of a line with some placed at an offset; the others are not enabled. -/
def lineBytes (off : Nat) (bs : List Byte) : List Byte :=
  (List.replicate off 0 ++ bs ++ List.replicate 128 0).take 128

/-- Whether two packets are for one line of one peer. -/
def sameLine (p q : Packet) : Bool := p.dst == q.dst && p.line == q.line

/-- A packet of the device itself is sent through the plane of its line, a request with a free tag, or waits for them, behind any that waits
for its line (R354, R355, R360). -/
def State.sendPacket (s : State) (q : Packet) : State :=
  let later : State := { s with unsent := s.unsent ++ [q] }
  if s.unsent.any (sameLine q) then later
  else match s.plane q.dst.toNat (q.line.toNat * 128) with
    | none => later
    | some port =>
      if !isRequest q.type then { s with sent := s.sent ++ [{ q with port := port }] }
      else match s.freshTag port with
        | none => later
        | some tag => { s with sent := s.sent ++ [{ q with tag := BitVec.ofNat 11 tag, port := port }] }

/-- Packets that waited are sent where they may be. -/
def State.sendUnsent (s : State) : State := s.unsent.foldl State.sendPacket { s with unsent := [] }

/-- The packet of a posted write of one element of 1 to 32 bytes of the device itself at a peer's home, through a window, for a context (R360, R361, R408). -/
def State.elemPacket (s : State) (ctx win d a : Nat) (bs : List Byte) : Packet :=
  { type := 2, src := BitVec.ofNat 9 (s.peer.getD 0), dst := BitVec.ofNat 10 d, ctx := BitVec.ofNat 16 ctx
    win := BitVec.ofNat 4 win, sz := BitVec.ofNat 3 (Nat.log2 bs.length)
    line := BitVec.ofNat 45 (a / 128), be := enables (a % 128) bs.length, data := lineBytes (a % 128) bs }

/-- Such a write is sent. -/
def State.sendElem (s : State) (ctx win d a : Nat) (bs : List Byte) : State := s.sendPacket (s.elemPacket ctx win d a bs)

/-- Posted writes of the device itself into a peer's memory, a packet a line (R361). -/
def State.sendWrite (s : State) (d a : Nat) (bs : List Byte) (ctx : Nat := 0) : State :=
  (List.range ((a % 128 + bs.length + 127) / 128)).foldl (fun t k =>
    let first := if k = 0 then a % 128 else 0
    let from' := if k = 0 then 0 else 128 * k - a % 128
    let part := (bs.drop from').take (128 - first)
    let line := a / 128 + k
    t.sendPacket { type := 2, src := BitVec.ofNat 9 (t.peer.getD 0), dst := BitVec.ofNat 10 d, ctx := BitVec.ofNat 16 ctx
                   line := BitVec.ofNat 45 line, be := enables first part.length, data := lineBytes first part }) s

/-- The command area with bytes written; the fixed fields of the firmware command queue's header stay (R374). -/
def writeCmd (m : Memory) (off : Nat) (bs : List Byte) : Memory :=
  let n := m.writeN off bs
  if off < 11 then (n.writeN 0 [0, 0x10, 0, 0, 0, 0, 0, 0, 10, 8]).write 10 (n.read 10 &&& 0xFE) else n

/-- The state with bytes written at a location. -/
def State.writeLoc (s : State) (l : Loc) (bs : List Byte) : State :=
  match l with
  | .spm c o => { s with spm := s.spm.writeN (spmKey c o) bs }
  | .mem a => { s with mem := s.mem.writeN a bs }
  | .peer p a => if s.peer = some p then { s with mem := s.mem.writeN a bs } else s.sendWrite p a bs
  | .host _ => s
  | .cmd o => { s with cmdMem := writeCmd s.cmdMem o bs }

/-- A location n bytes further. -/
def Loc.add (l : Loc) (n : Nat) : Loc :=
  match l with
  | .spm c o => .spm c (o + n)
  | .mem a => .mem (a + n)
  | .peer p a => .peer p (a + n)
  | .host a => .host (a + n)
  | .cmd o => .cmd (o + n)

/-- The 8-byte word that holds a location: its first byte. -/
def Loc.word (l : Loc) : Loc :=
  match l with
  | .spm c o => .spm c (o / 8 * 8)
  | .mem a => .mem (a / 8 * 8)
  | .peer p a => .peer p (a / 8 * 8)
  | .host a => .host (a / 8 * 8)
  | .cmd o => .cmd (o / 8 * 8)

/-- The 128-byte line that holds a location: its first byte (R188). -/
def Loc.line (l : Loc) : Loc :=
  match l with
  | .spm c o => .spm c (o / 128 * 128)
  | .mem a => .mem (a / 128 * 128)
  | .peer p a => .peer p (a / 128 * 128)
  | .host a => .host (a / 128 * 128)
  | .cmd o => .cmd (o / 128 * 128)

/-- The byte offset that a location names within its memory. -/
def Loc.offset : Loc → Nat
  | .spm _ o | .cmd o => o
  | .mem a | .peer _ a | .host a => a

/-- Whether n bytes at l and k bytes at r share a byte. -/
def Loc.overlaps (l : Loc) (n : Nat) (r : Loc) (k : Nat) : Bool :=
  match l, r with
  | .spm c o, .spm d q => c == d && o < q + k && q < o + n
  | .mem a, .mem b => a < b + k && b < a + n
  | .peer p a, .peer q b => p == q && a < b + k && b < a + n
  | .host a, .host b | .cmd a, .cmd b => a < b + k && b < a + n
  | _, _ => false

/-- The path on which an access to a location counts (R203). -/
def Loc.path : Loc → Path
  | .spm _ _ => .scr
  | .mem _ | .host _ | .cmd _ => .glb
  | .peer _ _ => .rmt

/-! ### Groups and splits -/

/-- A group by its name, on a core or in transit. -/
def State.group? (s : State) (g : Nat) : Option Group :=
  (s.groups.find? (·.gid == g)).or ((s.xfers.find? (·.image.gid == g)).map (·.image))

/-- A group by its name; an absent one holds nothing. -/
def State.grp (s : State) (g : Nat) : Group := (s.group? g).getD {}

/-- The state with one group changed. -/
def State.modGroup (s : State) (g : Nat) (f : Group → Group) : State :=
  { s with groups := s.groups.map fun x => if x.gid = g then f x else x
           xfers := s.xfers.map fun x => if x.image.gid = g then { x with image := f x.image } else x }

/-- A split of a group by its index; an absent one holds nothing. -/
def Group.split (g : Group) (i : Nat) : Split := (g.splits.find? (·.idx == i)).getD {}

/-- The group with one split changed; while a sibling is in trap mode the change reaches the kept split too, since TRET restores it (R156). -/
def Group.modSplit (g : Group) (i : Nat) (f : Split → Split) : Group :=
  { g with splits := g.splits.map fun x => if x.idx = i then f x else x
           saved := g.saved.map fun o =>
             if o.trapper = i then o else { o with splits := o.splits.map fun x => if x.idx = i then f x else x } }

/-- The group with every split changed, the kept ones of siblings too. -/
def Group.mapSplits (g : Group) (f : Split → Split) : Group := g.splits.foldl (fun x p => x.modSplit p.idx f) g

/-- The group with every split changed, and every split that the opaque block keeps, that in trap mode too. -/
def Group.everySplit (g : Group) (f : Split → Split) : Group :=
  { g with splits := g.splits.map f, saved := g.saved.map fun o => { o with splits := o.splits.map f } }

/-- The barriers at which a split has arrived, also before the trap that it handles (R153, R156). -/
def Group.barsOf (g : Group) (p : Split) : List Nat :=
  p.bars ++ match g.saved with
    | some o => if o.trapper = p.idx then ((o.splits.find? (·.idx == p.idx)).map (·.bars)).getD [] else []
    | none => []

/-- The group that issues. -/
abbrev State.G (s : State) : Group := s.grp s.cur.1

/-- The split that issues. -/
abbrev State.S (s : State) : Split := s.G.split s.cur.2

/-- The state with the issuing group changed. -/
abbrev State.modG (s : State) (f : Group → Group) : State := s.modGroup s.cur.1 f

/-- The state with the issuing split changed. -/
abbrev State.modS (s : State) (f : Split → Split) : State := s.modG fun g => g.modSplit s.cur.2 f

/-- A split waits. -/
def State.setWait (s : State) (g i : Nat) (w : Wait) : State :=
  s.modGroup g fun x => x.modSplit i fun p => { p with wait := w }

/-- The issuing instruction waits at issue and will be tried again. -/
def State.stall (s : State) : State := s.modS fun p => { p with wait := .stall }

/-- Cluster of a core (R2, R16). -/
abbrev clusterOf (core : Nat) : Nat := core / 8

/-- A workgroup by its name; an absent one holds nothing. -/
def State.wgOf (s : State) (w : Nat) : Workgroup := (s.wgs.find? (·.id == w)).getD {}

/-- The state with one workgroup changed. -/
def State.modWg (s : State) (w : Nat) (f : Workgroup → Workgroup) : State :=
  { s with wgs := s.wgs.map fun x => if x.id = w then f x else x }

/-- A context by its id. -/
def State.ctx? (s : State) (c : Nat) : Option Context := s.ctxs.find? (·.id == c)

/-- The state with one context changed. -/
def State.modCtx (s : State) (c : Nat) (f : Context → Context) : State :=
  { s with ctxs := s.ctxs.map fun x => if x.id = c then f x else x }

/-- A grid by its id. -/
def State.grid? (s : State) (g : Nat) : Option Grid := s.grids.find? (·.id == g)

/-- The state with one grid changed. -/
def State.modGrid (s : State) (g : Nat) (f : Grid → Grid) : State :=
  { s with grids := s.grids.map fun x => if x.id = g then f x else x }

/-- A fresh name. -/
abbrev State.fresh (s : State) : State := { s with nextId := s.nextId + 1 }

/-! ### Registers (R93, R95) -/

/-- v register r of lane l. -/
def Group.vreg (g : Group) (r l : Nat) : W32 := SMap.get 0 g.v (64 * r + l)

/-- The group with v register r of lane l written; the value before is kept until the next OPFENCE (R214). -/
def Group.setV (g : Group) (r l : Nat) (x : W32) : Group :=
  let k := 64 * r + l
  { g with v := SMap.set 0 g.v k x
           unfenced := if g.unfenced.any (·.1 == k) then g.unfenced else SMap.put g.unfenced k (g.vreg r l) }

/-- The value as it stood before split i wrote it is kept for the siblings' clauses in progress (R26, R106). -/
def Group.keep (g : Group) (i k : Nat) (x : W64) : Group :=
  { g with splits := g.splits.map fun p =>
      if p.idx = i then { p with old := p.old.erase k }
      else if p.left = 0 ∨ p.old.any (·.1 == k) then p
      else { p with old := p.old.put k x } }

/-- Bits that split i clears in a register written by clearing are kept set for the siblings' clauses in progress (R106). -/
def Group.keepBits (g : Group) (i k : Nat) (x : W64) : Group :=
  { g with splits := g.splits.map fun p =>
      if p.idx = i then { p with old := SMap.set 0 p.old k (SMap.get 0 p.old k &&& ~~~x) }
      else if p.left = 0 then p
      else { p with old := SMap.set 0 p.old k (SMap.get 0 p.old k ||| x) } }

/-- s register r as split i reads it: the trap bank holds s56 to s63 for the handler (R95), a sibling's write is seen at the next clause (R26). -/
def Group.sreg (g : Group) (i r : Nat) : W64 :=
  if g.trapm && decide (56 ≤ r) then SMap.get 0 g.bank r
  else SMap.get (SMap.get 0 g.s r) (g.split i).old r

/-- The group with s register r written by split i. -/
def Group.setS (g : Group) (i r : Nat) (x : W64) : Group :=
  if g.trapm && decide (56 ≤ r) then { g with bank := SMap.set 0 g.bank r x }
  else { g.keep i r (SMap.get 0 g.s r) with s := SMap.set 0 g.s r x }

/-- v register r of lane l as split i reads it: what a cross-lane or predicate instruction of a sibling writes is seen at the next clause (R139, R143). -/
def Group.vregOf (g : Group) (i r l : Nat) : W32 :=
  SMap.get ((g.vreg r l).setWidth 64) (g.split i).old (64 + 64 * r + l) |>.setWidth 32

/-- Registers d to d + n - 1 of the lanes of a mask are about to be written by split i. -/
def Group.keepV (g : Group) (i d n : Nat) (m : Mask) : Group :=
  if g.splits.all fun p => p.idx == i || p.left == 0 then g
  else (List.range n).foldl (fun g j => (lanesOf m).foldl (fun g l =>
    g.keep i (64 + 64 * (d + j) + l) ((g.vreg (d + j) l).setWidth 64)) g) g

/-- The lanes in which a predicate is true; p0 reads true (R20). -/
def Group.pred (g : Group) (r : Nat) : Mask := if r = 0 then BitVec.allOnes 64 else SMap.get 0 g.p r

/-- The group with a predicate written in the lanes of a mask; a write to p0 is discarded (R62). -/
def Group.setP (g : Group) (r : Nat) (lanes val : Mask) : Group :=
  if r = 0 then g else { g with p := SMap.set 0 g.p r ((g.pred r &&& ~~~lanes) ||| (val &&& lanes)) }

/-- The lanes to which an instruction issues: the split's mask and the guard (R64), or the replayed lanes (R156). -/
def State.sel (s : State) (p : BitVec 3) (pn : Bool) : Mask :=
  let sp := s.S
  match sp.replay with
  | some m => m &&& sp.mask
  | none => sp.mask &&& (if pn then ~~~(s.G.pred p.toNat) else s.G.pred p.toNat)

/-- Counter of a path (R317, R318). -/
def Group.count (g : Group) (p : Path) : Nat := (g.inflight.filter (·.path == p)).length

/-- The operations that have not retired: an operation retires once it and every older one of its path are done (R318). -/
def retireOps : List Path → List PathOp → List PathOp
  | _, [] => []
  | blocked, o :: os =>
    if o.done && !blocked.contains o.path then retireOps blocked os
    else o :: retireOps (o.path :: blocked) os

/-- An operation is done on a path (R203, R318). -/
def Group.finish (g : Group) (id : Nat) (p : Path) : Group :=
  { g with inflight := retireOps [] (g.inflight.map fun o => if o.id = id ∧ o.path = p then { o with done := true } else o) }

/-- The paths that a scope reaches, on whose counters a release or an acquire waits (R205, R206). -/
def scopePaths (scope : Nat) : List Path :=
  if scope ≤ 1 then [] else if scope ≤ 4 then [.scr, .glb] else [.scr, .glb, .rmt]

/-- Whether the counters of some paths are all zero. -/
def Group.quiet (g : Group) (ps : List Path) : Bool := ps.all fun p => g.count p == 0

/-- An operation is counted on a path (R317). -/
def Group.raise (g : Group) (id : Nat) (p : Path) : Group := { g with inflight := g.inflight ++ [⟨id, p, false⟩] }

/-- An operation is counted on a path at its place in the order of issue, which its name gives (R318). -/
def Group.raiseAt (g : Group) (id : Nat) (p : Path) : Group :=
  { g with inflight := g.inflight.takeWhile (·.id < id) ++ ⟨id, p, false⟩ :: g.inflight.dropWhile (·.id < id) }

/-- SR_PATHS (R101). -/
def Group.srPaths (g : Group) : W64 :=
  BitVec.ofNat 64 (g.count .scr + g.count .glb * 2 ^ 6 + g.count .rmt * 2 ^ 12 + g.count .cpy * 2 ^ 18
    + g.count .mtx * 2 ^ 24 + g.count .qry * 2 ^ 30)

/-! ### Signatures (R53, R160) -/

/-- Eight steps of the CRC-16 with polynomial 0x1021 (R53). -/
def crc16Bits : Nat → W16 → W16
  | 0, c => c
  | n + 1, c => crc16Bits n (if bitAt c 15 then (c <<< 1) ^^^ 0x1021 else c <<< 1)

/-- One byte enters the CRC-16 (R53). -/
def crc16Byte (c : W16) (b : Byte) : W16 := crc16Bits 8 (c ^^^ (b.setWidth 16 <<< 8))

/-- An instruction word's bits 63:32 enter a signature, most significant byte first (R53). -/
def sigEnter (c : W16) (w : W64) : W16 :=
  crc16Byte (crc16Byte (crc16Byte (crc16Byte c (fld w 56 8)) (fld w 48 8)) (fld w 40 8)) (fld w 32 8)

/-- Step of R160. -/
def sigpStep (p : W32) (m : Mask) (code : W32) : W32 := (p.rotateLeft 5) ^^^ fold32 m ^^^ code

/-- Bits of the CRC-32C, reflected (R327, R357). -/
def crc32cBits : Nat → W32 → W32
  | 0, c => c
  | n + 1, c => crc32cBits n (if bitAt c 0 then (c >>> 1) ^^^ 0x82F63B78 else c >>> 1)

/-- CRC-32C of bytes (R327). -/
def crc32c (bs : List Byte) : W32 :=
  ~~~(bs.foldl (fun c b => crc32cBits 8 (c ^^^ b.setWidth 32)) (BitVec.allOnes 32))

/-! ### The firmware event queue (R271, R333) and device counters (R323) -/

/-- Widths of the device counters (R323). -/
def counterWidth (index : Nat) : Nat :=
  if [0x01, 0x02, 0x13, 0x32, 0x41, 0x50, 0x51].contains index then 32 else 48

/-- A device counter. -/
def State.counter (s : State) (index inst : Nat) : W64 := SMap.get 0 s.counters (4096 * index + inst)

/-- A device counter rises by one, saturating (R323). -/
def State.bump (s : State) (index inst : Nat) : State :=
  let c := s.counter index inst
  if c.toNat + 1 < 2 ^ counterWidth index then
    { s with counters := SMap.set 0 s.counters (4096 * index + inst) (c + 1) }
  else s

/-- A performance event of a core: every counter of the core that selects it rises (R324). -/
def State.perf (s : State) (core ev : Nat) : State :=
  (List.range 16).foldl (fun t j =>
    if (SMap.get 0 t.perfSel (16 * core + j)).toNat = ev then t.bump 0x60 (16 * core + j) else t) s

/-- An event is posted; a full queue drops it and counts the loss (R271). -/
def State.post (s : State) (e : FwEvent) : State :=
  if s.events.length < 4096 then { s with events := s.events ++ [{ e with clk := s.clk }] } else s.bump 0x50 0

/-- Cause codes (R329). -/
def Cause.code : Cause → Nat
  | .illop => 0x01 | .illcls => 0x02 | .priv => 0x03 | .align => 0x04 | .range => 0x05 | .perm => 0x06
  | .winf => 0x07 | .ue => 0x08 | .sigfail => 0x09 | .stkovf => 0x0A | .dself => 0x0B | .dfail => 0x0C
  | .dconf => 0x0D | .rmtflt => 0x0E | .xshto => 0x0F | .driftf => 0x10 | .launchf => 0x11 | .mxflt => 0x12
  | .sparsef => 0x13 | .swtrap => 0x14 | .brkpt => 0x15 | .hndmx => 0x16 | .wdog => 0x17 | .qovf => 0x18
  | .late => 0x19 | .pagef => 0x1A | .regown => 0x1B

/-! ### Translation (R295 to R300) -/

/-- What an access asks of a page (R297). -/
inductive Ask where
  | load | store | rmw | fetch
  deriving DecidableEq, Repr

/-- The result of a translation. -/
inductive Trans where
  /-- The location, the page-table entry, and whether it came from a stale TLB entry. -/
  | ok (loc : Loc) (pte : W64)
  /-- Bad entry or refused access (R298, R178). -/
  | perm
  /-- V = 0 at some level (R298). -/
  | unmapped
  /-- WP set and the access writes (R312). -/
  | protect
  deriving DecidableEq, Repr

/-- TIER of a PTE (R297). -/
abbrev pteTier (p : W64) : Nat := fldN p 6 2
/-- D of a PTE (R297). -/
abbrev pteD (p : W64) : Bool := bitAt p 4
/-- Page size of a PTE in bytes (R297). -/
def pteBytes (p : W64) : Nat := match fldN p 33 2 with | 0 => 0x10000 | 1 => 0x200000 | _ => 0x40000000

/-- The local address range of a tier (R2, log 7). -/
def tierBytes (t : Nat) : Nat := if t = 0 then Config.hbmBytes else Config.lpddrBytes

/-- Whether a leaf found at a level is a good entry (R298). -/
def leafGood (level : Nat) (p : W64) : Bool :=
  let frame := fldN p 38 26
  fldN p 33 2 == level && level ≤ 2 &&
  (level != 1 || frame % 32 == 0) && (level != 2 || frame % 16384 == 0) &&
  (2 ≤ pteTier p || decide (frame * 0x10000 + pteBytes p ≤ tierBytes (pteTier p))) &&
  (!pteD p || pteTier p == 0)

/-- The location of offset off through a leaf (R297). -/
def leafLoc (p : W64) (off : Nat) : Loc :=
  let pa := fldN p 38 26 * 0x10000 + off % pteBytes p
  match pteTier p with
  | 0 => .mem pa
  | 1 => .mem (Config.tier1Base + pa)
  | 2 => .peer (fldN p 24 9) pa
  | _ => .host pa

/-- The index bits of the five levels, highest first: level, low bit, number of bits (R295). -/
def walkLevels : List (Nat × Nat × Nat) := [(4, 48, 8), (3, 39, 9), (2, 30, 9), (1, 21, 9), (0, 16, 5)]

/-- A leaf or the reason why there is none: the entry and its local address (R295, R296, R298). -/
inductive Walk where
  | leaf (pte : W64) (slotAddr : Nat)
  | bad
  | unmapped
  deriving DecidableEq, Repr

/-- The five-level walk from a table at a local address (R295, R296). -/
def walkFrom (m : Memory) (va : W64) : List (Nat × Nat × Nat) → Nat → Walk
  | [], _ => .bad
  | (level, lo, n) :: rest, table =>
    let slotAddr := table + 8 * ((va.toNat / 2 ^ lo) % 2 ^ n)
    let e : W64 := BitVec.ofNat 64 (m.num slotAddr 8)
    if !bitAt e 0 then .unmapped
    else if level = 0 ∨ (level ≤ 2 ∧ fldN e 33 2 ≠ 0) then
      if leafGood level e then .leaf e slotAddr else .bad
    else if e &&& ~~~(0xFFFFFFC000000F01 : W64) ≠ 0 then .bad
    else
      let next := fldN e 38 26 * 0x10000 + fldN e 8 4 * 0x1000
      if next < Config.hbmBytes then walkFrom m va rest next else .bad

/-- The walk of a context's page table. -/
def State.walk (s : State) (ctx : Nat) (va : W64) : Walk :=
  match s.ctx? ctx with
  | none => .bad
  | some c => walkFrom s.mem va walkLevels c.root.toNat

/-- Whether an access writes, for WR, WP and MD (R297, R298, R312): FCLR and ENQ loads write (log 64). -/
def writes (ask : Ask) (win : Nat) : Bool :=
  match ask with
  | .load => win == 11 || win == 14
  | .fetch => false
  | .store | .rmw => true

/-- Whether a leaf allows an access (R178, R297). -/
def pteAllows (p : W64) (ask : Ask) (win : Nat) : Bool :=
  match ask with
  | .fetch => bitAt p 3
  | .load => bitAt p 1 && bitAt p (8 + win) && (!writes ask win || bitAt p 2)
  | .store | .rmw => bitAt p 2 && bitAt p (8 + win)

/-- Sets AC (bit 3) or MD (bit 4) of byte 4 of an entry at its home, as a store through the ORB window does (R298). -/
def State.markEntry (s : State) (slotAddr : Nat) (bits : Byte) : State :=
  { s with mem := s.mem.write (slotAddr + 4) (s.mem.read (slotAddr + 4) ||| bits) }

/-- Entries of a unit's TLB (R299): of a core, of a cluster, of a walk-ahead TLB; the host port has none. -/
def tlbEntries (unit : Nat) : Nat := if unit < 192 then 1024 else if unit < 216 then 16384 else if unit < 240 then 512 else 0

/-- The entry of a unit's TLB that translates an offset. It may be used or may have been evicted: an unspecified choice (R300). -/
def State.tlbHit (s : State) (unit ctx off : Nat) : Option TlbEntry :=
  (s.tlb.find? fun e => e.unit == unit && e.ctx == ctx && decide (e.va ≤ off) && decide (off < e.va + e.size)).filter fun _ =>
    Config.choose s.tick (1000 + 2 * off + unit / 192) % 2 == 0

/-- A unit's TLB takes an entry; a full one loses an unspecified other (R299). -/
def State.tlbPut (s : State) (e : TlbEntry) : State :=
  let rest := s.tlb.filter fun x => !(x.unit == e.unit && x.ctx == e.ctx && decide (x.va < e.va + e.size) && decide (e.va < x.va + x.size))
  let mine := rest.filter (·.unit == e.unit)
  if tlbEntries e.unit = 0 then s
  else if mine.length < tlbEntries e.unit then { s with tlb := e :: rest }
  else { s with tlb := e :: rest.erase (mine.getD (Config.choose s.tick (900 + e.unit) % mine.length) e) }

/-- The leaf for an offset as a unit finds it: in its own TLB, a core's in its cluster's, else by the walk, which sets AC as it loads the TLBs;
the host port has none (R298 to R300). -/
def State.findLeaf (s : State) (unit ctx off : Nat) : State × Walk :=
  match s.tlbHit unit ctx off with
  | some e => (s, .leaf e.pte e.ptAddr)
  | none =>
    let s := s.perf unit 8
    match if unit < 192 then s.tlbHit (192 + clusterOf unit) ctx off else none with
    | some e => (s.tlbPut { e with unit := unit }, .leaf e.pte e.ptAddr)
    | none =>
      match s.walk ctx (BitVec.ofNat 64 off) with
      | .leaf p a =>
        let e : TlbEntry := { unit := unit, ctx := ctx, va := off / pteBytes p * pteBytes p, size := pteBytes p, pte := p, ptAddr := a }
        let t := if tlbEntries unit = 0 then s else s.markEntry a 0x08
        ((if unit < 192 then t.tlbPut { e with unit := 192 + clusterOf unit } else t).tlbPut e, .leaf p a)
      | r => (s, r)

/-- The translation of an address for an access of a unit, with the local address of its entry; MD is not yet set (R295 to R300). -/
def State.resolve (s : State) (unit ctx : Nat) (va : W64) (ask : Ask) (win : Nat) : State × Trans × Nat :=
  let off := va.toNat % 2 ^ 56
  match s.findLeaf unit ctx off with
  | (t, .unmapped) => (t, .unmapped, 0)
  | (t, .bad) => (t, .perm, 0)
  | (t, .leaf p a) =>
    if !pteAllows p ask win then (t, .perm, a)
    else if bitAt p 5 && writes ask win then (t, .protect, a)
    else (t, .ok (leafLoc p off) p, a)

/-- A write uses the translation of an offset that a unit holds: the first one sets MD (R298). -/
def State.markWrite (s : State) (unit ctx off slotAddr : Nat) : State :=
  let mine (e : TlbEntry) : Bool := e.unit == unit && e.ctx == ctx && decide (e.va ≤ off) && decide (off < e.va + e.size)
  if s.tlb.any fun e => mine e && e.dirty then s
  else { s.markEntry slotAddr 0x10 with tlb := s.tlb.map fun e => if mine e then { e with dirty := true } else e }

/-- The translation of an address for an access of a unit (R295 to R300); the first write that uses it sets MD (R298). -/
def State.translate (s : State) (unit ctx : Nat) (va : W64) (ask : Ask) (win : Nat) : State × Trans :=
  match s.resolve unit ctx va ask win with
  | (t, .ok l p, a) => (if writes ask win then t.markWrite unit ctx (va.toNat % 2 ^ 56) a else t, .ok l p)
  | (t, r, _) => (t, r)

/-- The walk without TLB, permissions or marks: the device's own accesses (R408). -/
def State.deviceLoc (s : State) (ctx : Nat) (va : W64) : Option (Loc × W64) :=
  if 2 ^ 60 ≤ va.toNat then none
  else match s.walk ctx (BitVec.ofNat 64 (va.toNat % 2 ^ 56)) with
    | .leaf p _ => if pteTier p = 3 then none else some (leafLoc p (va.toNat % 2 ^ 56), p)
    | _ => none

/-! ### L1 (R186) -/

/-- A core's copy of a line. -/
def State.l1Find (s : State) (core : Nat) (l : Loc) : Option L1Line :=
  s.l1.find? fun e => e.core == core && e.loc == (s.selfLoc l).line

/-- The memory operations, with the loads that are on their way for some cores and lines not to be kept in L1 when they are answered: they may
have been read before what now changes or invalidates the line (R186, R206, R264). -/
def State.stale (s : State) (hit : Nat → Loc → Bool) : List MemOp :=
  s.mops.map fun o => { o with elems := o.elems.map fun e => match e.stage with
    | .sent _ => if hit o.core e.loc.line then { e with nofill := true } else e
    | _ => e }

/-- A line leaves a core's L1. -/
def State.l1Drop (s : State) (core : Nat) (l : Loc) : State :=
  { s with l1 := s.l1.filter fun e => !(e.core == core && e.loc == (s.selfLoc l).line), mops := s.stale fun c x => c == core && x == l.line }

/-- A core's whole L1 is invalidated (R206). -/
def State.l1Flush (s : State) (core : Nat) : State := { s with l1 := s.l1.filter fun e => e.core != core, mops := s.stale fun c _ => c == core }

/-- A PLAIN store updates the line in the issuing core's L1 if it is there (R186). -/
def State.l1Update (s : State) (core : Nat) (l : Loc) (bs : List Byte) : State :=
  { s with
    mops := s.stale fun c x => c == core && x == l.line
    l1 := s.l1.map fun e =>
      if e.core == core && e.loc == (s.selfLoc l).line then
        { e with bytes := (bs.zipIdx).foldl (fun m x => m.put (l.offset % 128 + x.2) x.1) e.bytes } else e }

/-! ### Poison (R335) -/

/-- Whether any of n bytes at a location carries a poison mark. -/
def State.poisoned (s : State) (l : Loc) (n : Nat) : Bool :=
  match s.selfLoc l with
  | .mem a => s.poison.any fun e => e.2 && decide (a ≤ e.1) && decide (e.1 < a + n)
  | .spm c o => s.spmPoison.any fun e => e.2 && decide (spmKey c o ≤ e.1) && decide (e.1 < spmKey c o + n)
  | _ => false

/-- A clean write of n bytes clears their marks (R338). -/
def State.unpoison (s : State) (l : Loc) (n : Nat) : State :=
  match l with
  | .mem a => { s with poison := s.poison.filter fun e => !(decide (a ≤ e.1) && decide (e.1 < a + n)) }
  | .spm c o => { s with spmPoison := s.spmPoison.filter fun e => !(decide (spmKey c o ≤ e.1) && decide (e.1 < spmKey c o + n)) }
  | _ => s

/-- Poison marks on n bytes (R335). -/
def State.addPoison (s : State) (l : Loc) (n : Nat) : State :=
  match l with
  | .mem a => { s with poison := (List.range n).foldl (fun m i => m.put (a + i) true) s.poison }
  | .spm c o => { s with spmPoison := (List.range n).foldl (fun m i => m.put (spmKey c o + i) true) s.spmPoison }
  | _ => s

/-! ### Numbers at a location, and what a write releases -/

/-- An n-byte number at a location (R10). -/
def State.num (s : State) (l : Loc) (n : Nat) : Nat := natOfBytes (s.readLoc l n)

/-- Key of the tag of the word that holds a location (R192). -/
def Loc.tagKey (l : Loc) : Nat := l.offset / 8

/-- The tag of the word at a location: 0 VAL, 1 SUSP, 2 EVAL, 3 FAIL (R192). -/
def State.tag (s : State) (l : Loc) : BitVec 2 :=
  match s.selfLoc l with
  | .mem a => SMap.get 0 s.tags (a / 8)
  | _ => 0

/-- The state with the tag of a word set. -/
def State.setTag (s : State) (l : Loc) (t : BitVec 2) : State :=
  match s.selfLoc l with
  | .mem a => { s with tags := SMap.set 0 s.tags (a / 8) t }
  | _ => s

/-- The state with every element of every memory operation changed. -/
def State.mapElems (s : State) (f : MemOp → Elem → Elem) : State :=
  { s with mops := s.mops.map fun o => { o with elems := o.elems.map (f o) } }

/-- The words of an element. -/
def Elem.words (e : Elem) : List Loc := (List.range ((e.size + 7) / 8)).map fun i => e.loc.word.add (8 * i)

/-- A parked element is released, in its order of parking; nz: by a write that left it nonzero (R185, R193). -/
def Elem.free (e : Elem) (nz : Bool) : Elem :=
  match e.stage with
  | .waiting n => { e with stage := .released n nz }
  | _ => e

/-- Parked WNZ loads whose element now reads nonzero are released (R185). -/
def State.release (s : State) (l : Loc) (n : Nat) : State :=
  s.mapElems fun _ e =>
    if (s.selfLoc e.loc).overlaps e.size l n && s.tag e.loc == 0 && s.num e.loc e.size != 0 then e.free true else e

/-- Accesses parked on a deferred word are released (R193); fill: by a DFILL, against which a load acquires, or by a FAIL, against which one that
raises DFAIL does (R195, R405). -/
def State.releaseWord (s : State) (l : Loc) (fill : Bool := false) : State :=
  s.mapElems fun _ e =>
    if e.dpage && (e.words.any fun w => s.selfLoc w == (s.selfLoc l).word) && (match e.stage with | .waiting _ => true | _ => false) then
      { e.free false with acq := fill } else e

/-- A write at home: the bytes land, their poison marks clear, waiters are released (R182, R185, R338). -/
def State.homeWrite (s : State) (l : Loc) (bs : List Byte) : State :=
  let l := s.selfLoc l
  ((s.writeLoc l bs).unpoison l bs.length).release l bs.length

/-- A write at home of an n-byte number. -/
def State.homePut (s : State) (l : Loc) (n v : Nat) : State := s.homeWrite l (bytesOf n (BitVec.ofNat (8 * n) v))

/-! ### Commands (R375 to R377) -/

/-- A command completes: its results RES0 and RES1 where it has any, STATUS, completion word CW and MSI-X (R376). -/
def State.complete (s : State) (slot cw : Nat) (irq : Bool) (status : Nat) (res : Option (W64 × W64) := none) : State :=
  let t := match res with
    | some (a, b) => (s.homePut (.cmd (slot + 40)) 8 a.toNat).homePut (.cmd (slot + 48)) 8 b.toNat
    | none => s
  let t := t.homePut (.cmd (slot + 4)) 2 status
  let w : Loc := .cmd (0x100 + 8 * cw)
  let t := t.homePut w 8 (t.num w 8 + 1)
  { t with msi := if irq then t.msi ++ [cw] else t.msi }

/-- The completion of a launch's command, if it has one (R23, R376). -/
def State.completeCmd (s : State) (cmd : Option (Nat × Nat × Bool)) (status : Nat) : State :=
  match cmd with
  | none => s
  | some (slot, cw, irq) => s.complete slot cw irq status

/-- An ADDI-window add of 4 bytes of the device into a context's memory, performed at home; with the state, whether it left zero there, which
a peer's home keeps to itself (R23, R24, R408). -/
def State.deviceAdd (s : State) (ctx : Nat) (l : Loc) (x : W32) : State × Bool :=
  match s.selfLoc l with
  | .peer p a => (s.sendElem ctx 2 p a (bytesOf 4 x), false)
  | l =>
    let v := BitVec.ofNat 32 (s.num l 4) + x
    (s.homePut l 4 v.toNat, v == 0)

/-- A write of the device into a context's memory on its own account; a write that cannot be performed is dropped with an event (R408). -/
def State.deviceWrite (s : State) (ctx : Nat) (va : W64) (bs : List Byte) (evType : Nat := 0x0E) : State :=
  match s.deviceLoc ctx va with
  | some (l, _) =>
    if va.toNat % bs.length = 0 then
      match s.selfLoc l with
      | .peer p a => s.sendElem ctx 0 p a bs
      | l => s.homeWrite l bs
    else s.post { type := evType, ctx := ctx, addr := va }
  | none => s.post { type := evType, ctx := ctx, addr := va }

/-! ### The end of a group and of a context (R22, R39, R332) -/

/-- STATE of a launch descriptor is written (R272, R276): bits 585:584. -/
def State.setGridState (s : State) (g : Grid) (st : Nat) : State :=
  s.deviceWrite g.ctx (g.va + 73) [BitVec.ofNat 8 st]

/-- A word under evaluation fails: it holds again what stood there before, without the id, and its parked accesses are released (R192, R195). -/
def State.failWord (s : State) (l : Loc) : State := ((s.writeLoc (l.word.add 6) [0, 0]).setTag l 3).releaseWord l true

/-- Evaluations end: the words that they have not filled fail, their ids are free, and triggers that wait for an id are tried again (R32, R195). -/
def State.endEvalsOf (s : State) (mine : Eval → Bool) : State :=
  let es := s.evals.filter mine
  let t := es.foldl (fun t e =>
    let l := Loc.mem e.word
    if t.tag l = 2 ∧ t.num (l.add 6) 2 = e.id then t.failWord l else t) s
  let t := { t with evals := t.evals.filter fun e => !mine e }
  if es.isEmpty then t else t.mapElems fun _ e => if e.dpage && e.words.any fun w => t.tag w == 1 then e.free false else e

/-- What is left of a killed context's evaluations: the words are FAIL, and nothing of them is enqueued any more (R195). -/
def State.failWords (s : State) (ctx : Nat) : State :=
  let t := s.endEvalsOf (·.ctx == ctx)
  { t with evalPosts := t.evalPosts.filter (·.ctx != ctx) }

/-- What is left in flight of an operation whose group is gone: its stores that have been posted still land or fail (R22); those parked in a
waiter table are withdrawn where parked is false (R343). -/
def MemOp.orphan (o : MemOp) (parked : Bool) : Option MemOp :=
  match o.kind with
  | .store | .fill _ =>
    let es := o.elems.filter fun e => match e.stage with | .todo | .released _ _ | .sent _ => true | .waiting _ | .remoteWait => parked | _ => false
    if es.isEmpty then none else some { o with hold := false, faults := [], elems := es }
  | _ => none

/-- The memory operations without those of groups that are gone, but for their posted stores (R22, R343). -/
def State.orphans (s : State) (gone : Nat → Bool) (parked : Bool) : List MemOp :=
  s.mops.filterMap fun o => match o.owner with
    | .group g _ => if gone g then o.orphan parked else some o
    | _ => some o

/-- Every group of a context is killed with no trap; operations in progress are discarded with their results (R39, R332, R343). A pending PREEMPT
completes with the status too, but for a fatal fault's, which is of launches only (R38, R332, R379). -/
def State.killContext (s : State) (ctx status : Nat) (lost : Bool) : State :=
  let dead : Nat → Bool := fun g => (s.grp g).ctx == ctx && (s.group? g).isSome
  let grids := s.grids.filter (·.ctx == ctx)
  let launches := s.launches.filter (·.ctx == ctx)
  let t : State := { s with
    groups := s.groups.filter (·.ctx != ctx)
    frames := s.frames.filter fun u => !(s.xfers.any fun x => x.image.ctx == ctx && x.room == some u.1)
    xfers := s.xfers.filter fun x => x.image.ctx != ctx && !dead x.id
    wgs := s.wgs.filter (·.ctx != ctx)
    bands := s.bands.filter fun e => (s.wgOf e.2).ctx != ctx
    mops := s.orphans dead false
    fq := { s.fq with camWait := s.fq.camWait.filter (·.ctx != ctx) }
    copies := s.copies.filter (·.ctx != ctx)
    lathe := s.lathe.filter (·.ctx != ctx)
    rings := s.rings.filter (·.ctx != ctx)
    queries := s.queries.filter fun q => !dead q.gid
    tokOps := s.tokOps.filter fun q => !dead q.gid
    reductions := s.reductions.filter (·.ctx != ctx)
    shadowReqs := s.shadowReqs.filter fun r => r.spec.ctx != ctx
    passes := s.passes.filter fun p => match p.cand with
      | .task c _ _ => c != ctx
      | .grid id _ => !(grids.any (·.id == id))
      | .shadow id => !(s.shadowReqs.any fun r => r.id == id && r.spec.ctx == ctx)
    screenEnds := s.screenEnds.filter fun r => (s.wgOf r.wg).ctx != ctx
    screens := s.screens.filter fun r => (s.wgOf r.1).ctx != ctx
    handouts := s.handouts.filter fun r => (s.wgOf r.1).ctx != ctx
    launches := s.launches.filter (·.ctx != ctx)
    segid := s.segid.filter fun e => !(grids.any (·.id == e.2.2))
    grids := s.grids.filter (·.ctx != ctx) }
  let t := grids.foldl (fun u g => u.setGridState g 3) t
  let t := grids.foldl (fun u g => u.completeCmd g.cmd status) t
  let t := launches.foldl (fun u l => u.completeCmd l.cmd status) t
  let t := match (s.ctx? ctx).bind (·.deadline) with
    | some (_, c) => t.completeCmd (some c) (if status = 0x0A then 0 else status)
    | none => t
  (t.failWords ctx).modCtx ctx fun c => { c with lost := lost, preempt := if lost then c.preempt else false, deadline := none }

/-- A fault fatal to a group (R22, R104, R332): its lanes end and firmware receives an event. -/
def State.fatalGroup (s : State) (g : Nat) (c : Nat) (pc : W64) : State :=
  let x := s.grp g
  let t := s.modGroup g fun x => { x with splits := [], stack := [], ended := true, fatal := true, saved := none, pending := [] }
  let t := t.post { type := 1, cause := c, ctx := x.ctx, core := x.core, slot := x.slot, addr := x.task, info := pc }
  if x.task = 0 then t
  else t.post { type := 2, cause := c, ctx := x.ctx, core := x.core, slot := x.slot, addr := x.task, info := pc }

/-- A double fault, or a UE or SIGFAIL outside a region: fatal to the group and the end of its context (R332); of a shadow, of that alone (R341). -/
def State.fatalContext (s : State) (g : Nat) (c : Nat) (pc : W64) : State :=
  if (s.grp g).shadow then s.fatalGroup g c pc else (s.fatalGroup g c pc).killContext (s.grp g).ctx 0x000A true

/-! ### Idempotent restart (R335 to R337) -/

/-- A word of an instruction, a register or an engine of a group consumes an uncorrectable error (R335 to R337, R339). -/
def State.consumeUE (s : State) (g : Nat) (c : Cause) (pc : W64) : State :=
  let x := s.grp g
  if x.idempc = 0 ∨ x.restart.isNone then s.fatalContext g c.code pc
  else
    { s.modGroup g fun x => { x with restarting := true, ueCause := if x.restarting then x.ueCause else c } with
      mops := s.mops.map fun o => match o.owner with
        | .group h _ => if h = g then { o with elems := o.elems.map fun e => { e with drop := true } } else o
        | _ => o }

/-- A restarted split's arrivals leave a join record, and its own deferred entries pass to the restarted split (R337). -/
def restartEntry (gone : List Split) (toward : Nat) : StackEntry → StackEntry
  | .joinRec x e q g w k past =>
    let back := gone.filter fun sp => w.contains sp.idx
    .joinRec x e (back.foldl (fun m sp => m &&& ~~~sp.mask) q) (back.foldl (fun a sp => a ^^^ sp.sigp) g)
      (w.filter fun i => !(back.any (·.idx == i))) k past
  | .deferred pc m p o => .deferred pc m p (if gone.any (·.idx == o) then toward else o)

/-- The lanes that an entry of the reconvergence stack holds. -/
def StackEntry.held : StackEntry → Mask
  | .joinRec _ _ q _ _ _ _ => q
  | .deferred _ m _ _ => m

/-- The restart of a group once its counters are zero (R337). -/
def State.restartGroup (s : State) (g : Nat) : State :=
  let x := s.grp g
  match x.restart with
  | none => s.fatalContext g x.ueCause.code x.idempc
  | some (m, sigp, depth) =>
    let base := match x.saved with | some o => o.splits | none => x.splits
    let stack := match x.saved with | some o => o.stack | none => x.stack
    if x.idempc = 0 ∨ stack.length < depth then s.fatalContext g x.ueCause.code x.idempc
    else
      let gone := base.filter fun sp => sp.mask &&& m ≠ 0
      let keep := base.filter fun sp => sp.mask &&& m = 0
      let idx := (gone.map (·.idx)).foldl min 3
      let lanes := m &&& (gone.foldl (fun a sp => a ||| sp.mask) 0 ||| stack.foldl (fun a e => a ||| e.held) 0)
      let sp : Split := { idx := idx, mask := lanes, pc := x.idempc, sigp := sigp }
      let st := (stack.drop (stack.length - depth)).map (restartEntry gone idx)
      (s.modGroup g fun y => { y with
          splits := if lanes = 0 then keep else keep ++ [sp], stack := st, trapm := false, strip := false, saved := none, latch := [], restarting := false, jmpxAt := none, entering := false,
          begun := [], carried := [],
          pending := y.pending.filter fun t => keep.any (·.idx == t.split) }).post
        { type := 0x0B, cause := x.ueCause.code, ctx := x.ctx, core := x.core, slot := x.slot, addr := x.idempc }

/-! ### Page faults (R303 to R306) -/

/-- Whether the page of an address is being migrated (R311, R312). -/
def State.migrating (s : State) (ctx : Nat) (va : W64) : Bool :=
  s.copies.any fun c => c.kind == .migr && fldN c.c 0 16 == ctx &&
    c.a.toNat % 2 ^ 56 / pteBytes c.b == va.toNat % 2 ^ 56 / pteBytes c.b

/-- The 32 bytes of an entry (R305). -/
def FqEntry.bytes (e : FqEntry) : List Byte :=
  bytesOf 8 e.va ++ bytesOf 8 (BitVec.ofNat 64 (e.ctx % 2 ^ 16 + e.atype % 16 * 2 ^ 16 + e.win % 16 * 2 ^ 20 + e.src % 4 * 2 ^ 24
      + e.core % 256 * 2 ^ 26 + e.slot % 32 * 2 ^ 34 + e.wpf.toNat * 2 ^ 39 + e.dup % 2 ^ 16 * 2 ^ 40))
    ++ bytesOf 8 e.clk ++ bytesOf 8 (BitVec.ofNat 64 e.sq)

/-- A field of n bytes of the fault queue's header (R304); 0 while it has not been placed. -/
def State.fqField (s : State) (off n : Nat) : Nat := (s.fq.header.map fun h => s.mem.num (h + off) n).getD 0

/-- A field of the fault queue's header is written at its home (R304). -/
def State.setFqField (s : State) (off n v : Nat) : State :=
  match s.fq.header with
  | some h => s.homePut (.mem (h + off)) n v
  | none => s

/-- HEAD of the fault queue. -/
abbrev State.fqHead (s : State) : Nat := s.fqField 16 8
/-- TAIL of the fault queue. -/
abbrev State.fqTail (s : State) : Nat := s.fqField 24 8

/-- Whether the fault queue takes another entry. -/
def State.fqRoom (s : State) : Bool := s.fq.header.isSome && decide ((s.fqTail + 2 ^ 64 - s.fqHead) % 2 ^ 64 < 2 ^ s.fqField 8 1)

/-- Local address of the k-th entry of the fault queue's array: BASE is a local address (log 10). -/
def State.fqSlot (s : State) (k : Nat) : Nat := s.fqField 0 8 + k % 2 ^ s.fqField 8 1 * 32

/-- A post enters the fault queue: the entry is written, TAIL and BELL rise by one, and its CAM entry takes its number (R304 to R306). -/
def State.enterPost (s : State) (q : FqEntry) : State :=
  let n := (s.fqTail + 1) % 2 ^ 64
  let t := s.homeWrite (.mem (s.fqSlot s.fqTail)) ({ q with sq := n } : FqEntry).bytes
  let t := (t.setFqField 24 8 n).setFqField 40 8 (t.fqField 40 8 + 1)
  { t with cam := t.cam.map fun e => if e.sq = 0 ∧ e.cluster = q.cluster ∧ e.ctx = q.ctx ∧ e.page = q.va.toNat / 0x10000 then { e with sq := n } else e }

/-- A fault is merged into the post with a number, or into one that waits for room: DUP rises by one (R305, R306). -/
def State.mergePost (s : State) (e : CamEntry) : State :=
  if e.sq = 0 then
    { s with fq := { s.fq with waiting := s.fq.waiting.map fun q =>
        if q.cluster = e.cluster ∧ q.ctx = e.ctx ∧ q.va.toNat / 0x10000 = e.page then { q with dup := min 0xFFFF (q.dup + 1) } else q } }
  else
    let l := Loc.mem (s.fqSlot (e.sq - 1) + 13)
    if s.fqHead < e.sq ∧ e.sq ≤ s.fqTail then s.homePut l 2 (min 0xFFFF (s.num l 2 + 1)) else s

/-- A fault takes a CAM entry and posts, is merged, or waits: for room, or for a CAM entry (R304, R306). -/
def State.postEntry (s : State) (q : FqEntry) : State :=
  match s.cam.find? fun e => e.cluster == q.cluster && e.ctx == q.ctx && e.page == q.va.toNat / 0x10000 with
  | some e => s.mergePost e
  | none =>
    if 64 ≤ (s.cam.filter (·.cluster == q.cluster)).length then { s with fq := { s.fq with camWait := s.fq.camWait ++ [q] } }
    else
      let t : State := { s with cam := s.cam ++ [⟨q.cluster, q.ctx, q.va.toNat / 0x10000, 0⟩] }
      if t.fqRoom then t.enterPost q
      else { t.setFqField 32 8 (t.fqField 32 8 + 1) with fq := { t.fq with waiting := t.fq.waiting ++ [q] } }

/-- A lane's or a unit's translation parks: the cluster posts an entry, or merges it (R303, R304, R306). -/
def State.postFault (s : State) (cluster ctx : Nat) (va : W64) (atype win src core slot : Nat) (wpf : Bool) : State :=
  let s := if src = 0 then s.perf core 0x0D else s
  if wpf && s.migrating ctx va then s
  else s.postEntry { va := BitVec.ofNat 64 (va.toNat % 2 ^ 56), ctx := ctx, atype := atype, win := win, src := src
                     core := core, slot := slot, wpf := wpf, clk := s.clk, cluster := cluster }

/-- Faults that found their cluster's CAM full are posted as entries become free, in the order in which they came (R306). -/
def State.settleCam (s : State) : State :=
  if s.fq.camWait.isEmpty then s
  else s.fq.camWait.foldl State.postEntry { s with fq := { s.fq with camWait := [] } }

/-! ### Taking a trap, and returning from one (R326 to R331, R156) -/

/-- The bytes of a lane record (R328). -/
def LaneRec.bytes (r : LaneRec) : List Byte :=
  bytesOf 8 r.addr ++ [BitVec.ofNat 8 r.lane, BitVec.ofNat 8 r.cause.code, BitVec.ofNat 8 (r.sz + 16 * r.win), 0,
    BitVec.ofNat 8 r.opc, 0, 0, 0]

/-- The 1,020 bytes of the opaque block as they lie in memory: unspecified, since its layout is not given (R327, log 9). -/
def State.opaqueBytes (s : State) (g : Nat) : List Byte :=
  (List.range 1020).map fun i => (Config.free64 s.tick (2000 + 1024 * g + i)).setWidth 8

/-- The registers and the splits of a group that enters its handler (R326). -/
def Group.enterHandler (y : Group) (t : Trap) : Group :=
  { y with
    tpc := t.pc, tmask := t.mask, tcause := BitVec.ofNat 64 t.cause.code, taddr := t.addr
    tnrec := BitVec.ofNat 64 t.recs.length
    saved := some { splits := y.splits.map fun p => if p.idx = t.split then { p with wait := .none, replay := none, old := [] } else p
                    stack := y.stack, trapper := t.split, sigp := (y.split t.split).sigp }
    trapm := true, trapped := true, jmpxAt := none, latch := [], pending := y.pending.drop 1, entering := false
    splits := y.splits.map fun p =>
      if p.idx = t.split then
        { p with pc := y.tvec, left := 0, sigb := 0xFFFF, wait := .none, replay := none, old := [], bars := [], claim := none }
      else p }

/-- Trap entry of a group that is not in trap mode (R326), in the order of its five steps. The frame is written through window 0 (R327):
window bits 59:56 of SR_TFRAME take no part, which is the model's choice (log 69); nonzero bits 63:60 break R178, a double fault. A shadow writes
no frame (R341). -/
def State.enterTrap (s : State) (g : Nat) (t : Trap) : State :=
  let x := s.grp g
  let park (s1 : State) (wp : Bool) : State :=
    (s1.postFault (clusterOf x.core) x.ctx x.tframe 1 0 0 x.core x.slot wp).setWait g t.split (.fetch x.tframe)
  if x.tvec = 0 ∨ x.tframe = 0 then s.fatalGroup g t.cause.code t.pc
  else if x.tframe.toNat % 2048 ≠ 0 ∨ 2 ^ 60 ≤ x.tframe.toNat then s.fatalContext g t.cause.code t.pc
  else if x.shadow then s.modGroup g fun y => y.enterHandler t
  else
    match s.translate x.core x.ctx x.tframe .store 0 with
    | (s1, .ok loc _) =>
      let block := s.opaqueBytes g
      let bytes := block ++ bytesOf 4 (crc32c block)
      let recs := (t.recs.map LaneRec.bytes).flatten
      (((s1.homeWrite loc bytes).homeWrite (loc.add 0x400) recs).l1Drop x.core loc).modGroup g fun y => y.enterHandler t
    | (s1, .unmapped) => park s1 false
    | (s1, .protect) => park s1 true
    | (s1, .perm) => s1.fatalContext g t.cause.code t.pc

/-- The oldest pending trap of a group is entered once no handler runs and no sibling is in mid-clause (R326, R331). -/
def State.enterPending (s : State) (g : Nat) : State :=
  let x := s.grp g
  match x.pending with
  | [] => s
  | t :: _ =>
    if x.saved.isSome || x.ended || (x.split t.split).wait != .trapped
        || (!x.entering && x.splits.any fun p => p.idx != t.split && p.left != 0 && p.wait != .trapped) then s
    else s.enterTrap g t

/-- A trap takes its place among the pending ones: in the order of raising, of one step by split index (R331). -/
def queueTrap (ts : List Trap) (t : Trap) : List Trap :=
  let before (x : Trap) : Bool := decide (x.tick < t.tick) || decide (x.split < t.split)
  ts.takeWhile before ++ t :: ts.dropWhile before

/-- A split's trap is pending. -/
def State.holdTrap (s : State) (g : Nat) (t : Trap) : State :=
  (s.modGroup g fun y => { y with pending := queueTrap y.pending { t with tick := s.tick } }).setWait g t.split .trapped

/-- A split raises a trap: entered as R326 gives, held while a sibling is in trap mode (R331), or a double fault (R106). -/
def State.trapGroup (s : State) (g : Nat) (t : Trap) : State :=
  match (s.grp g).saved with
  | some o => if o.trapper = t.split then s.fatalContext g t.cause.code t.pc else s.holdTrap g t
  | none => (s.holdTrap g t).enterPending g

/-- The issuing split's instruction, or its clause header, traps with the given lanes, address and records; an instruction's word has issued (R324). -/
def State.trap (s : State) (c : Cause) (mask : Mask) (addr : W64) (recs : List LaneRec := []) : State :=
  let s := if s.S.left = 0 then s else s.perf s.G.core 3
  (s.modG fun g => { g with wdog := 0 }).trapGroup s.cur.1
    { split := s.cur.2, cause := c, pc := s.S.pc, mask := mask, addr := addr, recs := recs }

/-- A SIGB mismatch (R339): as a UE, with an event and FCONS on the core. -/
def State.sigFail (s : State) (g : Nat) (pc : W64) : State :=
  let x := s.grp g
  let t := s.post { type := 9, cause := 9, ctx := x.ctx, core := x.core, slot := x.slot, addr := x.task, info := pc }
  let t := { t with fcons := t.fcons ||| ((1 : BitVec 192) <<< x.core) }
  t.consumeUE g .sigfail pc

/-- What the end of a clause does: latches are lost, an END clause checks and resets SIGB (R43, R53), a group may be moved (R54). -/
def State.clauseEnd (s : State) (g i : Nat) : State :=
  let p := (s.grp g).split i
  let s := s.modGroup g fun x => { (x.modSplit i fun q => { q with old := [] }) with latch := x.latch.filter fun e => e.1 / 256 != i }
  let s := if bitAt p.hdr 28 then s.modGroup g fun x => x.modSplit i fun q => { q with yielded := true } else s
  if bitAt p.hdr 29 then
    let s' := s.modGroup g fun x => x.modSplit i fun q => { q with sigb := 0xFFFF }
    if p.sigb = fld p.hdr 30 16 then s' else s'.sigFail g p.hdrPc
  else s

/-- The word of a split's instruction is passed: it enters SIGB (R53), the pc moves to the next word, a last word ends its clause. -/
def State.passWord (s : State) (g i : Nat) : State :=
  let last := ((s.grp g).split i).left ≤ 1
  let s := s.modGroup g fun x => x.modSplit i fun q =>
    { q with sigb := sigEnter q.sigb q.ir, pc := q.pc + 8, left := q.left - 1, wait := .none, replay := none }
  if last then s.clauseEnd g i else s

/-- An instruction of a split retires; its issue has cleared the watchdog (R321). -/
def State.retireAt (s : State) (g i : Nat) : State :=
  ((s.modGroup g fun x => { x with wdog := 0 }).perf (s.grp g).core 3).passWord g i

/-- The issuing instruction retires. -/
def State.retire (s : State) : State := s.retireAt s.cur.1 s.cur.2

/-- The issuing instruction consumes an uncorrectable error, with no other effect (R335, R336). -/
def State.consumeHere (s : State) : State :=
  let t := s.consumeUE s.cur.1 .ue s.S.pc
  if (t.group? s.cur.1).isSome then t.retire else t

/-- The issuing control transfer retires and the split continues at a target (R55). -/
def State.jump (s : State) (target : W64) : State :=
  s.retire.modS fun q => { q with pc := target, left := 0 }

/-! ### Faults of copy and Lathe operations (R220, R244) -/

/-- A copy operation of a group faults: the first undelivered fault is kept, further ones are posted (R220). -/
def State.copyFault (s : State) (g : Nat) (c : Cause) (addr : W64) : State :=
  let x := s.grp g
  if x.cpyFault.isNone then s.modGroup g fun y => { y with cpyFault := some (c, addr) }
  else s.post { type := 4, cause := c.code, ctx := x.ctx, core := x.core, slot := x.slot, addr := addr }

/-- A Lathe operation or a ring faults: the first undelivered fault is kept, further ones are posted (R244). -/
def State.latheFault (s : State) (g : Nat) (c : Cause) (addr : W64) (inTrap : Bool) : State :=
  let x := s.grp g
  if x.mtxFault.isNone then s.modGroup g fun y => { y with mtxFault := some (c, addr, inTrap) }
  else s.post { type := 4, cause := c.code, ctx := x.ctx, core := x.core, slot := x.slot, addr := addr }

/-- An engine's access that found a failed word acquires for the handler that its DFAIL enters (R195, R405). -/
def State.acquireFor (s : State) (c : Cause) : State := if c = .dfail then s.l1Flush s.G.core else s

/-- A pending copy fault is delivered at the issuing split's header or instruction (R220). -/
def State.deliverCopy (s : State) : Option State :=
  s.G.cpyFault.map fun f => ((s.acquireFor f.1).modG fun g => { g with cpyFault := none }).trap f.1 s.S.mask f.2

/-- A pending Lathe fault is delivered (R244); in trap mode only one of an operation issued there. -/
def State.deliverLathe (s : State) : Option State :=
  match s.G.mtxFault with
  | some (c, addr, inTrap) =>
    if s.G.trapm && !inTrap then none
    else some (((s.acquireFor c).modG fun g => { g with mtxFault := none }).trap c s.S.mask addr)
  | none => none

/-! ### The end of lanes and the completion of joins (R150, R151) -/

/-- Lanes leave the expected mask of a join record (R151). -/
def StackEntry.dropLanes (m : Mask) : StackEntry → StackEntry
  | .joinRec x e q g w k past => .joinRec x (e &&& ~~~m) q g w k past
  | d => d

/-- A deferred entry passes to a split when one of the listed splits owned it. -/
def StackEntry.pass (from_ : List Nat) (toward : Nat) : StackEntry → StackEntry
  | .deferred pc m p o => .deferred pc m p (if from_.contains o then toward else o)
  | d => d

/-- Where the innermost completed join record stands among the first n entries of a stack (R150). -/
def joinDone : Nat → List StackEntry → Option Nat
  | n + 1, .joinRec _ e q _ _ _ _ :: es => if q = e then some 0 else (joinDone n es).map (· + 1)
  | n + 1, _ :: es => (joinDone n es).map (· + 1)
  | _, _ => none

/-- Every split parked at a completed join record merges into one (R150, R160); with none parked, the split that lost its last lane carries the joined lanes.
Their accesses precede its own (R267). A member that has executed a BAR which is not complete passes its arrival to the merged split: the spec does not say (log 70). -/
def Group.mergeAt (g : Group) (carrier k : Nat) : Group :=
  match g.stack[k]? with
  | some (.joinRec _ _ q acc w cont past) =>
    let members := if w.isEmpty then [carrier] else w
    let idx := members.foldl min 3
    let merged : Split := { g.split idx with
      mask := q, sigp := sigpStep acc q 5, sigb := 0xFFFF, pc := cont, left := 0, wait := .none, replay := none, old := [], after := none
      bars := (members.map fun i => (g.split i).bars).flatten.eraseDups, acqs := (members.map fun i => (g.split i).acqs).flatten.eraseDups
      past := (past ++ if w.isEmpty then (g.split carrier).past else []).eraseDups, joined := (past ++ (members.map fun i => (g.split i).joined).flatten).eraseDups }
    { g with stack := (g.stack.eraseIdx k).map (StackEntry.pass members idx)
             splits := if q = 0 then g.splits else (g.splits.filter fun p => !members.contains p.idx) ++ [merged] }
  | _ => g

/-- Every completed join record among the innermost n entries completes. -/
def Group.completeJoins (carrier : Nat) : Nat → Nat → Group → Group
  | 0, _, g => g
  | fuel + 1, n, g =>
    match joinDone n g.stack with
    | some k => Group.completeJoins carrier fuel (n - 1) (g.mergeAt carrier k)
    | none => g

/-- The innermost deferred entry of a split among the first n entries of a stack, and where it stands. -/
def ownDeferred (i : Nat) : Nat → List StackEntry → Option (Nat × W64 × Mask × W32)
  | n + 1, .deferred pc m p o :: es => if o = i then some (0, pc, m, p) else (ownDeferred i n es).map fun x => (x.1 + 1, x.2)
  | n + 1, _ :: es => (ownDeferred i n es).map fun x => (x.1 + 1, x.2)
  | _, _ => none

/-- A split left with no lane pops its innermost deferred entry, or ends (R151). -/
def Group.popOrEnd (g : Group) (i n : Nat) : Group :=
  match ownDeferred i n g.stack with
  | some (k, pc, m, p) =>
    { g.modSplit i fun q => { q with mask := m, sigp := p, sigb := 0xFFFF, pc := pc, left := 0, wait := .none, replay := none } with
      stack := g.stack.eraseIdx k }
  | none => { g with endSigp := g.endSigp ^^^ (g.split i).sigp, splits := g.splits.filter fun q => q.idx != i }

/-- What follows when a split has lost lanes: joins complete, the path signature steps, a split without lanes goes on or ends (R151, R160). -/
def Group.afterLoss (g : Group) (i n : Nat) (code : W32) : Group :=
  let h := g.completeJoins i g.stack.length n
  if (g.split i).mask ≠ 0 then h.modSplit i fun q => { q with sigp := sigpStep q.sigp q.mask code }
  else if (h.split i).mask ≠ 0 then h
  else h.popOrEnd i (n - (g.stack.length - h.stack.length))

/-- The group leaves trap mode: splits, deferred entries and join records are those of the opaque block less the lanes that have ended since (R156, R393). -/
def Group.leaveTrap (g : Group) : Group :=
  match g.saved with
  | none => g
  | some o =>
    { g with splits := o.splits.map fun q =>
               if q.idx = o.trapper then
                 { q with sigp := o.sigp, acqs := (q.acqs ++ (g.split q.idx).acqs).eraseDups, past := (q.past ++ (g.split q.idx).past).eraseDups
                          bars := (q.bars ++ (g.split q.idx).bars).eraseDups }
               else q
             stack := o.stack, trapm := false, saved := none, latch := [] }

/-- Lanes of a split end by EXIT or KILL outside trap mode (R151). -/
def Group.endLanes (g : Group) (i : Nat) (m : Mask) (kill : Bool) : Group :=
  let g := { g.modSplit i fun q => { q with mask := q.mask &&& ~~~m } with
    kill := if kill then g.kill ||| m else g.kill, stack := g.stack.map (StackEntry.dropLanes m) }
  g.afterLoss i g.stack.length (if kill then 7 else 6)

/-- Lanes of the handler end in trap mode; when the trapping split has none left the group leaves trap mode (R151, R393). -/
def Group.endLanesInTrap (g : Group) (i : Nat) (m : Mask) (kill : Bool) (o : Opaque) : Group :=
  let rest := (o.splits.find? (·.idx == o.trapper)).elim 0 fun q => q.mask &&& ~~~m
  let o : Opaque := { o with
    splits := o.splits.map fun q => { q with mask := q.mask &&& ~~~m }
    stack := o.stack.map (StackEntry.dropLanes m)
    sigp := if kill && rest != 0 then sigpStep o.sigp rest 7 else o.sigp }
  let g := { g.modSplit i fun q => { q with mask := q.mask &&& ~~~m } with
    kill := if kill then g.kill ||| m else g.kill
    tmask := if kill then g.tmask &&& ~~~m else g.tmask
    stack := g.stack.map (StackEntry.dropLanes m), saved := some o }
  if rest = 0 then
    let h := g.leaveTrap
    h.afterLoss i h.stack.length 7
  else g.afterLoss i (g.stack.length - o.stack.length) (if kill then 7 else 6)

/-! ### The handler strip (R197, R262) -/

/-- A word of an accumulator store. -/
def State.accWord (s : State) (core row col : Nat) : W32 := SMap.get 0 s.acc ((256 * core + row) * 1024 + col)

/-- The state with a word of an accumulator store written, which clears its poison mark. -/
def State.setAcc (s : State) (core row col : Nat) (x : W32) : State :=
  { s with acc := SMap.set 0 s.acc ((256 * core + row) * 1024 + col) x
           accPoison := SMap.set false s.accPoison ((256 * core + row) * 1024 + col) false }

/-- Whether an element of an accumulator store carries a poison mark (R335). -/
def State.accMarked (s : State) (core row col : Nat) : Bool := SMap.get false s.accPoison ((256 * core + row) * 1024 + col)

/-- An element of an accumulator store is marked poisoned (R338). -/
def State.markAcc (s : State) (core row col : Nat) : State :=
  { s with accPoison := SMap.set false s.accPoison ((256 * core + row) * 1024 + col) true }

/-- What a walk over an area of a group's memory finds. -/
inductive Area where
  | ok (locs : List Loc)
  /-- A page fault at this address; true for a write-protected page. -/
  | parks (va : W64) (wp : Bool)
  | faults (c : Cause) (va : W64)
  deriving DecidableEq, Repr

/-- The locations of addresses of a group, translated one after the other (R178, R298, R303). -/
def State.area (s : State) (g : Group) (ask : Ask) : List W64 → State × Area
  | [] => (s, .ok [])
  | va :: vas =>
    if 2 ^ 56 ≤ va.toNat then (s, .faults .range va)
    else
      match s.translate g.core g.ctx va ask 0 with
      | (t, .ok l _) =>
        match t.area g ask vas with
        | (u, .ok ls) => (u, .ok (l :: ls))
        | r => r
      | (t, .unmapped) => (t, .parks va false)
      | (t, .protect) => (t, .parks va true)
      | (t, .perm) => (t, .faults .perm va)

/-- The addresses of the 256 rows of the save area (R262). -/
def stripRows (g : Group) : List W64 := (List.range 256).map fun r => g.mxsave + BitVec.ofNat 64 (128 * r)

/-- The strip's row r as 128 bytes. -/
def State.stripBytes (s : State) (core r : Nat) : List Byte :=
  ((List.range 32).map fun c => bytesOf 4 (s.accWord core r (544 + c))).flatten

/-- The strip's row r is written at a location, with the poison marks of its elements (R335). -/
def State.saveStripRow (s : State) (core r : Nat) (l : Loc) : State :=
  (List.range 32).foldl (fun t c => if s.accMarked core r (544 + c) then t.addPoison (l.add (4 * c)) 4 else t) (s.homeWrite l (s.stripBytes core r))

/-- The strip is written to the save area (R262). -/
def State.saveStrip (s : State) (core : Nat) : Nat → List Loc → State
  | _, [] => s
  | r, l :: ls => (s.saveStripRow core r l).saveStrip core (r + 1) ls

/-- The strip's row r takes 128 bytes. -/
def State.fillStripRow (s : State) (core r : Nat) (bs : List Byte) : State :=
  (List.range 32).foldl (fun t c => t.setAcc core r (544 + c) (BitVec.ofNat 32 (natOfBytes ((bs.drop (4 * c)).take 4)))) s

/-- The saved contents are written back into the strip (R262). -/
def State.loadStrip (s : State) (core : Nat) : Nat → List Loc → State
  | _, [] => s
  | r, l :: ls => (s.fillStripRow core r (s.readLoc l 128)).loadStrip core (r + 1) ls

/-- The issuing instruction parks on a page fault at an address and issues again once the page is served (R303). -/
def State.parkIssue (s : State) (va : W64) (atype win : Nat) (wp : Bool) : State :=
  (s.postFault (clusterOf s.G.core) s.G.ctx va atype win 0 s.G.core s.G.slot wp).setWait s.cur.1 s.cur.2 (.fetch va)

/-- MRES of the issuing group: none where it cannot go on, with the state that it leaves (R262); a poisoned word of the save area is consumed
(R335). A shadow has saved nothing (R341). -/
def State.mres (s : State) : State × Bool :=
  if s.G.shadow then (s.modG fun g => { g with strip := false }, true)
  else match s.area s.G .load (stripRows s.G) with
  | (t, .ok ls) =>
    if ls.any fun l => t.poisoned l 128 then (t.consumeHere, false)
    else ((t.loadStrip s.G.core 0 ls).modG fun g => { g with strip := false }, true)
  | (t, .parks va wp) => (t.parkIssue va 0 0 wp, false)
  | (t, .faults c va) => (t.trap c s.S.mask va, false)

/-! ### The return from a trap (R156) -/

/-- The header of the clause of a code block that holds byte off, when decoding goes on from byte a (R49). -/
def headerFor (w : Nat → W64) : Nat → Nat → Nat → Option Nat
  | 0, _, _ => none
  | n + 1, a, off =>
    let e := a + 8 * (fldN (w a) 56 4 + 2)
    if off < e then some a else headerFor w n e off

/-- A code word of a context's memory; 0 where none can be read. -/
def State.codeAt (s : State) (ctx : Nat) (va : W64) : W64 :=
  match s.deviceLoc ctx va with
  | some (l, _) => BitVec.ofNat 64 (natOfBytes (s.readLoc l 8))
  | none => 0

/-- The clause that holds an address: its header's address and its header (R156). -/
def State.clauseAt (s : State) (ctx : Nat) (p : Split) (tpc : W64) : Option (W64 × W64) :=
  if tpc.toNat % 8 ≠ 0 then none
  else if p.hdrPc.toNat ≤ tpc.toNat ∧ tpc.toNat < p.hdrPc.toNat + 8 * (fldN p.hdr 56 4 + 2) then some (p.hdrPc, p.hdr)
  else
    let base := tpc.toNat / 256 * 256
    let w (off : Nat) : W64 := s.codeAt ctx (BitVec.ofNat 64 (base + off))
    (headerFor w 33 0 (tpc.toNat % 256)).map fun a => (BitVec.ofNat 64 (base + a), w a)

/-- Whether an operation still counts on a path of its group (R318). -/
def Group.counted (g : Group) (id : Nat) (p : Path) : Bool := g.inflight.any fun q => q.id == id && q.path == p && !q.done

/-- Accesses that WDOG withdrew are issued again by TRET.RPL: they go on once they are counted anew; TRET.SKP performs none of them (R202, R318, R321). -/
def State.reissue (s : State) (g : Nat) (skip : Bool) : State :=
  let mine (o : MemOp) : Bool := (match o.owner with | .group h _ => h == g | _ => false) && o.elems.any (·.stage == .withdrawn)
  let again (e : Elem) : Elem := if e.stage = .withdrawn then { e with stage := if skip then .done else .held } else e
  let ops := s.mops.map fun o => if mine o then { o with elems := o.elems.map again } else o
  let left := ops.filter fun o => !(skip && !o.elems.isEmpty && o.elems.all (·.stage == .done))
  let stays (i : Nat) : Bool := left.any (·.id == i) || !s.mops.any (·.id == i)
  { s with mops := left }.modGroup g fun x => x.everySplit fun p => { p with acqs := p.acqs.filter stays }

/-- Where the interrupted split resumes at SR_TPC under RPL, for the lanes of m, or under SKP (R156). -/
def State.resume (s : State) (g i : Nat) (skip : Bool) (m : Mask) : State :=
  let x := s.grp g
  let s := s.reissue g skip
  let at' (f : Split → Split) : State := s.modGroup g fun y => y.modSplit i f
  match s.clauseAt x.ctx (x.split i) x.tpc with
  | none => at' fun q => { q with pc := x.tpc, left := 0, replay := none }
  | some (h, w) =>
    let fin := h + BitVec.ofNat 64 (8 * (fldN w 56 4 + 2))
    if x.tpc = h then at' fun q => { q with pc := if skip then fin else h, left := 0, replay := none }
    else
      let t := at' fun q => { q with pc := x.tpc, hdrPc := h, hdr := w, left := (fin - x.tpc).toNat / 8, replay := some m }
      if skip then (t.modGroup g fun y => y.modSplit i fun q => { q with ir := s.codeAt x.ctx x.tpc }).passWord g i else t

/-- The group, whose TRET has retired, leaves its handler and goes on (R156, R331). -/
def State.goBack (r : State) (skip : Bool) : State :=
  let trapper := (r.G.saved.getD {}).trapper
  let u := r.modG Group.leaveTrap
  let u := u.resume r.cur.1 trapper skip (u.G.tmask &&& (u.G.split trapper).mask)
  (u.modG fun x => { x.completeJoins trapper x.stack.length x.stack.length with entering := !x.pending.isEmpty }).enterPending r.cur.1

/-- TRET of the issuing split, which is in trap mode (R156, R327, R262); a shadow has no frame to read (R341). -/
def State.returnTrap (s : State) (skip : Bool) : State :=
  let (s, gone) := if s.G.strip then s.mres else (s, true)
  if !gone then s
  else
    let g := s.G
    if 2 ^ 60 ≤ g.tframe.toNat then s.fatalContext s.cur.1 0 s.S.pc
    else if g.shadow then
      if (s.retire.group? s.cur.1).isNone || s.retire.G.restarting || s.retire.G.ended then s.retire else s.retire.goBack skip
    else match s.translate g.core g.ctx g.tframe .load 0 with
    | (t, .unmapped) | (t, .protect) => t.parkIssue g.tframe 0 0 false
    | (t, .perm) => t.fatalContext s.cur.1 0 s.S.pc
    | (t, .ok loc _) =>
      let r := t.retire
      if (r.group? s.cur.1).isNone || r.G.restarting then r
      else if t.poisoned loc 1024 then r.consumeUE s.cur.1 .ue s.S.pc
      else if natOfBytes (t.readLoc (loc.add 0x3FC) 4) ≠ (crc32c (t.readLoc loc 0x3FC)).toNat then r.fatalContext s.cur.1 0 s.S.pc
      else r.goBack skip

end Sys2Proof.Machine
end

