-- ==== Sys2Proof/Machine/Issue.lean ====
section
/-! DEFINITION. Fetching and checking clauses and instruction words (R48 to R57, R74, R75), the ownership of registers (R62), and the scheduler's sets (R277 to R279). -/

namespace Sys2Proof.Machine

open Sys2Proof

/-! ### Registers that an instruction names (R62) -/

/-- The v registers of a source of n registers. -/
def srcRegs (n : Nat) : Src → List (Nat × Nat)
  | .v r => if n = 0 then [] else [(r.toNat, n)]
  | _ => []

/-- The v registers of a format V destination. -/
def dstRegs (n : Nat) (f : VForm) : List (Nat × Nat) := [(f.d.toNat, n)]

/-- The v registers of a format M data register (R207, R208). -/
def dataRegs (f : MForm) : List (Nat × Nat) := [(f.d.toNat, szRegs f.sz)]

/-- The v registers that an instruction names, first register and count, in the order D, A, B, C (R62, R75). -/
def regsOf : Instr → List (Nat × Nat)
  | .nop _ => []
  | .iadd f => dstRegs 1 f ++ srcRegs 1 f.a ++ srcRegs 1 f.b
  | .isub f => dstRegs 1 f ++ srcRegs 1 f.a ++ srcRegs 1 f.b
  | .imul f => dstRegs 1 f ++ srcRegs 1 f.a ++ srcRegs 1 f.b
  | .imulh f => dstRegs 1 f ++ srcRegs 1 f.a ++ srcRegs 1 f.b
  | .imad f => dstRegs 1 f ++ srcRegs 1 f.a ++ srcRegs 1 f.b ++ srcRegs 1 f.c
  | .imin f => dstRegs 1 f ++ srcRegs 1 f.a ++ srcRegs 1 f.b
  | .imax f => dstRegs 1 f ++ srcRegs 1 f.a ++ srcRegs 1 f.b
  | .iabs f => dstRegs 1 f ++ srcRegs 1 f.a
  | .ineg f => dstRegs 1 f ++ srcRegs 1 f.a
  | .idiv f => dstRegs 1 f ++ srcRegs 1 f.a ++ srcRegs 1 f.b
  | .irem f => dstRegs 1 f ++ srcRegs 1 f.a ++ srcRegs 1 f.b
  | .iaddi f => (f.d.toNat, 1) :: srcRegs 1 f.a
  | .imuli f => (f.d.toNat, 1) :: srcRegs 1 f.a
  | .movi f => [(f.d.toNat, 1)]
  | .lop3 f => dstRegs 1 f ++ srcRegs 1 f.a ++ srcRegs 1 f.b ++ srcRegs 1 f.c
  | .ladd f => dstRegs 2 f ++ srcRegs 2 f.a ++ srcRegs 2 f.b
  | .lsub f => dstRegs 2 f ++ srcRegs 2 f.a ++ srcRegs 2 f.b
  | .lmul f => dstRegs 2 f ++ srcRegs 2 f.a ++ srcRegs 2 f.b
  | .lea f => dstRegs 2 f ++ srcRegs 2 f.a ++ srcRegs 1 f.b ++ srcRegs 1 f.c
  | .and f => dstRegs (if f.d64 then 2 else 1) f ++ srcRegs (if f.d64 then 2 else 1) f.a ++ srcRegs (if f.d64 then 2 else 1) f.b
  | .or f => dstRegs (if f.d64 then 2 else 1) f ++ srcRegs (if f.d64 then 2 else 1) f.a ++ srcRegs (if f.d64 then 2 else 1) f.b
  | .xor f => dstRegs (if f.d64 then 2 else 1) f ++ srcRegs (if f.d64 then 2 else 1) f.a ++ srcRegs (if f.d64 then 2 else 1) f.b
  | .andn f => dstRegs (if f.d64 then 2 else 1) f ++ srcRegs (if f.d64 then 2 else 1) f.a ++ srcRegs (if f.d64 then 2 else 1) f.b
  | .shl f => dstRegs (if f.d64 then 2 else 1) f ++ srcRegs (if f.d64 then 2 else 1) f.a ++ srcRegs 1 f.b
  | .shr f => dstRegs (if f.d64 then 2 else 1) f ++ srcRegs (if f.d64 then 2 else 1) f.a ++ srcRegs 1 f.b
  | .rot f => dstRegs (if f.d64 then 2 else 1) f ++ srcRegs (if f.d64 then 2 else 1) f.a ++ srcRegs 1 f.b
  | .bfe f => dstRegs (if f.d64 then 2 else 1) f ++ srcRegs (if f.d64 then 2 else 1) f.a ++ srcRegs 1 f.b
  | .bfi f => dstRegs (if f.d64 then 2 else 1) f ++ srcRegs (if f.d64 then 2 else 1) f.a ++ srcRegs 1 f.b ++ srcRegs (if f.d64 then 2 else 1) f.c
  | .popc f => dstRegs 1 f ++ srcRegs (if f.d64 then 2 else 1) f.a
  | .clz f => dstRegs 1 f ++ srcRegs (if f.d64 then 2 else 1) f.a
  | .brev f => dstRegs (if f.d64 then 2 else 1) f ++ srcRegs (if f.d64 then 2 else 1) f.a
  | .isetp f => srcRegs (if bitAt f.md 4 then 2 else 1) f.a ++ srcRegs (if bitAt f.md 4 then 2 else 1) f.b
  | .fsetp f => srcRegs 1 f.a ++ srcRegs 1 f.b
  | .plop _ => []
  | .sel f => dstRegs 1 f ++ srcRegs 1 f.a ++ srcRegs 1 f.b
  | .pmov f => if bitAt f.md 0 then srcRegs 1 f.a else dstRegs 1 f
  | .clmul f => dstRegs 1 f ++ srcRegs 1 f.a ++ srcRegs 1 f.b
  | .clmulh f => dstRegs 1 f ++ srcRegs 1 f.a ++ srcRegs 1 f.b
  | .prmt f => dstRegs 1 f ++ srcRegs 1 f.a ++ srcRegs 1 f.b ++ srcRegs 1 f.c
  | .fadd f => dstRegs 1 f ++ srcRegs 1 f.a ++ srcRegs 1 f.b
  | .fsub f => dstRegs 1 f ++ srcRegs 1 f.a ++ srcRegs 1 f.b
  | .fmul f => dstRegs 1 f ++ srcRegs 1 f.a ++ srcRegs 1 f.b
  | .ffma f => dstRegs 1 f ++ srcRegs 1 f.a ++ srcRegs 1 f.b ++ srcRegs 1 f.c
  | .fmin f => dstRegs 1 f ++ srcRegs 1 f.a ++ srcRegs 1 f.b
  | .fmax f => dstRegs 1 f ++ srcRegs 1 f.a ++ srcRegs 1 f.b
  | .fclamp f => dstRegs 1 f ++ srcRegs 1 f.a ++ srcRegs 1 f.b ++ srcRegs 1 f.c
  | .fdiv f => dstRegs 1 f ++ srcRegs 1 f.a ++ srcRegs 1 f.b
  | .fsqrt f => dstRegs 1 f ++ srcRegs 1 f.a
  | .frcp f => dstRegs 1 f ++ srcRegs 1 f.a
  | .frsq f => dstRegs 1 f ++ srcRegs 1 f.a
  | .frnd f => dstRegs 1 f ++ srcRegs 1 f.a
  | .fscale f => dstRegs 1 f ++ srcRegs 1 f.a ++ srcRegs 1 f.b
  | .fexpt f => dstRegs 1 f ++ srcRegs 1 f.a
  | .hadd2 f => dstRegs 1 f ++ srcRegs 1 f.a ++ srcRegs 1 f.b
  | .hmul2 f => dstRegs 1 f ++ srcRegs 1 f.a ++ srcRegs 1 f.b
  | .hfma2 f => dstRegs 1 f ++ srcRegs 1 f.a ++ srcRegs 1 f.b ++ srcRegs 1 f.c
  | .hmin2 f => dstRegs 1 f ++ srcRegs 1 f.a ++ srcRegs 1 f.b
  | .hmax2 f => dstRegs 1 f ++ srcRegs 1 f.a ++ srcRegs 1 f.b
  | .cvt f => dstRegs (if f.cvtDst = 6 ∨ f.cvtDst = 7 then 2 else 1) f ++ srcRegs (if f.cvtSrc = 6 ∨ f.cvtSrc = 7 then 2 else 1) f.a
  | .qpack f => dstRegs 1 f ++ srcRegs 1 f.a ++ srcRegs (if bitAt f.md 7 then 1 else 0) f.b
  | .qunpk f => dstRegs 1 f ++ srcRegs 1 f.a
  | .spl6 f => dstRegs 2 f ++ srcRegs 2 f.a
  | .jn6 f => dstRegs 2 f ++ srcRegs 2 f.a
  | .fexp2 f => dstRegs 1 f ++ srcRegs 1 f.a
  | .flog2 f => dstRegs 1 f ++ srcRegs 1 f.a
  | .fsin f => dstRegs 1 f ++ srcRegs 1 f.a
  | .fcos f => dstRegs 1 f ++ srcRegs 1 f.a
  | .ftanh f => dstRegs 1 f ++ srcRegs 1 f.a
  | .fsigm f => dstRegs 1 f ++ srcRegs 1 f.a
  | .ferf f => dstRegs 1 f ++ srcRegs 1 f.a
  | .ateval f => dstRegs 1 f ++ srcRegs 1 f.a
  | .shfl f => dstRegs 1 f ++ srcRegs 1 f.a ++ srcRegs 1 f.b
  | .redx f => dstRegs 1 f ++ srcRegs 1 f.a
  | .scanx f => dstRegs 1 f ++ srcRegs 1 f.a
  | .ballot f => dstRegs 2 f ++ srcRegs 1 f.a
  | .matchKeys f => dstRegs 2 f ++ srcRegs (if bitAt f.md 0 then 2 else 1) f.a
  | .elect f => srcRegs (if bitAt f.md 0 then 2 else 0) f.a
  | .vote f => srcRegs 1 f.a
  | .rdlane f => srcRegs 1 f.a
  | .wrlane f => dstRegs 1 f
  | .xshuf f => dstRegs 1 f ++ srcRegs 1 f.a
  | .xshto _ _ => []
  | .smov _ => []
  | .smovi _ => []
  | .smovh _ => []
  | .sadd _ => []
  | .ssub _ => []
  | .smul _ => []
  | .sand _ => []
  | .sor _ => []
  | .sxor _ => []
  | .sshl _ => []
  | .sshr _ => []
  | .scmp _ => []
  | .ssel _ => []
  | .srd _ => []
  | .swr _ => []
  | .bra _ => []
  | .jmp _ => []
  | .call _ => []
  | .ret _ => []
  | .mjoin _ => []
  | .join _ => []
  | .exit _ => []
  | .kill _ => []
  | .bar _ => []
  | .yield _ => []
  | .waitc _ => []
  | .idem _ => []
  | .trap _ => []
  | .tretRpl _ => []
  | .tretSkp _ => []
  | .rbsur _ => []
  | .rbclm _ => []
  | .brk _ => []
  | .lds f => dataRegs f ++ srcRegs 1 f.a
  | .sts f => dataRegs f ++ srcRegs 1 f.a
  | .atoms f => dataRegs f ++ srcRegs 1 f.a ++ srcRegs (szRegs f.sz) f.b
  | .ldsx f => dataRegs f ++ srcRegs 1 f.a
  | .stsx f => dataRegs f ++ srcRegs 1 f.a
  | .ld f => dataRegs f ++ srcRegs 2 f.a
  | .st f => dataRegs f ++ srcRegs 2 f.a
  | .atom f => dataRegs f ++ srcRegs 2 f.a ++ srcRegs (szRegs f.sz) f.b
  | .sld _ => []
  | .sst _ => []
  | .fence _ => []
  | .fencel _ => []
  | .fenceh _ => []
  | .opfence _ => []
  | .invl1 f => srcRegs 2 f.a
  | .pref f => srcRegs 2 f.a
  | .dfill f => (match f.a with | .v _ => [(f.d.toNat, 2)] | _ => []) ++ srcRegs 2 f.a
  | .cpy _ => []
  | .tcpy _ => []
  | .chain _ => []
  | .gather _ => []
  | .scatter _ => []
  | .nrset _ => []
  | .nred _ => []
  | .mma f => srcRegs 1 f.a
  | .pmma f => srcRegs 1 f.a
  | .smma f => srcRegs 1 f.a
  | .accld f => srcRegs 1 f.a
  | .accst f => srcRegs 1 f.a
  | .accz _ => []
  | .drain _ => []
  | .lqstart _ => []
  | .lqstop _ => []
  | .atload _ => []
  | .atswap _ => []
  | .msusp _ => []
  | .mres _ => []
  | .tspawn _ => []
  | .wqry _ => []
  | .glaunch _ => []
  | .gwait _ => []
  | .jmpx _ => []
  | .tokacq _ => []
  | .tokrel _ => []
  | .tokqry _ => []
  | .tlbinv _ => []
  | .fqpop _ => []
  | .fqrpl _ => []
  | .migr _ => []
  | .cntrd _ => []
  | .cntclr _ => []
  | .clauseIssue _ _ => []
  | .swapEvent _ => []
  | .watchdogExpiry _ => []
  | .memRequestComplete _ _ _ => []
  | .homeAccess _ _ => []
  | .faultService => []
  | .migrationDone _ => []
  | .groupEnd _ => []
  | .commandDequeue => []
  | .gridAccept _ _ => []
  | .workgroupDispatch _ => []
  | .shadowAbandon _ => []
  | .taskDispatch _ _ _ => []
  | .dispatchPassOverLimit _ => []
  | .driftCreation _ => []
  | .driftArrivalEntry _ => []
  | .driftAdmission _ => []
  | .driftSpill _ => []
  | .overflowRingGrow _ => []
  | .copyOpComplete _ => []
  | .chainEnd _ => []
  | .chainCopy _ => []
  | .chainFill _ => []
  | .chainTile _ => []
  | .chainSignal _ => []
  | .chainWaitge _ => []
  | .chainGather _ => []
  | .chainScatter _ => []
  | .nredAccept _ => []
  | .latheOpStart _ => []
  | .latheOpComplete _ => []
  | .ringCommandFetch _ => []
  | .ringMma _ => []
  | .ringSmma _ => []
  | .ringDrain _ => []
  | .waitcnt _ => []
  | .latheSignal _ => []
  | .latheStop _ => []
  | .wqryAnswer _ => []
  | .preemptDeadline _ => []
  | .hostWaitLimit _ => []
  | .recoveryLimit _ => []
  | .tokenHoldExpiry _ => []
  | .scrubVisit _ _ _ => []
  | .hostMemoryAccess _ => []
  | .controlRegisterWrite _ _ => []
  | .reset => []
  | .patchgoPatch _ => []
  | .patchgoContinue => []
  | .powerOn => []
  | .functionLevelReset => []
  | .powerLoss => []
  | .selfTestDone => []
  | .patchWaitTimeout => []
  | .linkTrainingDone => []
  | .negotiate _ => []
  | .ctxCreate _ => []
  | .ctxDestroy _ => []
  | .map _ => []
  | .unmap _ => []
  | .migrate _ => []
  | .launch _ => []
  | .launchCoop _ => []
  | .preempt _ => []
  | .preemptResume _ => []
  | .resetContext _ => []
  | .queryDevice _ => []
  | .queryTaskQueues _ => []
  | .queryFaultQueue _ => []
  | .queryVersion _ => []
  | .queryPeerState _ => []
  | .setOperatingPoint _ => []
  | .clearFcons _ => []
  | .setWdlim _ => []
  | .setQosDefault _ => []
  | .setPrefetchThreshold _ => []
  | .setHostWaitLimit _ => []
  | .setRecoveryLimit _ => []
  | .setDomainRun _ => []
  | .unpinRegion _ => []
  | .serviceAttach _ => []
  | .scrubCfg _ => []
  | .screenCfg _ => []
  | .linkLockUnlock _ => []
  | .linkLockLock _ => []
  | .linkLockStart _ => []
  | .getVersion _ => []
  | .getCapabilities _ => []
  | .negotiateAlgorithms _ _ => []
  | .getDigests _ => []
  | .getCertificate _ => []
  | .challenge _ => []
  | .getMeasurements _ => []
  | .keyExchange _ => []
  | .finish _ => []
  | .keyUpdate _ => []
  | .endSession _ => []
  | .frameLimitKeyUpdate _ => []
  | .frameTagFail _ => []
  | .flitReceive _ _ => []
  | .linkAckReceive _ _ => []
  | .replayRequest _ _ => []
  | .laneLossOfLock _ => []
  | .retrainComplete _ => []
  | .widthRestore _ => []
  | .idlePortNarrow _ => []
  | .portUp _ => []
  | .linkVersionOffer _ _ => []
  | .readRequest _ => []
  | .writeRequest _ => []
  | .mcwr _ => []
  | .atomicRequest _ => []
  | .rdata _ => []
  | .ack _ => []
  | .tokRequest _ _ => []
  | .tokGrant _ => []
  | .tokRecall _ => []
  | .tokReturn _ => []
  | .tokQueryAnswer _ _ => []
  | .pstate _ _ => []
  | .badpkt _ => []
  | .commandAreaAccess _ => []
  | .romDigestCheckDone _ => []
  | .accumulatorPortComplete _ => []
  | .activationBankLoadDone _ => []
  | .tokenEntryExpiry _ => []

/-- The first register of the list outside the owned blocks, if any (R62, R93). -/
def unowned (nblk : Nat) : List (Nat × Nat) → Option Nat
  | [] => none
  | (r, n) :: rs => if r + n ≤ 16 * nblk then unowned nblk rs else some (max r (16 * nblk))

/-! ### Fetch -/

/-- What a fetch gives. -/
inductive Fetched where
  | ok (base : Loc)
  | fault (c : Cause)
  /-- Parks on a page fault; true for a write-protected page. -/
  | parks
  deriving DecidableEq, Repr

/-- The location of an address to be fetched by a group (R56, R178, R294). -/
def State.fetchLoc (s : State) (g : Group) (va : W64) : State × Fetched :=
  if 2 ^ 60 ≤ va.toNat then (s, .fault .range)
  else
    match s.translate g.core g.ctx va .fetch 0 with
    | (t, .ok loc _) => (t, .ok loc)
    | (t, .unmapped) | (t, .protect) => (t, .parks)
    | (t, .perm) => (t, .fault .perm)

/-- Word in memory at a location. -/
def State.word64 (s : State) (l : Loc) : W64 := BitVec.ofNat 64 (natOfBytes (s.readLoc l 8))

/-- A word of code as it stood when the group's grid was dispatched; as it stands where that is not kept (R57). -/
def State.dispatchedWord (s : State) (g : Group) (l : Loc) : W64 :=
  match (s.wgOf g.wg).code, l with
  | some m, .mem a => BitVec.ofNat 64 (m.num a 8)
  | _, _ => s.word64 l

/-- Whether an entry of an instruction store is the word at an address as a group's grid has fetched it: a word that another grid fetched is not
taken (R57). -/
def Group.holdsWord (g : Group) (va : Nat) (e : Nat × Nat × Nat × Nat × W64) : Bool :=
  e.1 == g.core && e.2.1 == g.ctx && e.2.2.1 == g.grid && e.2.2.2.1 == va

/-- A word of code that a clause's fetch takes: its contents, those of the grid's dispatch, or those that the instruction store holds (R57). -/
def State.codeWord (s : State) (g : Group) (va : W64) (l : Loc) : W64 :=
  let now := s.word64 l
  let was := s.dispatchedWord g l
  let held := ((s.istore.find? (g.holdsWord va.toNat)).map (·.2.2.2.2)).getD was
  if now = was ∧ now = held then now
  else match Config.choose s.tick (3000 + va.toNat) % 3 with | 0 => held | 1 => was | _ => now

/-- The word of an instruction whose clause has been fetched. -/
def State.fetchedWord (s : State) (g : Group) (va : W64) (l : Loc) : W64 :=
  match s.istore.find? (g.holdsWord va.toNat) with
  | some e => e.2.2.2.2
  | none => s.word64 l

/-- Whether a word decodes as a clause header (R50, R53). -/
def headerGood (h : W64) : Bool := fldN h 0 28 == 0 && (bitAt h 29 || fldN h 30 16 == 0)

/-- Whether a clause boundary stands at byte off of a code block, whose words w gives, when decoding goes on from byte a:
every word at which a clause begins on the way there must decode as a header (R49, R56). -/
def boundary (w : Nat → W64) : Nat → Nat → Nat → Bool
  | 0, _, _ => false
  | n + 1, a, off => a == off || (a < off && headerGood (w a) && boundary w n (a + 8 * (fldN (w a) 56 4 + 2)) off)

/-- The engine bit of a header that an opcode needs (R50, R51). -/
def engineSet (h : W64) (op : Nat) : Bool :=
  match engineOf op with
  | none => true
  | some .alu => bitAt h 63
  | some .mem => bitAt h 62
  | some .mtx => bitAt h 61
  | some .ctl => bitAt h 60

/-- Whether the clause at byte off of a code block breaks R56, and so raises ILLCLS. -/
def clauseBad (w : Nat → W64) (off : Nat) : Bool :=
  let h := w off
  let n := fldN h 56 4
  let ops := (List.range (n + 1)).map fun i => fldN (w (off + 8 * (i + 1))) 56 8
  off % 8 ≠ 0 || !boundary w 33 0 off || !headerGood h
    || decide (256 < off + 8 * (n + 2)) || ops.any (fun op => !engineSet h op) || (ops.take n).any isTransfer

/-- The counter of a path by its number (R317). -/
def pathOf (n : Nat) : Path :=
  match n with | 0 => .scr | 1 => .glb | 2 => .rmt | 3 => .cpy | 4 => .mtx | _ => .qry

/-- Whether a header's path waits are met (R52). -/
def pathsMet (g : Group) (h : W64) : Bool :=
  (List.range 6).all fun i => !bitAt h (50 + i) || decide (g.count (pathOf i) ≤ fldN h 46 4)

/-- The segment that a core pins, as address range (R289); none elsewhere. -/
def State.pinned (s : State) (core : Nat) : Option Segment :=
  match SMap.get (0, 0) s.segid core with
  | (0, _) => none
  | (k + 1, gr) => (s.grid? gr).bind fun g => g.segs[k]?

/-- Whether an address lies in a segment. -/
def inSegment (sg : Segment) (va : W64) : Bool := decide (sg.base.toNat ≤ va.toNat) && decide (va.toNat < sg.base.toNat + sg.len)

/-- Whether a drift grid's group would fetch outside its core's segment (R294). -/
def State.outsideSegment (s : State) (g : Group) (va : W64) : Bool :=
  g.drift && match s.pinned g.core with | some sg => !inSegment sg va | none => false

/-- Whether a split has passed a load whose lanes still wait on deferred words. -/
def State.passing (s : State) (w : Owner) : Bool := s.mops.any fun o => o.passing && o.owner == w

/-- Whether an instruction may issue behind such a load: it changes no state before the older one is complete (R326; log 101). -/
def mayFollow : Instr → Bool
  | .ld _ | .sld _ => true
  | _ => false

/-- What issue finds at the pc of a split in mid-clause. -/
inductive Issue where
  /-- The step that the fetch or a check takes instead of the instruction. -/
  | stops (s : State)
  /-- The instruction to execute. -/
  | runs (i : Instr) (s : State)

/-- The checks on the next instruction word of the issuing split, in the order of R75, before its own meaning. -/
def State.issue (s : State) : Issue :=
  let g := s.G
  if s.outsideSegment g s.S.pc then .stops (s.trap .driftf s.S.mask s.S.pc)
  else match s.fetchLoc g s.S.pc with
  | (t, .fault c) => .stops (t.trap c s.S.mask s.S.pc)
  | (t, .parks) =>
    .stops ((t.postFault (clusterOf g.core) g.ctx s.S.pc 3 0 0 g.core g.slot false).setWait s.cur.1 s.cur.2 (.fetch s.S.pc))
  | (t, .ok l) =>
    let w := t.fetchedWord g s.S.pc l
    let u := t.modS fun p => { p with ir := w }
    match decode w with
    | .error _ => .stops (u.trap .illop s.S.mask 0)
    | .ok i =>
      if s.passing (.group s.cur.1 s.cur.2) && !mayFollow i then .stops u.stall
      else match unowned g.nblk (regsOf i) with
      | some r => .stops (u.trap .regown s.S.mask (BitVec.ofNat 64 r))
      | none => .runs i u

/-! ### The scheduler's sets (R277 to R279) -/

/-- The header at a split's pc as memory holds it, for the scheduler. -/
def State.peekHeader (s : State) (g : Group) (p : Split) : W64 :=
  match s.deviceLoc g.ctx p.pc with
  | some (l, _) => s.word64 l
  | none => 0

/-- Whether the instruction at which a split waits at issue lets its group leave the active set: GWAIT, GLAUNCH, TSPAWN, a fence, or WAITC on
GLB, RMT, CPY or QRY (R278, R320). -/
def stallsAside (ir : W64) : Bool :=
  match fldN ir 56 8 with
  | 0x8A => [1, 2, 3, 5].contains (fldN ir 0 3)
  | op => [0xD0, 0xD2, 0xD3, 0xA5, 0xA6, 0xA7, 0xA8].contains op

/-- Whether a split is in a state that lets its group leave the active set (R278): at a clause boundary, or at the last word of its clause (R48). -/
def State.aside (s : State) (g : Group) (p : Split) : Bool :=
  (p.left == 0 && (p.yielded || !p.bars.isEmpty || p.claim.isSome)) ||
  (match p.wait with
    | .join _ | .drift => true
    | .fetch _ => p.left == 0
    | .remote _ since => p.left == 0 && decide ((s.clk - since).toNat < 700000000 * s.recovery)
    | .stall => decide (p.left ≤ 1) && stallsAside p.ir
    | .memop id => decide (p.left ≤ 1) && s.mops.any fun o => o.id == id && o.elems.any fun e =>
        match e.stage with | .pageFault | .writeProtect | .remoteWait => true | _ => false
    | .none => p.left == 0 &&
        (let h := s.peekHeader g p
         [1, 2, 3, 5].any fun i => bitAt h (50 + i) && decide (fldN h 46 4 < g.count (pathOf i)))
    | .xshuf _ _ _ | .trapped => false)

/-- Whether a group leaves the active set now: every live split is aside, or a swap event has named it and every split stands at a clause
boundary (R278, R279). -/
def State.leaves (s : State) (g : Group) : Bool :=
  !g.splits.isEmpty && g.splits.all fun p => s.aside g p || (g.leaving && p.left == 0)

/-- Whether a pending group is ready (R40, R278; log 60): a live split of it is not aside; a yield ends at once. -/
def State.ready (s : State) (g : Group) : Bool := g.splits.any fun p => !s.aside g { p with yielded := false }

/-- The ready pending groups of a core, in the order in which they became ready (R279). -/
def State.readyGroups (s : State) (core : Nat) : List Group :=
  sortOn (fun g => g.readyAt.getD 0) (s.groups.filter fun g => g.core == core && !g.active && g.readyAt.isSome)

/-- A group as the scheduler finds it at the end of a step: it leaves the active set where it may, and a pending one is ready or not (R278, R279). -/
def State.settleGroup (s : State) (g : Group) : Group :=
  if g.active && !s.leaves g then g
  else
    let h := if g.active then { g with active := false, leaving := false, splits := g.splits.map fun p => { p with yielded := false } } else g
    { h with readyAt := if s.ready h then some (h.readyAt.getD (s.tick + 1)) else none }

/-- Groups that may leave do so; free active positions go to ready groups in the order of readiness (R278, R279). -/
def State.reschedule (s : State) : State :=
  let t : State := { s with groups := s.groups.map s.settleGroup }
  let cores := (t.groups.map (·.core)).eraseDups
  cores.foldl (fun u c =>
    let n := (u.groups.filter fun g => g.core == c && g.active).length
    let take := ((u.readyGroups c).take (8 - n)).map (·.gid)
    { u with groups := u.groups.map fun g => if take.contains g.gid then { g with active := true, readyAt := none, order := s.tick + 1 } else g }) t

end Sys2Proof.Machine
end

