-- ==== Sys2Proof/Machine/Operands.lean ====
section
/-! DEFINITION. Every operand form that an instruction reads (R65 to R67, R107) and every form of result that the ALU writes (R62, R63, R108). -/

namespace Sys2Proof.Machine

open Sys2Proof

/-! ### Sources -/

/-- The 32-bit pattern of a constant as lane l reads it (R66). -/
def constBits (k : BitVec 3) (l : Nat) : W32 :=
  match k.toNat with
  | 0 => BitVec.ofNat 32 l
  | 1 => BitVec.ofNat 32 lanes
  | 2 => 0x3F800000
  | 3 => 0x3F000000
  | 4 => 0x40000000
  | 5 => 0xBF800000
  | 6 => 0xFFFFFFFF
  | _ => 0x80000000

/-- A constant as a 64-bit operand (R66). -/
def const64 (k : BitVec 3) (l : Nat) : W64 :=
  if k = 6 then BitVec.allOnes 64 else (constBits k l).setWidth 64

/-- Latch b of lane l: the value written earlier in the clause, else an unspecified one (R43). -/
def State.latch (s : State) (b l : Nat) : W64 :=
  SMap.get (Config.free64 s.tick (64 * b + l)) s.G.latch (256 * s.cur.2 + 64 * b + l)

/-- A 32-bit operand of lane l (R66, R67, R107). -/
def State.src32 (s : State) (x : Src) (l : Nat) : W32 :=
  match x with
  | .v r => s.G.vregOf s.cur.2 r.toNat l
  | .s r => (s.G.sreg s.cur.2 r.toNat).setWidth 32
  | .b r => (s.latch r.toNat l).setWidth 32
  | .imm n => n.signExtend 32
  | .const k => constBits k l

/-- A register pair of lane l: the even register holds bits 31:0 (R67, R107). -/
def Group.vpair (g : Group) (i r l : Nat) : W64 := g.vregOf i (r + 1) l ++ g.vregOf i r l

/-- A 64-bit operand of lane l (R66, R67, R107). -/
def State.src64 (s : State) (x : Src) (l : Nat) : W64 :=
  match x with
  | .v r => s.G.vpair s.cur.2 r.toNat l
  | .s r => s.G.sreg s.cur.2 r.toNat
  | .b r => s.latch r.toNat l
  | .imm n => n.signExtend 64
  | .const k => const64 k l

/-- Number of the lowest active lane of the issuing split (R66, R98). -/
def State.lane0 (s : State) : Nat := lowest s.S.mask

/-- An operand read once for the split (R66, R136). -/
def State.uni (s : State) (x : Src) : W64 := s.src64 x s.lane0

/-- A predicate source in lane l: kind 00 with bits 2:0 (R65). -/
def State.srcP (s : State) (x : Src) (l : Nat) : Bool :=
  match x with
  | .v r => bitAt (s.G.pred r.toNat) l
  | _ => false

/-- An s register named by an operand. -/
def srcS : Src → Nat
  | .s r => r.toNat
  | _ => 0

/-! ### Results -/

/-- The group with a 32-bit result in one lane: register D unless W, and latch BL (R63, R108). -/
def Group.put32 (g : Group) (i d : Nat) (w : Bool) (bl l : Nat) (x : W32) : Group :=
  let g := if w then g else g.setV d l x
  { g with latch := SMap.put g.latch (256 * i + 64 * bl + l) (x.setWidth 64) }

/-- The group with a 64-bit result in one lane: pair D unless W, and the whole latch (R63, R107). -/
def Group.put64 (g : Group) (i d : Nat) (w : Bool) (bl l : Nat) (x : W64) : Group :=
  let g := if w then g else (g.setV d l (fld x 0 32)).setV (d + 1) l (fld x 32 32)
  { g with latch := SMap.put g.latch (256 * i + 64 * bl + l) x }

/-- Whether an operation is of a group and delivers into v registers. -/
def MemOp.fills (o : MemOp) (g : Nat) : Bool := !o.toS && match o.owner with | .group h _ => h == g | _ => false

/-- The element without its delivery into the registers for which a test holds. -/
def Elem.dropWhere (e : Elem) (o : MemOp) (f : Nat → Bool) : Elem :=
  { e with dropRegs := (((List.range 8).map (o.d + e.reg + ·)).filter f ++ e.dropRegs).eraseDups }

/-- A register element that a counted memory operation still delivers holds either value: the delivery is dropped or not (R109). -/
def State.collide (s : State) (d n : Nat) (m : Mask) : State :=
  { s with mops := s.mops.map fun o =>
      if o.fills s.cur.1 then
        { o with elems := o.elems.map fun e =>
            if bitAt m e.lane then
              e.dropWhere o fun r => decide (d ≤ r) && decide (r < d + n) && Config.choose s.tick (10000 + 16384 * o.id + 64 * r + e.lane) % 2 == 1
            else e }
      else o }

/-- What operations in flight deliver into a group's registers from r on is lost: their blocks are surrendered (R94, R157). -/
def State.cutLoads (s : State) (g r : Nat) : State :=
  { s with mops := s.mops.map fun o => if o.fills g then { o with elems := o.elems.map fun e => e.dropWhere o fun x => decide (r ≤ x) } else o
           lathe := s.lathe.map fun o => if o.gid = g then { o with cut := min o.cut r } else o }

/-- A special register as the issuing split's clause sees it, where the group holds x: a sibling's SWR is seen at the next clause (R106). -/
def State.ownSpecial (s : State) (i : Nat) (x : W64) : W64 := SMap.get x s.S.old (32768 + i)

/-- A 32-bit result in every lane of a mask; the operands were read in the state before (R62, R63, R108). -/
def State.write32 (s : State) (d : BitVec 8) (w : Bool) (bl : BitVec 2) (m : Mask) (f : Nat → W32) : State :=
  (if w then s else s.collide d.toNat 1 m).modG fun g =>
    (lanesOf m).foldl (fun g l => g.put32 s.cur.2 d.toNat w bl.toNat l (f l)) g

/-- A 64-bit result in every lane of a mask (R62, R63, R107, R108). -/
def State.write64 (s : State) (d : BitVec 8) (w : Bool) (bl : BitVec 2) (m : Mask) (f : Nat → W64) : State :=
  (if w then s else s.collide d.toNat 2 m).modG fun g =>
    (lanesOf m).foldl (fun g l => g.put64 s.cur.2 d.toNat w bl.toNat l (f l)) g

/-- The values that registers d to d + n - 1 of the lanes of a mask hold stay in view of the siblings' clauses in progress (R143). -/
def State.keepLanes (s : State) (d : BitVec 8) (w : Bool) (n : Nat) (m : Mask) : State :=
  if w then s else s.modG fun g => g.keepV s.cur.2 d.toNat n m

/-- A predicate result in every lane of a mask (R62, R138). -/
def State.writeP (s : State) (d : BitVec 8) (m : Mask) (f : Nat → Bool) : State :=
  s.modG fun g => g.setP d.toNat m (maskOf f)

/-- A 64-bit result in an s register (R62, R145). -/
def State.writeS (s : State) (d : BitVec 8) (x : W64) : State := s.modG fun g => g.setS s.cur.2 d.toNat x

/-- The lanes to which a format V instruction issues (R64). -/
abbrev selV (f : VForm) (s : State) : Mask := s.sel f.p f.pn

/-- A format V instruction that writes one 32-bit result for each selected lane and retires. -/
def vec32 (f : VForm) (s : State) (g : Nat → W32) : Out := go (s.write32 f.d f.w f.bl (selV f s) g).retire

/-- A format V instruction that writes one 64-bit result for each selected lane and retires. -/
def vec64 (f : VForm) (s : State) (g : Nat → W64) : Out := go (s.write64 f.d f.w f.bl (selV f s) g).retire

/-- A format V instruction that writes a predicate in each selected lane and retires. -/
def vecP (f : VForm) (s : State) (g : Nat → Bool) : Out := go (s.writeP f.d (selV f s) g).retire

/-- A format I instruction that writes one 32-bit result for each selected lane and retires (R59, R114). -/
def imm32 (f : IForm) (s : State) (g : Nat → W32) : Out :=
  go (s.write32 f.d f.w f.bl (s.sel f.p false) g).retire

/-- A scalar instruction: it acts once when a lane is selected, writes an s register and retires (R137, R145). -/
def scalar (f : VForm) (s : State) (x : W64) : Out :=
  go (if selV f s = 0 then s else s.writeS f.d x).retire

/-- A 32-bit operand A, B or C of a format V instruction in lane l. -/
abbrev aOf (f : VForm) (s : State) (l : Nat) : W32 := s.src32 f.a l
@[inherit_doc aOf] abbrev bOf (f : VForm) (s : State) (l : Nat) : W32 := s.src32 f.b l
@[inherit_doc aOf] abbrev cOf (f : VForm) (s : State) (l : Nat) : W32 := s.src32 f.c l
/-- A 64-bit operand A, B or C of a format V instruction in lane l. -/
abbrev aOf64 (f : VForm) (s : State) (l : Nat) : W64 := s.src64 f.a l
@[inherit_doc aOf64] abbrev bOf64 (f : VForm) (s : State) (l : Nat) : W64 := s.src64 f.b l
@[inherit_doc aOf64] abbrev cOf64 (f : VForm) (s : State) (l : Nat) : W64 := s.src64 f.c l
/-- Operand A, B or C of a format V instruction, read once for the split. -/
abbrev aUni (f : VForm) (s : State) : W64 := s.uni f.a
@[inherit_doc aUni] abbrev bUni (f : VForm) (s : State) : W64 := s.uni f.b
@[inherit_doc aUni] abbrev cUni (f : VForm) (s : State) : W64 := s.uni f.c

end Sys2Proof.Machine
end

