-- ==== Sys2Proof/Machine/Control.lean ====
section
/-! DEFINITION. Opcodes 0x80 to 0x89, 0x8B to 0x8F and 0xFF: control flow, barriers, regions, traps and register blocks (R147 to R160). -/

namespace Sys2Proof.Machine

open Sys2Proof

/-! ### Branches (R25, R148, R149, R160) -/

/-- The lanes to which a format C instruction issues (R64). -/
abbrev selC (f : CForm) (s : State) : Mask := s.sel f.p f.pn

/-- The target of a format C instruction (R61): OFF32 counts 8 bytes from the instruction's own address. -/
def targetC (f : CForm) (s : State) : W64 := s.S.pc + (f.off.signExtend 64 <<< 3)

/-- The lowest split index that no live split of a group uses (R148). -/
def Group.freeIdx (g : Group) : Nat := ((List.range 4).find? fun i => !(g.splits.any (·.idx == i))).getD 3

/-- Whether a diverging branch creates a split (R25, R148). -/
def State.divides (s : State) (g : Group) (hint : Nat) : Bool :=
  decide (g.splits.length < 4) && !bitAt (s.ownSpecial 0x13 (if g.cons then 1 else 0)) 0 && !bitAt s.fcons g.core && hint != 3 && !g.trapm

/-- Whether the taken path is the preferred one when a branch serialises (R25). -/
def prefersTaken (hint : Nat) (taken active : Mask) : Bool :=
  match hint with
  | 1 => true
  | 3 => bitAt taken (lowest active)
  | _ => false

/-- The existing split keeps the lanes that fall through, a new split takes the others to the target; HINT 1 lets the taken path issue first,
HINT 2 the other (R148). The new split inherits a BAR that the existing one has executed: the spec does not say (log 70). -/
def Group.divide (g : Group) (i : Nat) (taken : Mask) (target : W64) (hint : Nat) : Group :=
  let p := g.split i
  let stay := p.mask &&& ~~~taken
  let new : Split := { p with idx := g.freeIdx, mask := taken, pc := target, sigp := sigpStep p.sigp taken 3
                              after := if hint = 2 then some i else none }
  let g := g.modSplit i fun q => { q with mask := stay, sigp := sigpStep p.sigp stay 4, after := if hint = 1 then some g.freeIdx else none }
  { g with splits := g.splits ++ [new] }

/-- The split runs the preferred path and pushes a deferred entry for the other (R25, R148). -/
def Group.serialise (g : Group) (i : Nat) (taken : Mask) (target : W64) (first : Bool) : Group :=
  let p := g.split i
  let stay := p.mask &&& ~~~taken
  let a := sigpStep p.sigp taken 3
  let b := sigpStep p.sigp stay 4
  if first then
    { g.modSplit i fun q => { q with mask := taken, sigp := a, pc := target } with
      stack := .deferred p.pc stay b i :: g.stack }
  else
    { g.modSplit i fun q => { q with mask := stay, sigp := b } with
      stack := .deferred target taken a i :: g.stack }

/-- The group is still there to go on after a retirement that checked its signature (R53, R339). -/
def State.alive (s : State) : Bool := (s.group? s.cur.1).isSome

/-- A branch by the lanes of a mask to a target, as BRA resolves it (R148); a drift grid's stays in its segment (R294). -/
def State.branch (s : State) (hint : Nat) (taken : Mask) (target : W64) : State :=
  let g := s.G
  let p := s.S
  let stay := p.mask &&& ~~~taken
  if taken = 0 then s.retire.modS fun q => { q with sigp := sigpStep q.sigp q.mask 2 }
  else if s.outsideSegment g target then s.trap .driftf taken target
  else if stay = 0 then (s.jump target).modS fun q => { q with sigp := sigpStep q.sigp q.mask 1 }
  else if s.divides g hint then (s.retire.modG fun x => x.divide s.cur.2 taken target hint).perf g.core 0x0E
  else if 32 ≤ g.stack.length then s.fatalGroup s.cur.1 Cause.stkovf.code p.pc
  else (s.retire.modG fun x => x.serialise s.cur.2 taken target (prefersTaken hint taken p.mask)).perf g.core 0x0F

/-- R148. -/
def execBra (f : CForm) (s : State) : Out := go (s.branch f.hint.toNat (selC f s) (targetC f s))

/-- R149. -/
def execJmp (f : VForm) (s : State) : Out := go (s.branch 0 (selV f s) (aUni f s))

/-- R149. -/
def execRet (f : VForm) (s : State) : Out := go (s.branch 0 (selV f s) (aUni f s))

/-- R149: the link is written once for the whole split, unless no lane is selected (R137). -/
def execCall (f : CForm) (s : State) : Out :=
  let t := if selC f s = 0 ∨ s.outsideSegment s.G (targetC f s) then s else s.writeS f.d (s.S.pc + 8)
  go (t.branch 0 (selC f s) (targetC f s))

/-! ### Joins (R150) -/

/-- R150. Without a selected lane it has no effect (R137). -/
def execMjoin (f : CForm) (s : State) : Out :=
  if selC f s = 0 then go s.retire
  else if 32 ≤ s.G.stack.length then go (s.fatalGroup s.cur.1 Cause.stkovf.code s.S.pc)
  else
    let r : StackEntry := .joinRec (targetC f s) s.S.mask 0 0 [] 0 []
    go (s.modG fun g => { g with stack := r :: g.stack }).retire

/-- Where the innermost join record stands in a stack. -/
def innermostJoin : List StackEntry → Option Nat
  | [] => none
  | .joinRec _ _ _ _ _ _ _ :: _ => some 0
  | .deferred _ _ _ _ :: es => (innermostJoin es).map (· + 1)

/-- An arrival enters a join record, with the accesses in flight of its split; the split waits there when w holds. -/
def StackEntry.arrive (m : Mask) (sigp : W32) (cont : W64) (past : List Nat) (i : Nat) (w : Bool) : StackEntry → StackEntry
  | .joinRec x e q g ws _ ps => .joinRec x e (q ||| m) (g ^^^ sigp) (if w then ws ++ [i] else ws) cont (ps ++ past).eraseDups
  | d => d

/-- The arrival of split i at the innermost join record (R150); before is SIGB before the JOIN entered it. -/
def Group.arrive (g : Group) (i : Nat) (before : W16) : Group :=
  match innermostJoin g.stack with
  | none => g
  | some k =>
    let p := g.split i
    match ownDeferred i k g.stack with
    | some (d, pc, m, sigp) =>
      { g.modSplit i fun q => { q with mask := m, sigp := sigp, sigb := 0xFFFF, pc := pc, left := 0 } with
        stack := (g.stack.modify k (StackEntry.arrive p.mask p.sigp p.pc p.past i false)).eraseIdx d }
    | none =>
      let g := { g.modSplit i fun q => { q with wait := .join before } with
        stack := g.stack.modify k (StackEntry.arrive p.mask p.sigp p.pc p.past i true) }
      match joinDone (k + 1) g.stack with
      | some j => g.mergeAt i j
      | none => g

/-- R150. Without a selected lane it has no effect (R137). -/
def execJoin (f : CForm) (s : State) : Out :=
  if selC f s = 0 then go s.retire
  else go (s.retire.modG fun g => g.arrive s.cur.2 s.S.sigb)

/-! ### Ending lanes (R151, R22) -/

/-- The selected lanes end; the last of the group ends it (R151, R22). -/
def State.endLanes (s : State) (m : Mask) (kill : Bool) : State :=
  s.retire.modG fun g =>
    let h := match g.saved with
      | some o => g.endLanesInTrap s.cur.2 m kill o
      | none => g.endLanes s.cur.2 m kill
    if h.splits.isEmpty then { h with ended := true, lastSplit := some s.S } else h

/-- EXIT and KILL (R151): a strip held when the handler ends the trapping split's last lane is restored first (R262). -/
def State.exitLanes (s : State) (m : Mask) (kill : Bool) : State :=
  if m = 0 then s.retire
  else
    let last := match s.G.saved with
      | some o => o.splits.any fun q => q.idx == o.trapper && (q.mask &&& ~~~m) == 0
      | none => false
    if last && s.G.strip then
      match s.mres with
      | (t, true) => (t.endLanes m kill).enterPending s.cur.1
      | (t, false) => t
    else (s.endLanes m kill).enterPending s.cur.1

/-- R151. A pending copy or Lathe fault is delivered first (R220, R244). -/
def execExit (f : CForm) (s : State) : Out :=
  let due := if selC f s = 0 then none else s.deliverCopy.or s.deliverLathe
  go (due.getD (s.exitLanes (selC f s) false))

/-- R151. -/
def execKill (f : CForm) (s : State) : Out := go (s.exitLanes (selC f s) true)

/-! ### BAR, YIELD, IDEM, TRAP, BRK, TRET (R152 to R156) -/

/-- Whether barrier n of a workgroup completes: every live group has arrived with every live split, and what its release covers is done (R153). -/
def State.barrierDone (s : State) (w n : Nat) : Bool :=
  let gs := s.groups.filter fun g => g.wg == w && !g.ended
  !gs.isEmpty && gs.all fun g => !g.splits.isEmpty && g.splits.all (fun p => (g.barsOf p).contains n) && g.quiet [.scr, .glb]

/-- A barrier of a workgroup completes (R153): every split has arrived at it, one that has since trapped too. -/
def State.passBarrier (s : State) (w n : Nat) : State :=
  { s with groups := s.groups.map fun g => if g.wg = w then g.everySplit fun p => { p with bars := p.bars.filter (· != n) } else g }

/-- Every barrier at which all have arrived completes. -/
def State.barriers (s : State) : State :=
  let at' := (s.groups.map fun g => (g.splits.map g.barsOf).flatten.map fun n => (g.wg, n)).flatten.eraseDups
  at'.foldl (fun t wn => if t.barrierDone wn.1 wn.2 then t.passBarrier wn.1 wn.2 else t) s

/-- R153. Without a selected lane it has no effect (R137). -/
def execBar (f : VForm) (s : State) : Out :=
  if selV f s = 0 then go s.retire
  else go ((s.modS fun p => { p with bars := p.bars.filter (· != fldN f.md 0 4) ++ [fldN f.md 0 4] }).retire).barriers

/-- R152. -/
def execYield (f : CForm) (s : State) : Out :=
  if selC f s = 0 then go s.retire
  else go (s.retire.modS fun p => { p with yielded := true })

/-- R154, R335. -/
def execIdem (f : VForm) (s : State) : Out :=
  if selV f s = 0 then go s.retire
  else if aUni f s = 1 then
    go (s.modG fun g => { g with idempc := s.S.hdrPc, restart := some (s.S.mask, s.S.sigp, g.stack.length), begun := [], carried := [] }).retire
  else if aUni f s = 0 then go (s.modG fun g => { g with idempc := 0 }).retire
  else go (s.trap .illop (selV f s) 0)

/-- R155. -/
def execTrap (f : IForm) (s : State) : Out :=
  if s.sel f.p false = 0 then go s.retire
  else go (s.trap .swtrap (s.sel f.p false) (f.imm.setWidth 64))

/-- R155. -/
def execBrk (f : CForm) (s : State) : Out :=
  if selC f s = 0 then go s.retire
  else go (s.trap .brkpt (selC f s) ((fld f.off 0 16).setWidth 64))

/-- TRET (R156): outside trap mode it raises ILLOP. -/
def tret (f : VForm) (s : State) (skip : Bool) : State :=
  if selV f s = 0 then s.retire
  else if s.G.saved.isNone then s.trap .illop (selV f s) 0
  else s.returnTrap skip

/-- R156. -/
def execTretRpl (f : VForm) (s : State) : Out := go (tret f s false)

/-- R156. -/
def execTretSkp (f : VForm) (s : State) : Out := go (tret f s true)

/-! ### Register blocks (R34, R157, R158) -/

/-- A group without the registers of the blocks from k on, also as siblings' clauses in progress still see them (R94). -/
def Group.cutBlocks (g : Group) (k : Nat) : Group :=
  { g with v := g.v.filter fun e => e.1 < 1024 * k, unfenced := g.unfenced.filter fun e => e.1 < 1024 * k }.everySplit fun p =>
    { p with old := p.old.filter fun e => !(decide (64 + 1024 * k ≤ e.1) && decide (e.1 < 32768)) }

/-- R157. -/
def execRbsur (f : VForm) (s : State) : Out :=
  let k := (aUni f s).toInt
  if selV f s = 0 then go s.retire
  else if k < 1 ∨ 16 < k then go (s.trap .illop (selV f s) 0)
  else if (s.G.nblk : Int) ≤ k then go s.retire
  else
    go ((s.cutLoads s.cur.1 (16 * k.toNat)).modG fun g => { g.cutBlocks k.toNat with nblk := k.toNat, owed := g.owed + (g.nblk - k.toNat) }).retire

/-- Surrendered blocks pass to the pool once the group's SCR, GLB, RMT and MTX counters are zero (R157). -/
def State.settleOwed (s : State) : State :=
  s.groups.foldl (fun t g =>
    if g.owed ≠ 0 ∧ g.quiet [.scr, .glb, .rmt, .mtx] then
      (t.modGroup g.gid fun x => { x with owed := 0 }).modWg g.wg fun w => { w with pool := w.pool + g.owed }
    else t) s

/-- Whether the oldest claim of a workgroup can be granted now (R158): whole, and from the claimer's next clause, which the clause of a handler
entered from a later word of the RBCLM's clause counts as: the spec does not say (log 96). A claim that was within 16
blocks at issue and would exceed them now, after another of its group, is never granted: the spec does not say (log 75). -/
def State.grantable (s : State) (w : Workgroup) : Option (Nat × Nat) :=
  w.claims.head?.bind fun c =>
    if c.2 ≤ w.pool ∧ (s.grp c.1).nblk + c.2 ≤ 16 ∧ ((s.grp c.1).splits.all fun p => p.claim.isNone || p.left == 0)
    then some c else none

/-- Claims are granted in the order of issue (R158). -/
def State.grantClaims (s : State) : State :=
  s.wgs.foldl (fun t w =>
    match t.grantable (t.wgOf w.id) with
    | none => t
    | some (g, c) =>
      (t.modWg w.id fun x => { x with pool := x.pool - c, claims := x.claims.drop 1 }).modGroup g fun x =>
        { x.cutBlocks x.nblk with nblk := x.nblk + c }.everySplit fun p => { p with claim := none }) s

/-- R158. -/
def execRbclm (f : VForm) (s : State) : Out :=
  let c := (aUni f s).toInt
  if selV f s = 0 then go s.retire
  else if c < 0 ∨ 16 < (s.G.nblk : Int) + c then go (s.trap .illop (selV f s) 0)
  else if c = 0 then go s.retire
  else
    let t := s.modWg s.G.wg fun w => { w with claims := w.claims ++ [(s.cur.1, c.toNat)] }
    go (t.modS fun p => { p with claim := some (p.pc, p.left, p.sigb) }).retire

end Sys2Proof.Machine
end

