-- ==== Sys2Proof/Machine/Float.lean ====
section
/-! DEFINITION. Floating-point formats, exact values and the one rounding (R119 to R123, R126, R127, R161 to R164). -/

namespace Sys2Proof.Machine

open Sys2Proof

/-- A floating-point format (R163, R164): fraction bits, exponent of the smallest subnormal, largest finite code, and the codes of infinity and of the canonical NaN where they exist. Codes here are without the sign. -/
structure Fmt where
  /-- Bits without the sign. -/
  mag : Nat
  fb : Nat
  qmin : Int
  top : Nat
  inf : Option Nat
  nan : Option Nat
  deriving DecidableEq, Repr

/-- FP32 (R163). -/
def fp32 : Fmt := ⟨31, 23, -149, 0x7F7FFFFF, some 0x7F800000, some 0x7FC00000⟩
/-- BF16 (R163). -/
def bf16 : Fmt := ⟨15, 7, -133, 0x7F7F, some 0x7F80, some 0x7FC0⟩
/-- FP16 (R163). -/
def fp16 : Fmt := ⟨15, 10, -24, 0x7BFF, some 0x7C00, some 0x7E00⟩
/-- E4M3 (R164). -/
def e4m3 : Fmt := ⟨7, 3, -9, 0x7E, none, some 0x7F⟩
/-- E5M2 (R164). -/
def e5m2 : Fmt := ⟨7, 2, -16, 0x7B, some 0x7C, some 0x7E⟩
/-- E3M2 (R164). -/
def e3m2 : Fmt := ⟨5, 2, -4, 0x1F, none, none⟩
/-- E2M3 (R164). -/
def e2m3 : Fmt := ⟨5, 3, -3, 0x1F, none, none⟩
/-- E2M1 (R164). -/
def e2m1 : Fmt := ⟨3, 1, -1, 0x7, none, none⟩

/-- The value of a code: NaN, an infinity, or (-1)^neg m 2^e. -/
inductive Fp where
  | nan
  | inf (neg : Bool)
  | fin (neg : Bool) (m : Nat) (e : Int)
  deriving DecidableEq, Repr

/-- The value of a code (R163, R164). -/
def Fmt.value (t : Fmt) (code : Nat) : Fp :=
  let neg := code / 2 ^ t.mag % 2 = 1
  let c := code % 2 ^ t.mag
  if t.top < c then (if t.inf = some c then .inf neg else .nan)
  else if c < 2 ^ t.fb then .fin neg c t.qmin
  else .fin neg (2 ^ t.fb + c % 2 ^ t.fb) (t.qmin + (c / 2 ^ t.fb - 1 : Nat))

/-- The rounding directions of MOD bits 2:0 (R68); SRND carries the lane's random number (R127). -/
inductive Rnd where
  | rne | rz | ru | rd
  | srnd (r : Nat)
  deriving DecidableEq, Repr

/-- The rounding of a MOD field, with the random number that code 4 uses (R68). -/
def rndOf (code : Nat) (r : Nat) : Rnd :=
  match code with | 0 => .rne | 1 => .rz | 2 => .ru | 3 => .rd | _ => .srnd r

/-- A nonnegative exact value: m 2^e, or strictly between m 2^e and (m + 1) 2^e where more is set. -/
structure Mag where
  m : Nat
  e : Int
  more : Bool := false
  deriving DecidableEq, Repr

/-- Whether the units are moved one up in magnitude: rem of scale parts are cut off, and more when more is set (R119, R127). -/
def moveUp (rnd : Rnd) (neg odd : Bool) (rem scale : Nat) (more : Bool) : Bool :=
  match rnd with
  | .rne => decide (scale < 2 * rem) || (2 * rem == scale && (more || odd))
  | .rz => false
  | .ru => !neg && (decide (0 < rem) || more)
  | .rd => neg && (decide (0 < rem) || more)
  | .srnd r => decide (r < rem * 2 ^ 32 / scale)

/-- The number of units of 2^q to which a value rounds. A value with more set has its units above 2^q's place. -/
def Mag.units (x : Mag) (q : Int) (rnd : Rnd) (neg : Bool) : Nat :=
  if q ≤ x.e then x.m * 2 ^ (x.e - q).toNat
  else
    let k := (q - x.e).toNat
    let n := x.m / 2 ^ k
    if moveUp rnd neg (n % 2 == 1) (x.m % 2 ^ k) (2 ^ k) x.more then n + 1 else n

/-- The code to which a value rounds with an unbounded exponent, counted beyond the largest finite code where it overflows (R126). -/
def Fmt.roundCode (t : Fmt) (rnd : Rnd) (neg : Bool) (x : Mag) : Nat :=
  if x.m = 0 ∧ ¬x.more then 0
  else
    let q := max t.qmin (x.e + (x.m.log2 : Int) - t.fb)
    (q - t.qmin).toNat * 2 ^ t.fb + x.units q rnd neg

/-- A signed code. -/
def Fmt.signed (t : Fmt) (neg : Bool) (c : Nat) : Nat := (if neg then 2 ^ t.mag else 0) + c

/-- The canonical NaN, +0 where the format has none (R126). -/
def Fmt.nanCode (t : Fmt) : Nat := t.nan.getD 0

/-- An infinity, or the largest finite value where the format has none. -/
def Fmt.infCode (t : Fmt) (neg : Bool) : Nat := t.signed neg (t.inf.getD t.top)

/-- Overflow of IEEE 754-2019 for the direction; SRND gives the largest finite value (R126). -/
def Fmt.overflow (t : Fmt) (rnd : Rnd) (neg : Bool) : Nat :=
  match rnd with
  | .rne => t.infCode neg
  | .rz | .srnd _ => t.signed neg t.top
  | .ru => if neg then t.signed neg t.top else t.infCode neg
  | .rd => if neg then t.infCode neg else t.signed neg t.top

/-- An exact value rounded once in an IEEE format (R119). -/
def Fmt.round (t : Fmt) (rnd : Rnd) (neg : Bool) (x : Mag) : Nat :=
  let c := t.roundCode rnd neg x
  if t.top < c then t.overflow rnd neg else t.signed neg c

/-! ### Exact arithmetic -/

/-- A signed integer times a power of two, as an exact value. -/
def magOf (i : Int) (e : Int) : Mag := ⟨i.natAbs, e, false⟩

/-- The sum of two finite values: integer and exponent. -/
def addExact (na : Bool) (ma : Nat) (ea : Int) (nb : Bool) (mb : Nat) (eb : Int) : Int × Int :=
  let e := min ea eb
  let sa : Int := (ma * 2 ^ (ea - e).toNat : Nat)
  let sb : Int := (mb * 2 ^ (eb - e).toNat : Nat)
  ((if na then -sa else sa) + (if nb then -sb else sb), e)

/-- A rounded sum (R119): an exact zero of opposite signs is +0, and -0 under RD. -/
def Fmt.add (t : Fmt) (rnd : Rnd) (a b : Fp) : Nat :=
  match a, b with
  | .nan, _ | _, .nan => t.nanCode
  | .inf na, .inf nb => if na = nb then t.infCode na else t.nanCode
  | .inf na, _ => t.infCode na
  | _, .inf nb => t.infCode nb
  | .fin na ma ea, .fin nb mb eb =>
    let (i, e) := addExact na ma ea nb mb eb
    if i = 0 then
      if na = nb then t.signed na 0 else t.signed (decide (rnd = .rd)) 0
    else t.round rnd (decide (i < 0)) (magOf i e)

/-- An exact product. -/
def mulFp (a b : Fp) : Fp :=
  match a, b with
  | .nan, _ | _, .nan => .nan
  | .inf na, .inf nb => .inf (na != nb)
  | .inf na, .fin nb mb _ => if mb = 0 then .nan else .inf (na != nb)
  | .fin na ma _, .inf nb => if ma = 0 then .nan else .inf (na != nb)
  | .fin na ma ea, .fin nb mb eb => .fin (na != nb) (ma * mb) (ea + eb)

/-- A value rounded once. -/
def Fmt.ofFp (t : Fmt) (rnd : Rnd) (x : Fp) : Nat :=
  match x with
  | .nan => t.nanCode
  | .inf n => t.infCode n
  | .fin n m e => t.round rnd n ⟨m, e, false⟩

/-- A rounded product (R119). -/
def Fmt.mul (t : Fmt) (rnd : Rnd) (a b : Fp) : Nat := t.ofFp rnd (mulFp a b)

/-- A fused multiply-add with one rounding (R120). -/
def Fmt.fma (t : Fmt) (rnd : Rnd) (a b c : Fp) : Nat := t.add rnd (mulFp a b) c

/-- The value with the sign changed. -/
def Fp.neg : Fp → Fp
  | .nan => .nan
  | .inf n => .inf !n
  | .fin n m e => .fin (!n) m e

/-- A rounded quotient (R120). -/
def Fmt.div (t : Fmt) (rnd : Rnd) (a b : Fp) : Nat :=
  match a, b with
  | .nan, _ | _, .nan => t.nanCode
  | .inf _, .inf _ => t.nanCode
  | .inf na, .fin nb _ _ => t.infCode (na != nb)
  | .fin na _ _, .inf nb => t.signed (na != nb) 0
  | .fin na ma ea, .fin nb mb eb =>
    if mb = 0 then (if ma = 0 then t.nanCode else t.infCode (na != nb))
    else t.round rnd (na != nb) ⟨ma * 2 ^ 64 / mb, ea - eb - 64, decide (ma * 2 ^ 64 % mb ≠ 0)⟩

/-- The integer square root, one bit of the result a step. -/
def isqrtStep (x : Nat) : Nat → Nat → Nat
  | 0, r => r
  | n + 1, r => isqrtStep x n (if (r + 2 ^ n) * (r + 2 ^ n) ≤ x then r + 2 ^ n else r)

/-- The integer square root. -/
def isqrt (x : Nat) : Nat := isqrtStep x (x.log2 / 2 + 1) 0

/-- A rounded square root: of -0 it is -0, of another negative number NaN (R120, R122). -/
def Fmt.sqrt (t : Fmt) (rnd : Rnd) (a : Fp) : Nat :=
  match a with
  | .nan => t.nanCode
  | .inf n => if n then t.nanCode else t.infCode false
  | .fin n m e =>
    if m = 0 then t.signed n 0
    else if n then t.nanCode
    else
      let k : Nat := if e % 2 = 0 then 64 else 65
      let x := m * 2 ^ k
      let r := isqrt x
      t.round rnd false ⟨r, (e - k) / 2, decide (r * r ≠ x)⟩

/-- A reciprocal square root, rounded once to nearest even (R122). -/
def Fmt.rsqrt (t : Fmt) (a : Fp) : Nat :=
  match a with
  | .nan => t.nanCode
  | .inf n => if n then t.nanCode else 0
  | .fin n m e =>
    if m = 0 then t.infCode n
    else if n then t.nanCode
    else
      let (m', e') := if e % 2 = 0 then (m, e) else (2 * m, e - 1)
      let x := 2 ^ 160 / m'
      let r := isqrt x
      t.round .rne false ⟨r, -80 - e' / 2, decide (r * r * m' ≠ 2 ^ 160)⟩

/-- Whether the first value lies below the second; -0 is ordered below +0 where strict zeros count (R121). -/
def Fp.lt (zeros : Bool) (a b : Fp) : Bool :=
  match a, b with
  | .nan, _ | _, .nan => false
  | .inf na, .inf nb => na && !nb
  | .inf na, _ => na
  | _, .inf nb => !nb
  | .fin na ma ea, .fin nb mb eb =>
    if ma = 0 ∧ mb = 0 then zeros && na && !nb
    else decide ((addExact na ma ea (!nb) mb eb).1 < 0)

/-- minimumNumber on codes (R121). -/
def Fmt.minNum (t : Fmt) (a b : Nat) : Nat :=
  match t.value a, t.value b with
  | .nan, .nan => t.nanCode
  | .nan, _ => b
  | _, .nan => a
  | x, y => if Fp.lt true y x then b else a

/-- maximumNumber on codes (R121). -/
def Fmt.maxNum (t : Fmt) (a b : Nat) : Nat :=
  match t.value a, t.value b with
  | .nan, .nan => t.nanCode
  | .nan, _ => b
  | _, .nan => a
  | x, y => if Fp.lt true x y then b else a

/-- SatUnit (R119): NaN, values below +0 and -0 give +0, values above 1.0 give 1.0. -/
def Fmt.satUnit (t : Fmt) (one : Nat) (c : Nat) : Nat :=
  match t.value c with
  | .nan => 0
  | x => if Fp.lt true x (.fin false 0 0) then 0 else if Fp.lt true (t.value one) x then one else c

/-- Mod of R119 on a code: absolute first, then negate, on the sign bit alone. -/
def Fmt.modify (t : Fmt) (neg abs : Bool) (c : Nat) : Nat :=
  let m := c % 2 ^ t.mag
  let s := !abs && decide (c / 2 ^ t.mag % 2 = 1)
  t.signed (s != neg) m

/-- A canonical result (R119): every NaN is the canonical one. -/
def Fmt.canon (t : Fmt) (c : Nat) : Nat :=
  match t.value c with | .nan => t.nanCode | _ => c

/-- The integral value in the direction (FRND, R123): zeros, infinities and integers unchanged, the sign of a zero kept. -/
def Fmt.integral (t : Fmt) (rnd : Rnd) (c : Nat) : Nat :=
  match t.value c with
  | .nan => t.nanCode
  | .inf n => t.infCode n
  | .fin n m e => t.round .rne n ⟨Mag.units ⟨m, e, false⟩ 0 rnd n, 0, false⟩

/-- a 2^n rounded once (FSCALE, R123). A power far outside every format is cut to one that gives the same result. -/
def Fmt.scale (t : Fmt) (rnd : Rnd) (a : Fp) (n : Int) : Nat :=
  match a with
  | .fin s m e => t.round rnd s ⟨m, e + max (-1000) (min 1000 n), false⟩
  | x => t.ofFp rnd x

/-- The exponent of a nonzero finite magnitude: 2^e ≤ x < 2^(e+1) (R123). -/
def exptOf (m : Nat) (e : Int) : Int := e + (m.log2 : Int)

/-- FEXPT (R123). -/
def fexpt (a : Fp) : W32 :=
  match a with
  | .nan | .inf _ => 0x7FFFFFFF
  | .fin _ m e => if m = 0 then 0x80000000 else BitVec.ofInt 32 (exptOf m e)

/-- A float compared under a condition of FSETP (R138). -/
def cmpFloat (cond : Nat) (a b : Fp) : Bool :=
  let un := match a, b with | .nan, _ | _, .nan => true | _, _ => false
  let lt := Fp.lt false a b
  let gt := Fp.lt false b a
  let rel (c : Nat) : Bool :=
    match c with
    | 0 => !lt && !gt
    | 1 => lt || gt
    | 2 => lt
    | 3 => !gt
    | 4 => gt
    | _ => !lt
  match cond with
  | 6 => !un
  | 7 => un
  | c => if c < 6 then !un && rel c else un || rel (c - 8)

/-- A float value rounded to an integer in the direction, then saturated; NaN gives 0 (R126). -/
def toInt (rnd : Rnd) (lo hi : Int) (a : Fp) : Int :=
  match a with
  | .nan => 0
  | .inf n => if n then lo else hi
  | .fin n m e =>
    let u : Int := (Mag.units ⟨m, min e 200, false⟩ 0 rnd n : Nat)
    max lo (min hi (if n then -u else u))

end Sys2Proof.Machine
end

