-- ==== Sys2Proof/Machine/FloatOps.lean ====
section
/-! DEFINITION. Opcodes 0x30 to 0x3D and 0x40 to 0x44: FP32 and packed 16-bit arithmetic (R119 to R124). -/

namespace Sys2Proof.Machine

open Sys2Proof

/-- An integer immediate as a code of a format (R66). -/
def immCode (t : Fmt) (n : BitVec 7) : Nat := t.round .rne (decide (n.toInt < 0)) (magOf n.toInt 0)

/-- An FP32 operand of lane l: an immediate becomes its exact value, a constant its bit pattern (R66). -/
def State.srcF (s : State) (x : Src) (l : Nat) : Nat :=
  match x with
  | .imm n => immCode fp32 n
  | x => (s.src32 x l).toNat

/-- Operand A, B or C after the MOD modifiers (R119). -/
def fA (f : VForm) (s : State) (l : Nat) : Nat := fp32.modify (bitAt f.md 3) (bitAt f.md 4) (s.srcF f.a l)
@[inherit_doc fA] def fB (f : VForm) (s : State) (l : Nat) : Nat := fp32.modify (bitAt f.md 5) (bitAt f.md 6) (s.srcF f.b l)
@[inherit_doc fA] def fC (f : VForm) (s : State) (l : Nat) : Nat := fp32.modify (bitAt f.md 7) false (s.srcF f.c l)

/-- The rounding direction of MOD bits 2:0 (R68). -/
abbrev fRnd (f : VForm) : Rnd := rndOf (fldN f.md 0 3) 0

/-- FP32 +1.0. -/
abbrev one32 : Nat := 0x3F800000

/-- The end of R119: canonical NaN, then SAT. -/
def finish32 (f : VForm) (c : Nat) : W32 :=
  let c := fp32.canon c
  BitVec.ofNat 32 (if bitAt f.md 8 then fp32.satUnit one32 c else c)

/-- An FP32 instruction of one rounded result for each lane (R119). -/
def vecF (f : VForm) (s : State) (g : Nat → Nat) : Out := vec32 f s fun l => finish32 f (g l)

/-- R120. -/
def execFadd (f : VForm) (s : State) : Out :=
  vecF f s fun l => fp32.add (fRnd f) (fp32.value (fA f s l)) (fp32.value (fB f s l))

/-- R120. -/
def execFsub (f : VForm) (s : State) : Out :=
  vecF f s fun l => fp32.add (fRnd f) (fp32.value (fA f s l)) (fp32.value (fB f s l)).neg

/-- R120. -/
def execFmul (f : VForm) (s : State) : Out :=
  vecF f s fun l => fp32.mul (fRnd f) (fp32.value (fA f s l)) (fp32.value (fB f s l))

/-- R120. -/
def execFfma (f : VForm) (s : State) : Out :=
  vecF f s fun l => fp32.fma (fRnd f) (fp32.value (fA f s l)) (fp32.value (fB f s l)) (fp32.value (fC f s l))

/-- R121. -/
def execFmin (f : VForm) (s : State) : Out := vecF f s fun l => fp32.minNum (fA f s l) (fB f s l)

/-- R121. -/
def execFmax (f : VForm) (s : State) : Out := vecF f s fun l => fp32.maxNum (fA f s l) (fB f s l)

/-- R120, R121: the maximum before the minimum. -/
def execFclamp (f : VForm) (s : State) : Out :=
  vecF f s fun l => fp32.minNum (fp32.maxNum (fA f s l) (fB f s l)) (fC f s l)

/-- R120. -/
def execFdiv (f : VForm) (s : State) : Out :=
  vecF f s fun l => fp32.div (fRnd f) (fp32.value (fA f s l)) (fp32.value (fB f s l))

/-- R120, R122. -/
def execFsqrt (f : VForm) (s : State) : Out := vecF f s fun l => fp32.sqrt (fRnd f) (fp32.value (fA f s l))

/-- R122. -/
def execFrcp (f : VForm) (s : State) : Out :=
  vecF f s fun l => fp32.div .rne (.fin false 1 0) (fp32.value (fA f s l))

/-- R122. -/
def execFrsq (f : VForm) (s : State) : Out := vecF f s fun l => fp32.rsqrt (fp32.value (fA f s l))

/-- R123. -/
def execFrnd (f : VForm) (s : State) : Out := vecF f s fun l => fp32.integral (fRnd f) (fA f s l)

/-- R123: B is a signed 32-bit integer operand, whose modifiers have no effect (R111). -/
def execFscale (f : VForm) (s : State) : Out :=
  vecF f s fun l => fp32.scale (fRnd f) (fp32.value (fA f s l)) (bOf f s l).toInt

/-- R123: SAT and the rounding code have no effect on an integer result (R111). -/
def execFexpt (f : VForm) (s : State) : Out := vec32 f s fun l => fexpt (fp32.value (fA f s l))

/-! ### Packed halves (R124) -/

/-- The half format that MOD bit 9 selects. -/
abbrev halfFmt (f : VForm) : Fmt := if bitAt f.md 9 then bf16 else fp16

/-- +1.0 of the half format. -/
abbrev halfOne (f : VForm) : Nat := if bitAt f.md 9 then 0x3F80 else 0x3C00

/-- One half of a packed operand (R66, R124). -/
def State.srcH (s : State) (f : VForm) (x : Src) (hi : Bool) (l : Nat) : Nat :=
  match x with
  | .imm n => immCode (halfFmt f) n
  | x => fldN (s.src32 x l) (if hi then 16 else 0) 16

/-- Operand A, B or C of one half after the MOD modifiers. -/
def hA (f : VForm) (s : State) (hi : Bool) (l : Nat) : Nat :=
  (halfFmt f).modify (bitAt f.md 3) (bitAt f.md 4) (s.srcH f f.a hi l)
@[inherit_doc hA] def hB (f : VForm) (s : State) (hi : Bool) (l : Nat) : Nat :=
  (halfFmt f).modify (bitAt f.md 5) (bitAt f.md 6) (s.srcH f f.b hi l)
@[inherit_doc hA] def hC (f : VForm) (s : State) (hi : Bool) (l : Nat) : Nat :=
  (halfFmt f).modify (bitAt f.md 7) false (s.srcH f f.c hi l)

/-- The end of R119 in one half. -/
def finishH (f : VForm) (c : Nat) : W16 :=
  let c := (halfFmt f).canon c
  BitVec.ofNat 16 (if bitAt f.md 8 then (halfFmt f).satUnit (halfOne f) c else c)

/-- A packed instruction: one result for each half of each lane. -/
def vecH (f : VForm) (s : State) (g : Bool → Nat → Nat) : Out :=
  vec32 f s fun l => finishH f (g true l) ++ finishH f (g false l)

/-- R124. -/
def execHadd2 (f : VForm) (s : State) : Out :=
  vecH f s fun h l => (halfFmt f).add (fRnd f) ((halfFmt f).value (hA f s h l)) ((halfFmt f).value (hB f s h l))

/-- R124. -/
def execHmul2 (f : VForm) (s : State) : Out :=
  vecH f s fun h l => (halfFmt f).mul (fRnd f) ((halfFmt f).value (hA f s h l)) ((halfFmt f).value (hB f s h l))

/-- R124. -/
def execHfma2 (f : VForm) (s : State) : Out :=
  vecH f s fun h l => (halfFmt f).fma (fRnd f) ((halfFmt f).value (hA f s h l)) ((halfFmt f).value (hB f s h l))
    ((halfFmt f).value (hC f s h l))

/-- R124, R121. -/
def execHmin2 (f : VForm) (s : State) : Out := vecH f s fun h l => (halfFmt f).minNum (hA f s h l) (hB f s h l)

/-- R124, R121. -/
def execHmax2 (f : VForm) (s : State) : Out := vecH f s fun h l => (halfFmt f).maxNum (hA f s h l) (hB f s h l)

end Sys2Proof.Machine
end

