-- ==== Sys2Proof/Machine/Formats.lean ====
section
/-! DEFINITION. Element formats, block scales, quantisation and the layout of blocks (R125 to R131, R161 to R170, R173, R174). -/

namespace Sys2Proof.Machine

open Sys2Proof

/-- An element format of R161. -/
inductive Elt where
  /-- A floating-point format, with its width. -/
  | float (t : Fmt) (w : Nat)
  /-- KBw, or MXINT8: a w-bit two's-complement mantissa of which one unit weighs 2^u (R166, R167). -/
  | int (w : Nat) (u : Int)
  deriving DecidableEq, Repr

/-- The format of a code (R161). -/
def eltOf (code : Nat) : Elt :=
  match code with
  | 0 => .float e4m3 8
  | 1 => .float e5m2 8
  | 2 => .float e3m2 6
  | 3 => .float e2m3 6
  | 4 => .float e2m1 4
  | 5 => .float bf16 16
  | 6 => .float fp16 16
  | 7 => .int 8 (-6)
  | 15 => .float fp32 32
  | c => .int (16 - c) (1 - (16 - c : Nat))

/-- The element width of a code (R161). -/
def eltWidth (code : Nat) : Nat := match eltOf code with | .float _ w => w | .int w _ => w

/-- Emax of a code (R161). -/
def emax (code : Nat) : Int :=
  match code with
  | 0 => 8 | 1 => 15 | 2 => 4 | 3 => 2 | 4 => 2 | 5 => 127 | 6 => 15 | 7 => 0 | 15 => 127 | _ => -1

/-- Whether a code's blocks carry a scale byte (R161, R162). -/
def scaled (code : Nat) : Bool := code ≠ 5 && code ≠ 6 && code ≠ 15

/-- The block length of a length code (R162). -/
def blockLen (code : Nat) : Nat := 16 * (code + 1)

/-- The value of an element, without its scale (R164 to R167). -/
def eltValue (code : Nat) (q : Nat) : Fp :=
  match eltOf code with
  | .float t _ => t.value q
  | .int w u =>
    let m : Int := if 2 ^ (w - 1) ≤ q % 2 ^ w then (q % 2 ^ w : Nat) - 2 ^ w else (q % 2 ^ w : Nat)
    .fin (decide (m < 0)) m.natAbs u

/-- A finite value rounded to an element, saturating; under NSAT the two overflows of R129. A zero keeps its sign in the floating-point
formats, which R128 and R129 leave open (log 73). -/
def quantFin (code : Nat) (rnd : Rnd) (nsat : Bool) (neg : Bool) (m : Nat) (e : Int) : Nat :=
  match eltOf code with
  | .float t _ =>
    let c := t.roundCode rnd neg ⟨m, e, false⟩
    if t.top < c then
      if nsat ∧ code = 0 then 0x7F
      else if nsat ∧ code = 1 then t.signed neg 0x7C
      else t.signed neg t.top
    else t.signed neg c
  | .int w u =>
    let n : Int := (Mag.units ⟨m, e, false⟩ u rnd neg : Nat)
    let i := max (-(2 ^ (w - 1) : Int)) (min (2 ^ (w - 1) - 1) (if neg then -n else n))
    (BitVec.ofInt w i).toNat

/-- Whether a finite value lies above the largest element or below the most negative one, and so saturates, however it would round (R129, R250; log 67). -/
def saturates (code : Nat) (neg : Bool) (m : Nat) (e : Int) : Bool :=
  let most : Fp := match eltOf code with
    | .float t _ => t.value t.top
    | .int w u => .fin false (if neg then 2 ^ (w - 1) else 2 ^ (w - 1) - 1) u
  Fp.lt false most (.fin false m e)

/-- Quant (R129): of a value times 2^k. Which largest element minus infinity saturates to in KB and MXINT8 is not said: the most negative
one (log 74). -/
def quant (code : Nat) (rnd : Rnd) (nsat : Bool) (x : Fp) (k : Int) : Nat :=
  match x with
  | .nan => match code with | 0 => 0x7F | 1 => 0x7E | _ => 0
  | .inf n =>
    match eltOf code with
    | .float t _ =>
      if code = 0 then 0x7F
      else if code = 1 then t.signed n 0x7C
      else t.signed n t.top
    | .int w _ => (BitVec.ofInt w (if n then -(2 ^ (w - 1) : Int) else 2 ^ (w - 1) - 1)).toNat
  | .fin n m e => quantFin code rnd nsat n m (e + k)

/-- The larger magnitude of two finite values. -/
def magMax (a b : Nat × Int) : Nat × Int :=
  if Fp.lt false (.fin false a.1 a.2) (.fin false b.1 b.2) then b else a

/-- The largest magnitude of finite values; none where one is NaN or infinite. -/
def amaxOf : List Fp → Option (Nat × Int)
  | [] => some (0, 0)
  | x :: xs =>
    match x, amaxOf xs with
    | .fin _ m e, some r => some (magMax r (m, e))
    | _, _ => none

/-- The scale byte of a block, and whether it was clamped to code 0 (R128, R174). -/
def blockScale (code : Nat) (xs : List Fp) : Nat × Bool :=
  match amaxOf xs with
  | none => (0xFF, false)
  | some (m, e) =>
    if m = 0 then (0, false)
    else
      let sc := exptOf m e - emax code + 127
      if sc < 0 then (0, true) else (min sc.toNat 254, false)

/-- A dequantised element (R130): code, scale byte and element. -/
def dequant (code : Nat) (sc q : Nat) : Nat :=
  if sc = 0xFF then fp32.nanCode
  else match eltValue code q with
    | .fin n m e => fp32.round .rne n ⟨m, e + ((sc : Int) - 127), false⟩
    | x => fp32.ofFp .rne x

/-! ### Conversion (R125, R126) -/

/-- Width and signedness of an integer type code (R69). -/
def intType (c : Nat) : Option (Nat × Bool) :=
  if c < 8 then some (8 * 2 ^ (c / 2), c % 2 == 0) else none

/-- The format code (R161) of a narrow floating type code of R69. -/
def floatType (c : Nat) : Fmt × Nat :=
  match c with
  | 8 => (fp32, 32) | 9 => (fp16, 16) | 0xA => (bf16, 16) | 0xB => (e4m3, 8) | 0xC => (e5m2, 8)
  | 0xD => (e3m2, 6) | 0xE => (e2m3, 6) | _ => (e2m1, 4)

/-- An exact value of a source pattern (R125). -/
def cvtSource (c : Nat) (x : W64) : Fp :=
  match intType c with
  | some (w, sg) =>
    let n := x.toNat % 2 ^ w
    let i : Int := if sg ∧ 2 ^ (w - 1) ≤ n then (n : Int) - 2 ^ w else n
    .fin (decide (i < 0)) i.natAbs 0
  | none => let (t, w) := floatType c; t.value (x.toNat % 2 ^ w)

/-- The range of an integer type. -/
def intRange (w : Nat) (sg : Bool) : Int × Int := if sg then (-(2 ^ (w - 1)), 2 ^ (w - 1) - 1) else (0, 2 ^ w - 1)

/-- A floating result of CVT, with the second table of R126. -/
def cvtFloat (t : Fmt) (c : Nat) (rnd : Rnd) (x : Fp) : Nat :=
  match x with
  | .nan => t.nanCode
  | .inf n => if c = 0xB then 0x7F else t.infCode n
  | .fin n m e =>
    let k := t.roundCode rnd n ⟨m, e, false⟩
    if t.top < k then (if c = 8 ∨ c = 9 ∨ c = 0xA then t.overflow rnd n else t.signed n t.top) else t.signed n k

/-- The result pattern of CVT as it lies in the lane (R125, R126). -/
def cvt (dst src : Nat) (rnd : Rnd) (x : W64) : W64 :=
  match intType dst with
  | some (w, sg) =>
    let (lo, hi) := intRange w sg
    let i := toInt rnd lo hi (cvtSource src x)
    if w = 64 then BitVec.ofInt 64 i else (BitVec.ofInt 32 i).setWidth 64
  | none => BitVec.ofNat 64 (cvtFloat (floatType dst).1 dst rnd (cvtSource src x))

/-! ### The random numbers of SRND (R127) -/

/-- The step of SR_SEED (R127). -/
def seedStep (x : W64) : W64 :=
  let a := x ^^^ (x <<< 13)
  let b := a ^^^ (a >>> 7)
  b ^^^ (b <<< 17)

/-- The random number of lane l under an advanced seed (R127). -/
def laneRandom (seed : W64) (l : Nat) : Nat := fldN ((seed + BitVec.ofNat 64 l) * 0x9E3779B97F4A7C15) 32 32

/-! ### Blocks in memory (R168, R169) -/

/-- The widths of the planes of a width, widest first, with the position of each plane's bits in the element (R169). -/
def planes (w : Nat) : List (Nat × Nat) :=
  match w with
  | 7 => [(4, 0), (2, 4), (1, 6)]
  | 6 => [(4, 0), (2, 4)]
  | 5 => [(4, 0), (1, 4)]
  | 3 => [(2, 0), (1, 2)]
  | w => [(w, 0)]

/-- Bit positions of the plane's part of element i in a block of n elements that starts at bit base. -/
def planeBit (base pw i : Nat) : Nat := base + i * pw

/-- Element i of a block of n elements of width w, given as the little-endian number of its bytes (R168, R169). -/
def blockElt (w n i : Nat) (block : Nat) : Nat :=
  ((planes w).foldl (fun (acc : Nat × Nat) p =>
    let part := block / 2 ^ planeBit acc.1 p.1 i % 2 ^ p.1
    (acc.1 + n * p.1, acc.2 + part * 2 ^ p.2)) (0, 0)).2

/-- The number that the elements of a block form (R168, R169). -/
def packBlock (w : Nat) (elts : List Nat) : Nat :=
  let n := elts.length
  ((planes w).foldl (fun (acc : Nat × Nat) p =>
    let part := (elts.zipIdx.map fun (q, i) => q / 2 ^ p.2 % 2 ^ p.1 * 2 ^ planeBit acc.1 p.1 i).foldl (· + ·) 0
    (acc.1 + n * p.1, acc.2 + part)) (0, 0)).2

/-- The bytes of a number. -/
def bytesOfNat (n v : Nat) : List Byte := bytesOf n (BitVec.ofNat (8 * n) v)

end Sys2Proof.Machine
end

