-- ==== Sys2Proof/Machine/Convert.lean ====
section
/-! DEFINITION. Opcodes 0x45 to 0x49 and 0x57: conversion, block quantisation, FP6 planes and activation tables (R125 to R131, R133, R251). -/

namespace Sys2Proof.Machine

open Sys2Proof

/-- The seed with which an instruction of this rounding code draws: advanced when the code is SRND (R127). -/
def seedFor (code : Nat) (seed : W64) : W64 := if code = 4 then seedStep seed else seed

/-- SR_SEED after an instruction of this rounding code: advanced once when it issues to a lane (R127). In a clause that does not yet see a
sibling's SWR of SR_SEED (R106), what the draw leaves there is a free choice of the two values (log 93). -/
def State.advanceSeed (s : State) (code : Nat) (m : Mask) : State :=
  if code = 4 ∧ m ≠ 0 then
    let x := seedStep (s.ownSpecial 0x16 s.G.seed)
    if s.S.old.any (·.1 == 32768 + 0x16) then
      (s.modS fun p => { p with old := p.old.put (32768 + 0x16) x }).modG fun g =>
        { g with seed := if Config.choose s.tick 8950 % 2 = 0 then x else g.seed }
    else s.modG fun g => { g with seed := x }
  else s

/-- The rounding of lane l of CVT and QPACK (R68, R127). -/
def laneRnd (f : VForm) (s : State) (l : Nat) : Rnd :=
  let code := fldN f.md 0 3
  rndOf code (laneRandom (seedFor code (s.ownSpecial 0x16 s.G.seed)) l)

/-- The source pattern of CVT: a pair only for a 64-bit source type (R125). -/
def cvtIn (f : VForm) (s : State) (l : Nat) : W64 :=
  match f.a with
  | .v r => if f.cvtSrc = 6 ∨ f.cvtSrc = 7 then s.G.vpair s.cur.2 r.toNat l else (s.G.vregOf s.cur.2 r.toNat l).setWidth 64
  | x => s.src64 x l

/-- R125 to R127. -/
def execCvt (f : VForm) (s : State) : Out :=
  let t := s.advanceSeed (fldN f.md 0 3) (selV f s)
  let res (l : Nat) : W64 := cvt f.cvtDst f.cvtSrc (laneRnd f s l) (cvtIn f s l)
  if f.cvtDst = 6 ∨ f.cvtDst = 7 then go (t.write64 f.d f.w f.bl (selV f s) res).retire
  else go (t.write32 f.d f.w f.bl (selV f s) fun l => (res l).setWidth 32).retire

/-- The scale byte of lane l's block of 32 lanes (R128). An immediate in B gives its bits 7:0 as a sign-extended integer: the spec does not say
how QPACK, a floating-point operation, reads one as a scale byte (log 72). -/
def qpackScale (f : VForm) (s : State) (l : Nat) : Nat :=
  let act := (lanesOf (selV f s)).filter fun k => k / 32 == l / 32
  if bitAt f.md 7 then fldN (s.src32 f.b (act.headD 0)) 0 8
  else (blockScale (fldN f.md 3 4) (act.map fun k => fp32.value (s.srcF f.a k))).1

/-- R128, R129. -/
def execQpack (f : VForm) (s : State) : Out :=
  let fmt := fldN f.md 3 4
  let t := s.advanceSeed (fldN f.md 0 3) (selV f s)
  go (t.write32 f.d f.w f.bl (selV f s) fun l =>
    let sc := qpackScale f s l
    let q := if sc = 0xFF then 0 else quant fmt (laneRnd f s l) (bitAt f.md 8) (fp32.value (s.srcF f.a l)) (127 - (sc : Int))
    BitVec.ofNat 32 (sc * 256 + q % 2 ^ eltWidth fmt)).retire

/-- R130. A 7-bit immediate in A is taken as a sign-extended bit pattern, code and scale, not converted as R66 converts it for floating-point
operations: the spec does not say (log 72). -/
def execQunpk (f : VForm) (s : State) : Out :=
  vec32 f s fun l =>
    let a := aOf f s l
    BitVec.ofNat 32 (dequant (fldN f.md 3 4) (fldN a 8 8) (a.toNat % 2 ^ eltWidth (fldN f.md 3 4)))

/-- The two planes of eight packed FP6 codes (R131). -/
def split6 (p : W64) : W64 :=
  let code (i : Nat) : Nat := p.toNat / 2 ^ (6 * i) % 64
  let idx := List.range 8
  BitVec.ofNat 64 ((idx.map fun i => code i % 16 * 2 ^ (4 * i)).foldl (· + ·) 0
    + 2 ^ 32 * (idx.map fun i => code i / 16 * 2 ^ (2 * i)).foldl (· + ·) 0)

/-- The packed form of a nibble word and a 2-bit half (R131). -/
def join6 (p : W64) : W64 :=
  let code (i : Nat) : Nat := p.toNat / 2 ^ (4 * i) % 16 + 16 * (p.toNat / 2 ^ (32 + 2 * i) % 4)
  BitVec.ofNat 64 (((List.range 8).map fun i => code i * 2 ^ (6 * i)).foldl (· + ·) 0)

/-- R131. -/
def execSpl6 (f : VForm) (s : State) : Out := vec64 f s fun l => split6 (aOf64 f s l)

/-- R131. -/
def execJn6 (f : VForm) (s : State) : Out := vec64 f s fun l => join6 (aOf64 f s l)

/-- The segment of an FP32 code (R251). -/
def segment (c : Nat) : Nat :=
  let g := c / 2 ^ 31 % 2
  let e := c / 2 ^ 23 % 256
  if e < 112 then 256 * g else if 143 < e then 256 * g + 255 else 256 * g + 8 * (e - 112) + c / 2 ^ 20 % 8

/-- An FP32 word of an activation bank of a core (R251). -/
def State.actWord (s : State) (core bank byte : Nat) : Nat := s.act.num (16384 * core + 8192 * bank + byte) 4

/-- The piecewise-linear activation of R133 in a bank, without SAT. -/
def State.activate (s : State) (core bank : Nat) (c : Nat) : Nat :=
  let k := segment c
  let r := fp32.fma .rne (fp32.value (s.actWord core bank (8 * k))) (fp32.value c) (fp32.value (s.actWord core bank (8 * k + 4)))
  match fp32.value c with | .nan => fp32.nanCode | _ => fp32.canon r

/-- The active bank of a core (R251). -/
def State.activeBank (s : State) (core : Nat) : Nat := SMap.get 0 s.actBank core

/-- R133: the bank that is active when the instruction issues. -/
def execAteval (f : VForm) (s : State) : Out :=
  vecF f s fun l => s.activate s.G.core (s.activeBank s.G.core) (fA f s l)

end Sys2Proof.Machine
end

