-- ==== Sys2Proof/Machine/Flags.lean ====
section
/-! DEFINITION. Every condition and saturation that the integer instructions compute (R68, R112, R138, R145); the K9 keeps no arithmetic flags (R110). -/

namespace Sys2Proof.Machine

open Sys2Proof

/-- A condition code of ISETP and SCMP on two operands (R68, R138). -/
def cmpInt {n : Nat} (cond : Nat) (signed : Bool) (a b : BitVec n) : Bool :=
  let lt := if signed then a.slt b else a.ult b
  match cond with
  | 0 => a == b
  | 1 => a != b
  | 2 => lt
  | 3 => lt || a == b
  | 4 => !(lt || a == b)
  | _ => !lt

/-- An integer saturated to the signed range of n bits (R112). -/
def satS (n : Nat) (x : Int) : BitVec n :=
  if x < -(2 ^ (n - 1) : Int) then BitVec.ofInt n (-(2 ^ (n - 1) : Int))
  else if (2 ^ (n - 1) : Int) ≤ x then BitVec.ofInt n (2 ^ (n - 1) - 1)
  else BitVec.ofInt n x

/-- An integer saturated to the unsigned range of n bits (R145). -/
def satU (n : Nat) (x : Int) : BitVec n :=
  if x < 0 then 0 else if (2 ^ n : Int) ≤ x then BitVec.allOnes n else BitVec.ofInt n x

/-- A sum, difference or product of signed operands that saturates when asked, and else wraps (R112, R145). -/
def satOr {n : Nat} (sat : Bool) (exact : Int) (wrapped : BitVec n) : BitVec n := if sat then satS n exact else wrapped

/-- Bit of a truth table at the index that three bits form (R115, R138). -/
def truth (t : BitVec 8) (a b c : Bool) : Bool := bitAt t (4 * a.toNat + 2 * b.toNat + c.toNat)

/-- A write of 1 to a W1C bit clears it (R146). -/
def w1c (x w : W64) : W64 := x &&& ~~~w

end Sys2Proof.Machine
end

