-- ==== Sys2Proof/Machine/Home.lean ====
section
/-! DEFINITION. What an access does at its home: windows, atomics, ENQ queues, tags of deferred cells, waiter tables, L1 (R180 to R196, R211). -/

namespace Sys2Proof.Machine

open Sys2Proof

/-! ### Window operations and atomics (R180, R176, R211) -/

/-- FP32 addition as a window or an atomic makes it (R176). -/
def addF32 (a b : W32) : W32 := BitVec.ofNat 32 (fp32.canon (fp32.add .rne (fp32.value a.toNat) (fp32.value b.toNat)))

/-- BF16 addition as a window makes it (R176). -/
def addBf16 (a b : W16) : W16 := BitVec.ofNat 16 (bf16.canon (bf16.add .rne (bf16.value a.toNat) (bf16.value b.toNat)))

/-- An operation of windows 4 to 10 on elements of one width, and of the matching atomics. -/
def orderOp {n : Nat} (win : Nat) (old x : BitVec n) : BitVec n :=
  match win with
  | 2 => old + x
  | 4 => if old.slt x then x else old
  | 5 => if old.ult x then x else old
  | 6 => if x.slt old then x else old
  | 7 => if x.ult old then x else old
  | 8 => old ||| x
  | 9 => old &&& x
  | _ => old ^^^ x

/-- The new value of an element of size bytes under a store through windows 2 to 10 (R180). -/
def winOp (win size : Nat) (old x : W64) : W64 :=
  if win = 3 then
    match size with
    | 2 => (addBf16 (fld old 0 16) (fld x 0 16)).setWidth 64
    | 4 => (addF32 (fld old 0 32) (fld x 0 32)).setWidth 64
    | _ => addF32 (fld old 32 32) (fld x 32 32) ++ addF32 (fld old 0 32) (fld x 0 32)
  else if size = 4 then (orderOp win (fld old 0 32) (fld x 0 32)).setWidth 64
  else orderOp win old x

/-- The new value of an atomic (R70, R211); swap is the new value of CAS. -/
def atomicOp (aop size : Nat) (old b swap : W64) : W64 :=
  let narrow (f : W32 → W32 → W32) : W64 := (f (fld old 0 32) (fld b 0 32)).setWidth 64
  let by' (win : Nat) : W64 := if size = 4 then narrow (orderOp win) else orderOp win old b
  match aop with
  | 0 => by' 2
  | 1 => narrow addF32
  | 2 => by' 6
  | 3 => by' 7
  | 4 => by' 4
  | 5 => by' 5
  | 6 => by' 9
  | 7 => by' 8
  | 8 => by' 10
  | 9 => b
  | 10 => if old = b then swap else old
  | 11 => narrow fun x y => BitVec.ofNat 32 (fp32.canon (fp32.minNum x.toNat y.toNat))
  | _ => narrow fun x y => BitVec.ofNat 32 (fp32.canon (fp32.maxNum x.toNat y.toNat))

/-! ### ENQ queues (R190, R191) -/

/-- The workgroup whose allotment holds a byte of a core's scratchpad (R179, R19). -/
def State.holder (s : State) (core off : Nat) : Option Workgroup :=
  s.wgs.find? fun w => (w.core == core || (w.pair && w.core + 1 == core)) && decide (w.base ≤ off) && decide (off < w.base + w.size)

/-- A queue header's fields (R190). -/
structure Header where
  base : Nat
  lcap : Nat
  esize : Nat
  trapen : Bool
  head : Nat
  tail : Nat
  deriving DecidableEq, Repr

/-- The header at a location, if its fields keep the form of R190 for an access of a size. -/
def State.header (s : State) (l : Loc) (size : Nat) : Option Header :=
  let base := s.num l 8
  let w := s.num (l.add 8) 8
  let lcap := w % 256
  let esize := w / 256 % 256
  let form : Bool := match l with
    | .spm _ _ | .cmd _ => decide (base < 2 ^ 20)
    | _ => decide (base < 2 ^ 56)
  if (esize = 4 ∨ esize = 8) ∧ lcap ≤ 32 ∧ base % esize = 0 ∧ form = true ∧ w / 2 ^ 18 = 0
      ∧ natOfBytes (s.readLoc (l.add 48) 16) = 0 ∧ size = esize then
    some ⟨base, lcap, esize, decide (w / 2 ^ 16 % 2 = 1), s.num (l.add 16) 8, s.num (l.add 24) 8⟩
  else none

/-- Where element k of a queue lies, when it is reachable (R191). -/
def State.element (s : State) (ctx : Nat) (l : Loc) (h : Header) (k : Nat) : Option Loc :=
  let e := h.base + k % 2 ^ h.lcap * h.esize
  match l with
  | .spm c o =>
    match s.holder c o with
    | some w => if e + h.esize ≤ w.size then some (.spm c (w.base + e)) else none
    | none => none
  | .cmd _ => if e + h.esize ≤ 2 ^ 20 then some (.cmd e) else none
  | _ =>
    match s.walk ctx (BitVec.ofNat 64 e) with
    | .leaf p _ =>
      if e < 2 ^ 56 ∧ bitAt p 1 ∧ bitAt p 2 ∧ pteTier p ≤ 2 ∧ ¬pteD p then some (leafLoc p e) else none
    | _ => none

/-- A read of n bytes at a peer's home through a window, for a context, and the code of its packet; none where no port or tag is free (R360, R361). -/
def State.sendRead (s : State) (ctx win d a n : Nat) (deadline : BitVec 16 := 0) : Option (State × Nat) :=
  (s.plane d (a / 128 * 128)).bind fun port => (s.freshTag port).map fun tag =>
    ({ s with sent := s.sent ++ [{ type := 1, src := BitVec.ofNat 9 (s.peer.getD 0), dst := BitVec.ofNat 10 d, ctx := BitVec.ofNat 16 ctx
                                   tag := BitVec.ofNat 11 tag, win := BitVec.ofNat 4 win, sz := BitVec.ofNat 3 (Nat.log2 n)
                                   budget := s.budget deadline false
                                   line := BitVec.ofNat 45 (a / 128), be := enables (a % 128) n, data := lineBytes 0 [], port := port }] },
      2048 * port + tag)

/-- A DIRECT write of an element at a peer's home, for a context, and the code of its packet; none where no port or tag is free (R191, R360, R361). -/
def State.sendPut (s : State) (ctx d a : Nat) (bs : List Byte) : Option (State × Nat) :=
  (s.plane d (a / 128 * 128)).bind fun port => (s.freshTag port).map fun tag =>
    ({ s with sent := s.sent ++ [{ s.elemPacket ctx 1 d a bs with tag := BitVec.ofNat 11 tag, port := port }] }, 2048 * port + tag)

/-- What an ENQ operation answers. -/
inductive Enq where
  | done (v : Nat)
  /-- The element is being read or written at a peer, in the packet with this code. -/
  | reading (code : Nat)
  /-- An earlier operation on the header has not been performed to completion (R191). -/
  | later
  /-- The append was dropped; QOVF if TRAPEN is set. -/
  | dropped (traps : Bool)
  | fault (c : Cause)
  deriving DecidableEq, Repr

/-- Whether an ENQ operation on a header waits for an element at a peer (R191). -/
def State.enqHeld (s : State) (l : Loc) : Bool := s.enqReads.any (·.header == s.selfLoc l)

/-- Whether a packet can be sent to a peer on behalf of the home of a header: it is not RECOVERING. -/
def State.asksPeer (s : State) (p : Nat) : Bool := SMap.get .absent s.peers p != .recovering

/-- An element is written at its home as a DIRECT store would be, and TAIL rises (R191): at a peer once its acknowledgement returns, until
when the header is held. -/
def State.putElement (s : State) (ctx : Nat) (l : Loc) (h : Header) (e : Loc) (v : Nat) : State × Enq :=
  let bs := bytesOf h.esize (BitVec.ofNat (8 * h.esize) v)
  match s.selfLoc e with
  | .peer p a =>
    match if s.asksPeer p then s.sendPut ctx p a bs else none with
    | none => (s, .later)
    | some (t, code) => ({ t with enqReads := t.enqReads ++ [⟨s.selfLoc l, code, a % 128, h.esize, true⟩] }, .reading code)
  | e => ((s.homeWrite e bs).homePut (l.add 24) 8 (h.tail + 1), .done 0)

/-- An append through the ENQ window (R191). -/
def State.enqStore (s : State) (ctx : Nat) (l : Loc) (size v : Nat) : State × Enq :=
  if l.offset % 64 ≠ 0 then (s, .fault .align)
  else if s.enqHeld l then (s, .later)
  else
    match s.header l size with
    | none => (s, .fault .winf)
    | some h =>
      if v = 0 then (s.homePut (l.add 40) 8 (s.num (l.add 40) 8 + 1), .done 0)
      else if (h.tail + 2 ^ 64 - h.head) % 2 ^ 64 < 2 ^ h.lcap then
        match s.element ctx l h h.tail with
        | none => (s, .fault .winf)
        | some e => s.putElement ctx l h e v
      else
        let t := s.homePut (l.add 32) 8 (s.num (l.add 32) 8 + 1)
        (t.homePut (l.add 10) 1 (s.num (l.add 10) 1 ||| 2), .dropped h.trapen)

/-- A dequeue through the ENQ window (R191). -/
def State.enqLoad (s : State) (ctx : Nat) (l : Loc) (size : Nat) : State × Enq :=
  if l.offset % 64 ≠ 0 then (s, .fault .align)
  else if s.enqHeld l then (s, .later)
  else
    match s.header l size with
    | none => (s, .fault .winf)
    | some h =>
      if h.head = h.tail then (s, .done 0)
      else
        match s.element ctx l h h.head with
        | none => (s, .fault .winf)
        | some e =>
          match s.selfLoc e with
          | .peer p a =>
            match if s.asksPeer p then s.sendRead ctx 1 p a h.esize else none with
            | none => (s, .later)
            | some (t, code) => ({ t with enqReads := t.enqReads ++ [⟨s.selfLoc l, code, a % 128, h.esize, false⟩] }, .reading code)
          | _ => (s.homePut (l.add 16) 8 (h.head + 1), .done (s.num e h.esize))

/-- Whether the element that a dequeue of a header would read here carries a poison mark (R191, R335). -/
def State.enqMarked (s : State) (ctx : Nat) (l : Loc) (size : Nat) : Bool :=
  match s.header l size with
  | some h => h.head != h.tail && (s.element ctx l h h.head).any fun e => s.poisoned e h.esize
  | none => false

/-- Address of the Spindle task-queue header of a cluster and priority (R410). -/
def taskQueue (cluster prio : Nat) : Nat := 0xFFFF0000000000 + 64 * (4 * cluster + prio)

/-- The location of a Spindle task-queue header in its context. -/
def State.taskQueueLoc (s : State) (ctx cluster prio : Nat) : Option Loc :=
  (s.deviceLoc ctx (BitVec.ofNat 64 (taskQueue cluster prio))).map (·.1)

/-! ### Deferred cells (R192 to R195) -/

/-- Home slice of a tier 0 address (R188). -/
def sliceOf (a : Nat) : Nat :=
  let y := a / 128 % 2 ^ 38
  (List.range 7).foldl (fun x i => x ^^^ (y / 2 ^ (6 * i) % 64)) 0

/-- Home slice of a tier 1 address, less its base (R188). -/
def sliceOf1 (a : Nat) : Nat := (a / 128 % 64) ^^^ (a / 8192 % 64)

/-- Whether an evaluation id is one of the nearest three ancestors, or the accessor itself (R193). -/
def inChain (evc : W64) (id : Nat) : Bool := id != 0 && (List.range 4).any fun i => fldN evc (16 * i) 16 == id

/-- Queue length of a task queue, from its TAIL and HEAD (R194). -/
def State.queueLength (s : State) (ctx cluster prio : Nat) : Nat :=
  match s.taskQueueLoc ctx cluster prio with
  | some l => (s.num (l.add 24) 8 + 2 ^ 64 - s.num (l.add 16) 8) % 2 ^ 64
  | none => 0

/-- The cluster on which an evaluation is placed (R194). -/
def State.placeEval (s : State) (o : MemOp) (a : Nat) : Nat :=
  match o.owner, o.dplace with
  | .group _ _, 0 => o.cluster
  | .group _ _, 2 =>
    ((List.range 24).foldl (fun b c =>
      if s.queueLength o.ctx c 3 < s.queueLength o.ctx b 3 then c else b) 0)
  | _, _ => 3 * sliceOf a / 8

/-- A successor's record is appended to its queue; a drop, of a zero too, is an event (R24, R191, R282). It waits only where the header is held. -/
def State.postSuccessor (s : State) (p : EvalPost) (l : Loc) (queue : W64) : State :=
  match s.selfLoc l with
  | .peer d a => s.sendElem p.ctx 14 d a (bytesOf 8 p.record)
  | _ =>
    match s.enqStore p.ctx l 8 p.record.toNat with
    | (t, .done _) => if p.record = 0 then t.post { type := 6, ctx := p.ctx, addr := queue } else t
    | (t, .reading _) => t
    | (_, .later) => { s with evalPosts := s.evalPosts ++ [p] }
    | (t, _) => t.post { type := 6, ctx := p.ctx, addr := queue }

/-- An evaluation is appended to its task queue; it is held and retried where the queue has no room (R194, R271). -/
def State.postEval (s : State) (p : EvalPost) : State :=
  match p.queue with
  | some q => s.postSuccessor p q.1 q.2
  | none =>
  match s.taskQueueLoc p.ctx p.cluster 3 with
  | none => s.post { type := 0x0E, ctx := p.ctx, addr := p.record }
  | some l =>
    match s.enqStore p.ctx l 8 (p.record.toNat ||| 1) with
    | (t, .done _) | (t, .reading _) => t
    | _ => { s with evalPosts := s.evalPosts ++ [p] }

/-- An unspecified free evaluation id, none when all are in use (R32). -/
def State.freeEval (s : State) : Option Nat :=
  let used (i : Nat) : Bool := s.evals.any (·.id == i)
  let c := Config.choose s.tick 4000 % 65535 + 1
  if used c then (List.range 65536).find? fun i => i != 0 && !used i else some c

/-- An access finds SUSP: the word becomes EVAL and its evaluation is enqueued (R32, R194). -/
def State.trigger (s : State) (o : MemOp) (l : Loc) : State :=
  match s.freeEval with
  | none => s
  | some id =>
    let w := l.word
    let rcd := s.num w 6
    let t := { s.setTag w 2 with evals := s.evals ++ [Eval.mk id o.ctx w.offset (BitVec.ofNat 64 rcd)] }
    let t := t.writeLoc (w.add 6) (bytesOf 2 (BitVec.ofNat 16 id))
    let chain := bytesOf 2 o.evc ++ bytesOf 2 (BitVec.ofNat 16 id) ++ bytesOf 4 (o.evc >>> 16)
    let t := t.deviceWrite o.ctx (BitVec.ofNat 64 (rcd + 48)) chain
    t.postEval { ctx := o.ctx, cluster := s.placeEval o w.offset, record := BitVec.ofNat 64 rcd }

/-- The evaluations of a group that has ended: their words become FAIL and release, and their ids are free (R195, R32). -/
def State.endEvals (s : State) (task evc : W64) : State := s.endEvalsOf fun e => e.id == fldN evc 0 16 && e.record == task

/-! ### L1 and tokens (R186, R313 to R315) -/

/-- The token region of a location: a region of a peer has the peer's number, plus one, in bits 63:48. -/
def Loc.region : Loc → Nat
  | .mem a => a / 2 ^ 21
  | .peer p a => (p + 1) * 2 ^ 48 + a / 2 ^ 21
  | _ => 0

/-- Whether a region has this device as its home. -/
abbrev regionHere (r : Nat) : Bool := decide (r < 2 ^ 48)

/-- The token entry of a region. -/
def State.token? (s : State) (r : Nat) : Option Token := s.tokens.find? (·.region == r)

/-- Whether this device holds the token of a location's region (R186, R313). -/
def State.holdsToken (s : State) (l : Loc) : Bool :=
  let l := s.selfLoc l
  match s.token? l.region with
  | some t => !t.pinned && t.holder.isNone && !t.recalled
  | none => match l with | .mem _ => true | _ => false

/-- Whether a PLAIN load allocates its line (R186). -/
def State.caches (s : State) (l : Loc) (nc : Bool) : Bool :=
  !nc && (match l with | .mem _ | .peer _ _ => true | _ => false) && s.holdsToken l

/-- Lines of a core's L1: 128 KiB (R5). -/
abbrev l1Lines : Nat := 1024

/-- A line takes its place in a core's L1 with the bytes given, by offset; a full L1 loses an unspecified other line (R5, R186). -/
def State.l1Fill (s : State) (core : Nat) (l : Loc) (bytes : SMap Byte) : State :=
  let rest := (s.l1Drop core l).l1
  let mine := rest.filter (·.core == core)
  let new : L1Line := { core := core, loc := (s.selfLoc l).line, bytes := bytes }
  if mine.length < l1Lines then { s with l1 := new :: rest }
  else { s with l1 := new :: rest.erase (mine.getD (Config.choose s.tick (700 + core) % mine.length) new) }

/-- Bytes of a line enter a core's L1, beside those of the line that it holds (R186). -/
def State.l1Merge (s : State) (core : Nat) (l : Loc) (bytes : SMap Byte) : State :=
  let old := ((s.l1Find core l).map (·.bytes)).getD []
  s.l1Fill core l (bytes.foldl (fun m b => m.put b.1 b.2) old)

/-- A packet of a token message (R361); LINE names the region. -/
def tokPacket (type dst : Nat) (src : Option Nat) (region : Nat) : Packet :=
  { type := BitVec.ofNat 6 type, src := BitVec.ofNat 9 (src.getD 0), dst := BitVec.ofNat 10 dst
    line := BitVec.ofNat 45 (region % 2 ^ 48 * 2 ^ 14) }

/-- The state with a token message sent. -/
def State.sendTok (s : State) (type dst region : Nat) : State :=
  s.sendPacket (tokPacket type dst s.peer region)

/-- A request of a context for the token of a region of a peer; a query for its status is a request of order 1, since R361 gives a query no
type of its own (log 20). -/
def State.askTok (s : State) (ctx d r : Nat) (query : Bool) : State :=
  s.sendPacket { tokPacket 0x24 d s.peer r with ctx := BitVec.ofNat 16 ctx, ord := if query then 1 else 0 }

/-- Whether a packet is a token request, or a query, for a region of a peer. -/
def asksFor (r : Nat) (query : Bool) (q : Packet) : Bool :=
  q.type == 0x24 && (q.ord == 1) == query && r == (q.dst.toNat + 1) * 2 ^ 48 + q.line.toNat / 2 ^ 14

/-- The answer of a home to a token request or a query of a peer: a status word (R315). -/
def State.sendTokStatus (s : State) (ctx : BitVec 16) (tag : BitVec 11) (d r : Nat) (query : Bool) (w : W64) : State :=
  s.sendPacket { tokPacket 0x28 d s.peer r with
    ctx := ctx, tag := tag, ord := if query then 1 else 0, be := enables 0 8, data := lineBytes 0 (bytesOf 8 w) }

/-- The state with a token entry changed. -/
def State.modToken (s : State) (r : Nat) (f : Token → Token) : State :=
  { s with tokens := s.tokens.map fun t => if t.region = r then f t else t }

/-- Every line of a region leaves every L1 of the device (R314). -/
def State.l1DropRegion (s : State) (r : Nat) : State :=
  { s with l1 := s.l1.filter fun e => e.loc.region != r, mops := s.stale fun _ l => l.region == r }

/-- Whether an unanswered write of this device, of whatever unit, is on its way to a region of a peer (R314). -/
def State.writesUnanswered (s : State) (r : Nat) : Bool :=
  !regionHere r && (s.sent ++ s.unsent).any fun q => (q.type == 2 || (decide (0x10 ≤ q.type.toNat) && decide (q.type.toNat ≤ 0x1C)))
    && (Loc.peer (q.dst.toNat % 512) (q.line.toNat * 128)).region == r

/-- Whether a store of this device to a region has yet to be performed (R314). -/
def State.storesTo (s : State) (r : Nat) : Bool :=
  s.writesUnanswered r || s.mops.any fun o => o.kind != .load && (match o.owner with | .peer _ => false | _ => true)
    && o.elems.any fun e => e.loc.region == r && (match e.loc with | .mem _ | .peer _ _ => true | _ => false)
      && (match e.stage with | .todo | .released _ _ | .sent _ => true | _ => false)

/-- TOKACQ of a region completes: RMT falls, and as an acquire it leaves no line of the region in its core's L1 (R315, R268). -/
def State.finishAcq (s : State) (r : Nat) : State :=
  let mine := s.tokOps.filter fun q => q.kind == 0 && q.region == r
  let t := mine.foldl (fun t q =>
    let core := (t.grp q.gid).core
    { t.modGroup q.gid fun g => g.finish q.id .rmt with
      l1 := t.l1.filter fun e => !(e.core == core && e.loc.region == r) }) s
  let asked (q : Packet) : Bool := asksFor r false q
  { t with tokOps := t.tokOps.filter fun q => !(q.kind == 0 && q.region == r)
           sent := t.sent.filter fun q => !asked q, unsent := t.unsent.filter fun q => !asked q }

/-- A request is answered: with the token, or without it where the region is pinned (R314, R315). -/
def State.answerTok (s : State) (r : Nat) (granted : Bool) : Option Nat → State
  | none => s.finishAcq r
  | some p =>
    if granted then s.sendTok 0x25 p r
    else s.sendTokStatus 0 0 p r false 0x8000000000000004

/-- The moves of an entry within the last 1 ms (R313). -/
def State.recentMoves (s : State) (t : Token) : List W64 := t.moves.filter fun m => decide ((s.clk - m).toNat < 700000)

/-- The token of a region leaves its holder for the oldest request, or for its home; the eighth move within 1 ms pins instead (R314). -/
def State.moveToken (s : State) (t : Token) : State :=
  let recent := s.recentMoves t
  let u := s.bump 0x40 0
  if 7 ≤ recent.length then
    let u := ((u.bump 0x41 0).l1DropRegion t.region).modToken t.region fun x =>
      { x with holder := none, pinned := true, lastMove := s.clk, moves := recent ++ [s.clk], waiting := [], recalled := false }
    t.waiting.foldl (fun u w => u.answerTok t.region false w) u
  else
    let toward : Option Nat := (t.waiting.head?).getD none
    let u := (if toward.isSome then u.l1DropRegion t.region else u).modToken t.region fun x =>
      { x with holder := toward, lastMove := s.clk, moves := recent ++ [s.clk], waiting := x.waiting.drop 1, recalled := false }
    match t.waiting with
    | w :: _ => u.answerTok t.region true w
    | [] => u

/-- The oldest request for a region homed here goes on, unless the holder's 20 µs or its stores are not over (R314). -/
def State.serveToken (s : State) (r : Nat) : State :=
  match s.token? r with
  | none => s
  | some t =>
    let held := t.lastMove != 0 && decide ((s.clk - t.lastMove).toNat < 14000)
    match t.waiting with
    | [] => s
    | w :: ws =>
      if t.pinned then t.waiting.foldl (fun u w => u.answerTok r false w) (s.modToken r fun x => { x with waiting := [] })
      else if t.holder = w then (s.modToken r fun x => { x with waiting := ws }).answerTok r true w
      else if held then s
      else
        match t.holder with
        | none => if s.storesTo r then s else s.moveToken t
        | some q => if t.recalled then s else (s.modToken r fun x => { x with recalled := true }).sendTok 0x26 q r

/-- A request for the token of a region homed here (R313, R314). -/
def State.requestToken (s : State) (who : Option Nat) (r : Nat) : State :=
  match s.token? r with
  | some _ => (s.modToken r fun x => { x with waiting := x.waiting ++ [who] }).serveToken r
  | none =>
    if who = none then s.answerTok r true none
    else if 16384 ≤ (s.tokens.filter fun t => regionHere t.region).length then { s with tokWait := s.tokWait ++ [(who, r)] }
    else ({ s with tokens := s.tokens ++ [{ region := r, waiting := [who] }] } : State).serveToken r

/-- The token of a region of a peer leaves this device once its stores there are performed (R314). -/
def State.yieldToken (s : State) (r : Nat) : State :=
  match s.token? r with
  | none => s
  | some t =>
    if regionHere r || t.pinned || !t.recalled || s.storesTo r then s
    else { s.l1DropRegion r with tokens := s.tokens.filter (·.region != r) }.sendTok 0x27 (r / 2 ^ 48 - 1) r

/-- A PLAIN access of a device, none for this one, to a region homed here whose token is with another makes the home recall it (R314). -/
def State.tokenTouch (s : State) (l : Loc) (who : Option Nat) : State :=
  match l with
  | .mem _ =>
    match s.token? l.region with
    | none => s
    | some t =>
      if t.pinned || t.holder.isNone || t.holder == who || t.waiting.contains none then s
      else s.requestToken none t.region
  | _ => s

/-- An access of this device to a region that is pinned is counted, through whatever window (R323). -/
def State.notePinned (s : State) (l : Loc) : State :=
  match s.selfLoc l with
  | .mem _ | .peer _ _ => if (s.token? (s.selfLoc l).region).any (·.pinned) then s.bump 0x42 0 else s
  | _ => s

/-- The bytes of a location's line that an L1 takes: all but those of a word that is poisoned or holds no value (log 55). -/
def State.l1Bytes (s : State) (l : Loc) : SMap Byte :=
  ((s.readLoc l.line 128).zipIdx.filter fun x => !s.poisoned (l.line.add x.2) 1 && s.tag (l.line.add x.2) == 0).map fun x => (x.2, x.1)

/-- Whether a core's L1 serves a PLAIN load: it holds the bytes, and they have not been evicted (R186). -/
def State.l1Hit (s : State) (core : Nat) (e : Elem) : Bool :=
  match s.l1Find core e.loc with
  | some ln => ((List.range e.size).all fun i => ln.bytes.any (·.1 == e.loc.offset % 128 + i)) && Config.choose s.tick (20000 + e.lane) % 2 == 0
  | none => false

/-- The value of a PLAIN load of a group: a valid L1 line's bytes, or the home's (R186). -/
def State.plainLoad (s : State) (core : Nat) (e : Elem) : State × List Byte :=
  if s.l1Hit core e then
    (s.perf core 6, (List.range e.size).map fun i => SMap.get 0 (((s.l1Find core e.loc).map (·.bytes)).getD []) (e.loc.offset % 128 + i))
  else if (s.l1Find core e.loc).isSome || s.caches e.loc e.nc then ((s.perf core 7).l1Fill core e.loc (s.l1Bytes e.loc), s.readLoc e.loc e.size)
  else (s, s.readLoc e.loc e.size)

/-! ### Performing one element (R182) -/

/-- How an element fares at its home. -/
inductive Perf where
  | val (x : BitVec 256)
  | fault (c : Cause)
  | park
  /-- It is to be tried again (R191). -/
  | later
  /-- It goes on when the packet with this code is answered (R191). -/
  | reading (code : Nat)
  /-- Its page is write-protected (R312). -/
  | protect
  deriving DecidableEq, Repr

/-- Bytes as a value. -/
def valOf (bs : List Byte) : BitVec 256 := BitVec.ofNat 256 (natOfBytes bs)

/-- The scratchpad writes of a MCAST store: the same physical offset of every core of the cluster, where the context holds the byte (R184); which
core its location names does not matter. -/
def State.mcastSpm (s : State) (ctx core off : Nat) (bs : List Byte) : State :=
  (List.range 8).foldl (fun t k =>
    let c := 8 * clusterOf core + k
    match t.holder c off with
    | some w => if w.ctx = ctx then t.homeWrite (.spm c off) bs else t
    | none => t) s

/-- An answer of an ENQ operation as an element's result: a dropped append raises QOVF where TRAPEN asks for it (R191). -/
def enqPerf : State × Enq → State × Perf
  | (t, .done v) => (t, .val (BitVec.ofNat 256 v))
  | (t, .dropped true) => (t, .fault .qovf)
  | (t, .dropped false) => (t, .val 0)
  | (t, .later) => (t, .later)
  | (t, .reading code) => (t, .reading code)
  | (t, .fault c) => (t, .fault c)

/-- The core through whose L1 an operation's PLAIN loads go; only a group's do. -/
def MemOp.l1Core (o : MemOp) : Option Nat :=
  match o.owner with
  | .group _ _ => some o.core
  | _ => none

/-- The peer from which an operation comes; none for this device's own (R314, R323). -/
def MemOp.from' (o : MemOp) : Option Nat := match o.owner with | .peer p => some p.src.toNat | _ => none

/-- An element on a word whose tag is VAL, or on a page that keeps no tags (R180, R185, R191, R211). -/
def State.performValue (s : State) (o : MemOp) (e : Elem) : State × Perf :=
  match o.kind with
  | .load =>
    match e.win with
    | 0 =>
      match o.l1Core with
      | some c => let (t, bs) := (s.tokenTouch e.loc o.from').plainLoad c e; (t, .val (valOf bs))
      | none => (s.tokenTouch e.loc o.from', .val (valOf (s.readLoc e.loc e.size)))
    | 11 => (s.homePut e.loc e.size 0, .val (valOf (s.readLoc e.loc e.size)))
    | 12 =>
      match e.stage with
      | .released _ true => (s, .val (valOf (s.readLoc e.loc e.size)))
      | _ => if s.num e.loc e.size = 0 then (s, .park) else (s, .val (valOf (s.readLoc e.loc e.size)))
    | 14 => enqPerf (s.enqLoad o.ctx e.loc e.size)
    | 15 => if e.size = 4 then (s, .val 0) else (s, .val (valOf (s.readLoc e.loc e.size)))
    | _ => (s, .val (valOf (s.readLoc e.loc e.size)))
  | .store =>
    match e.win with
    | 0 =>
      let t := (s.tokenTouch e.loc o.from').homeWrite e.loc (bytesOf e.size e.data)
      match o.l1Core with
      | some c => (t.l1Update c e.loc (bytesOf e.size e.data), .val 0)
      | none => (t, .val 0)
    | 1 | 11 | 12 => (s.homeWrite e.loc (bytesOf e.size e.data), .val 0)
    | 13 =>
      match e.loc with
      | .spm c off => (s.mcastSpm o.ctx c off (bytesOf e.size e.data), .val 0)
      | _ => (s.homeWrite e.loc (bytesOf e.size e.data), .val 0)
    | 14 => enqPerf (s.enqStore o.ctx e.loc e.size (fldN e.data 0 64 % 2 ^ (8 * e.size)))
    | 15 => ((s.homeWrite e.loc (bytesOf 8 e.data)).setTag e.loc 1, .val 0)
    | w =>
      let old : W64 := BitVec.ofNat 64 (s.num e.loc e.size)
      let t := (s.writeLoc e.loc (bytesOf e.size (winOp w e.size old (fld e.data 0 64)))).release e.loc e.size
      (t, .val 0)
  | .atomic aop =>
    let old : W64 := BitVec.ofNat 64 (s.num e.loc e.size)
    let new := atomicOp aop e.size old (fld e.data 0 64) e.swap
    ((s.writeLoc e.loc (bytesOf e.size new)).release e.loc e.size, .val (old.setWidth 256))
  | .fill _ => (s, .fault .dconf)

/-- Whether a page is write-protected now, for an access that would change a tag (R312). -/
def State.protected (s : State) (ctx : Nat) (va : W64) : Bool :=
  match s.walk ctx (BitVec.ofNat 64 (va.toNat % 2 ^ 56)) with
  | .leaf p _ => bitAt p 5
  | _ => false

/-- The waiter table in which an access to a location parks, and its entries (R185, R188, R316): a home slice's, or a core's for its scratchpad. -/
def State.waiterTable (s : State) (l : Loc) : Option (Nat × Nat) :=
  match s.selfLoc l with
  | .mem a => some (if a < Config.tier1Base then sliceOf a else sliceOf1 (a - Config.tier1Base), 256)
  | .spm c _ => some (Config.slices + c, 64)
  | _ => none

/-- Whether the waiter table of a location is full: the access is refused and its issuer tries again (R185). -/
def State.waiterFull (s : State) (l : Loc) : Bool :=
  match s.waiterTable l with
  | none => false
  | some (k, n) =>
    decide (n ≤ (s.mops.map fun o => (o.elems.filter fun e => (match e.stage with | .waiting _ => true | _ => false)
      && (s.waiterTable e.loc).any (·.1 == k)).length).sum)

/-- An access finds SUSP: it triggers and parks (R193). -/
def State.suspended (s : State) (o : MemOp) (e : Elem) : State × Perf :=
  if o.from'.isNone && s.protected o.ctx e.va then (s, .protect)
  else if s.waiterFull e.loc then (s, .later)
  else (s.trigger o e.loc, .park)

/-- The word that decides how an element of several words on a page that keeps tags fares: the first that holds no value, but for a PLAIN or
DIRECT store the first under suspension or evaluation, since it writes a failed word (R193); the spec does not say which (log 99). -/
def State.decidingWord (s : State) (o : MemOp) (e : Elem) : Loc :=
  let writesFail := o.kind == .store && decide (e.win ≤ 1)
  let bad := e.words.filter fun l => s.tag l != 0
  ((bad.find? fun l => !(writesFail && s.tag l == 3)).or bad.head?).getD e.loc.word

/-- A PLAIN store's bytes enter the line that its core's L1 holds (R186). -/
def State.storeL1 (s : State) (o : MemOp) (e : Elem) : State :=
  match o.l1Core with
  | some c => if e.win = 0 then s.l1Update c e.loc (bytesOf e.size e.data) else s
  | none => s

/-- An element on a page that keeps tags, by the table of R193. -/
def State.performTagged (s : State) (o : MemOp) (e : Elem) : State × Perf :=
  let l := s.decidingWord o e
  let id := s.num (l.add 6) 2
  let self := inChain o.evc id
  match s.tag l, o.kind with
  | 0, _ => s.performValue o e
  | 1, .fill _ => (s, .fault .dconf)
  | 1, _ => s.suspended o { e with loc := l }
  | 2, .load => if self then (s, .fault .dself) else (s, .park)
  | 2, .fill f =>
    if fldN o.evc 0 16 = id ∧ id ≠ 0 ∧ o.task.toNat = s.num l 6 then
      if f then (s.failWord e.loc, .val 0)
      else (((s.homeWrite e.loc (bytesOf 8 e.data)).setTag e.loc 0).releaseWord e.loc true, .val 0)
    else (s, .fault (if self then .dself else .dconf))
  | 2, .store =>
    if self then (s, .fault .dself)
    else if e.win ≤ 1 ∨ e.win = 15 then (s, .fault .dconf)
    else (s, .park)
  | 2, .atomic _ => if self then (s, .fault .dself) else (s, .park)
  | _, .load => (s, .fault .dfail)
  | _, .store =>
    if e.win ≤ 1 then
      (e.words.foldl (fun t w => t.setTag w 0) ((s.homeWrite e.loc (bytesOf e.size e.data)).storeL1 o e), .val 0)
    else if e.win = 15 then ((s.homeWrite e.loc (bytesOf 8 e.data)).setTag e.loc 1, .val 0)
    else (s, .fault .dfail)
  | _, .atomic _ => (s, .fault .dfail)
  | _, .fill _ => (s, .fault .dconf)

/-- An element by its page: the probe of DEFER reads a word and its tag (R192). -/
def State.performHere (s : State) (o : MemOp) (e : Elem) : State × Perf :=
  if e.dpage then
    match o.kind, e.win with
    | .load, 15 =>
      if e.size = 4 then (s, .val ((s.tag e.loc).setWidth 256)) else (s, .val (valOf (s.readLoc e.loc e.size)))
    | _, _ => s.performTagged o e
  else s.performValue o e

/-- An element is performed at its home in one indivisible step (R182); an access of this device is counted where the region is pinned (R323). -/
def State.perform (s : State) (o : MemOp) (e : Elem) : State × Perf :=
  match s.performHere o e with
  | (t, .val x) => (if o.from'.isNone then t.notePinned e.loc else t, .val x)
  | r => r

/-! ### Shadows (R341) -/

/-- The digest of a shadow's element: CRC-32C over address, SZ and data, with the opcode above it (R341). -/
def digest (opc sz : Nat) (va : W64) (data : List Byte) : W64 :=
  (crc32c (bytesOf 8 va ++ [BitVec.ofNat 8 sz] ++ data)).setWidth 64 + BitVec.ofNat 64 (opc * 2 ^ 32)

/-- A group's store hash rises by a digest (R341). -/
def State.addHash (s : State) (g : Nat) (d : W64) : State := s.modGroup g fun x => { x with hash := x.hash + d }

end Sys2Proof.Machine
end

