-- ==== Sys2Proof/Machine/Memory.lean ====
section
/-! DEFINITION. The memory pipe, and opcodes 0x90 to 0x94 and 0xA0 to 0xAB: loads, stores, atomics, fences, cache control and deferred fills (R200 to R217); requests at home and their completion (R182, R203). -/

namespace Sys2Proof.Machine

open Sys2Proof

/-! ### Checking and placing one element (R178 to R181, R202) -/

/-- Where an element stands after the checks of R202 that are made before its home. -/
inductive Placed where
  | ok (e : Elem)
  | fault (c : Cause)
  /-- Parks on a page fault; on a write-protected page, at this location, if there is one. -/
  | parks (wp : Option Loc)
  deriving DecidableEq, Repr

/-- Whether a window takes elements of a size (R181). -/
def winSize (win size : Nat) : Bool :=
  if win ≤ 1 then true else if win = 3 then size == 2 || size == 4 || size == 8 else size == 4 || size == 8

/-- The request to which elements of one line and home belong (R204). -/
def lineCode : Loc → Nat
  | .spm c o => (c * Config.spmBytes + o) / 128 * 4
  | .mem a => a / 128 * 4 + 1
  | .peer p a => (p * 2 ^ 45 + a / 128) * 4 + 2
  | .host a => a / 128 * 4 + 3
  | .cmd o => 2 ^ 62 + o / 128

/-- What an operation asks of a page. -/
def MemOp.ask (o : MemOp) : Ask :=
  match o.kind with
  | .load => .load
  | .store | .fill _ => .store
  | .atomic _ => .rmw

/-- ATYPE of a fault-queue entry (R305): 7 for a host access; a store through window 13 is a plain write. -/
def MemOp.atype (o : MemOp) (win : Nat) : Nat :=
  match o.owner, o.kind with
  | .host _, _ => 7
  | _, .load => if win = 11 ∨ win = 14 then 2 else 0
  | _, .store => if 2 ≤ win ∧ win ≠ 11 ∧ win ≠ 12 ∧ win ≠ 13 then 2 else 1
  | _, .fill _ => 1
  | _, .atomic _ => 2

/-- Whether an operation goes to scratchpad. -/
def MemOp.scratch (o : MemOp) : Bool := o.toSpm || (0x90 ≤ o.opc && o.opc ≤ 0x94)

/-- An element with its location, window and request. -/
def Elem.at (e : Elem) (l : Loc) (win : Nat) (d nc : Bool) : Elem :=
  { e with loc := l, win := win, req := lineCode l, stage := .todo, dpage := d, nc := nc }

/-- Whether a scratchpad address breaks R179. -/
def scratchBad (wg : Workgroup) (a : W64) : Bool :=
  fldN a 20 4 != 0 || (bitAt a 27 && (fldN a 24 3 != 0 || decide (wg.size ≤ fldN a 0 20)))

/-- A scratchpad element (R179, R181, R202, R207, R208, R211); a MCAST store reaches its workgroup's offset on the cluster's cores,
whichever core its address names, and its location names the first (R184). -/
def State.placeScratch (s : State) (o : MemOp) (wg : Workgroup) (e : Elem) : Placed :=
  let a := e.va
  let win := fldN a 28 4
  let own := bitAt a 27
  let off := fldN a 0 20
  let mcast := win == 13 && o.kind == .store
  let core := if mcast then 8 * clusterOf o.core else if own then o.core else 8 * clusterOf o.core + fldN a 24 3
  let p := if own || mcast then wg.base + off else off
  if scratchBad wg a then .fault .range
  else if !winSize win e.size ∨ off % e.size ≠ 0 then .fault .align
  else if !own ∧ !mcast ∧ ¬(s.holder core p).any (·.ctx == o.ctx) then .fault .perm
  else if win = 15 ∨ (1 < win ∧ (o.opc = 0x92 ∨ o.opc = 0x93 ∨ o.opc = 0x94)) then .fault .winf
  else .ok (e.at (.spm core p) win false false)

/-- Whether a global element's window is refused (R180, R181, R192, R211, R217). -/
def windowRefused (o : MemOp) (e : Elem) (win : Nat) (pte : W64) : Bool :=
  let tier := pteTier pte
  let install := o.kind == .store && win == 15
  (tier == 3 && (decide (1 < win) || o.opc == 0xA2))
    || (win == 13 && decide (2 ≤ tier))
    || (pteD pte && (win == 13 || win == 14))
    || (install && (!pteD pte || e.size == 4 || fldN e.data 48 16 != 0 || fldN e.data 0 6 != 0))
    || (o.opc == 0xA2 && decide (1 < win)) || (o.opc == 0xAB && win != 0)

/-- The location of an address on a write-protected page. -/
def State.protectedLoc (s : State) (ctx : Nat) (va : W64) : Loc :=
  match s.walk ctx (BitVec.ofNat 64 (va.toNat % 2 ^ 56)) with
  | .leaf p _ => leafLoc p (va.toNat % 2 ^ 56)
  | _ => .mem 0

/-- A global element (R178, R181, R202); a write that no check refuses sets MD (R298). -/
def State.placeGlobal (s : State) (o : MemOp) (unit : Nat) (e : Elem) : State × Placed :=
  let win := fldN e.va 56 4
  if 2 ^ 60 ≤ e.va.toNat then (s, .fault .range)
  else if !winSize win e.size ∨ e.va.toNat % e.size ≠ 0 then (s, .fault .align)
  else
    match s.resolve unit o.ctx e.va o.ask win with
    | (t, .perm, _) => (t, .fault .perm)
    | (t, .unmapped, _) => (t, .parks none)
    | (t, .protect, _) => (t, .parks (some (t.protectedLoc o.ctx e.va)))
    | (t, .ok l pte, slot) =>
      if windowRefused o e win pte then (t, .fault .winf)
      else if o.opc = 0xAB ∧ ¬pteD pte then (t, .fault .dconf)
      else (if writes o.ask win then t.markWrite unit o.ctx (e.va.toNat % 2 ^ 56) slot else t, .ok (e.at l win (pteD pte) (bitAt pte 37)))

/-- An element of an operation passes the checks of R202 that are made before its home. -/
def State.place (s : State) (o : MemOp) (wg : Workgroup) (e : Elem) : State × Placed :=
  if o.scratch then (s, s.placeScratch o wg e) else s.placeGlobal o o.core e

/-- The lane record of a fault (R328). -/
def recordOf (o : MemOp) (e : Elem) (c : Cause) : LaneRec :=
  { addr := e.va, lane := e.lane, cause := c, sz := o.sz, opc := o.opc
    win := if o.scratch then fldN e.va 28 4 else fldN e.va 56 4 }

/-- An element parked on a page fault, or on a write-protected page at a location, in this place of the order of parking (R303, R312). -/
def Elem.parkedOn (e : Elem) (win : Nat) (wp : Option Loc) (order : Nat) : Elem :=
  let l := wp.getD (.mem 0)
  { e with win := win, loc := l, req := lineCode l, stage := if wp.isSome then .writeProtect else .pageFault
           parkedAt := if wp.isSome then order else 0, txAt := order }

/-- An operation with one more element, as placed; a parked one posts its fault (R303). -/
def enter (o : MemOp) (slot : Nat) (e : Elem) : State × Placed → State × MemOp
  | (t, .ok x) => (t, { o with elems := o.elems ++ [x] })
  | (t, .fault c) => (t, { o with faults := o.faults ++ [recordOf o e c] })
  | (t, .parks wp) =>
    let win := fldN e.va 56 4
    (t.postFault (clusterOf o.core) o.ctx e.va (o.atype win) win 0 o.core slot wp.isSome, { o with elems := o.elems ++ [e.parkedOn win wp t.nextId] })

/-- Every element of an operation is placed, in the order given. -/
def State.placeAll (s : State) (wg : Workgroup) (slot : Nat) : MemOp → List Elem → State × MemOp
  | o, [] => (s, o)
  | o, e :: es =>
    let r := enter o slot e (s.place o wg e)
    r.1.placeAll wg slot r.2 es

/-- Whether an element can no longer fault or park its instruction (R202, R191). -/
def Elem.settled (e : Elem) : Bool :=
  match e.stage with
  | .performed _ | .done | .sent _ | .remoteWait | .withdrawn => true
  | .todo | .waiting _ | .released _ _ => !e.dpage && e.win != 14
  | .held | .pageFault | .writeProtect => false

/-- The paths on which an operation counts (R203); a MCAST store to global memory travels through the fabric (R366). -/
def Elem.path (o : MemOp) (e : Elem) : Path :=
  if o.opc = 0xE2 ∨ (o.kind = .store ∧ e.win = 13 ∧ ¬o.scratch) then .rmt else if o.scratch then .scr else e.loc.path

/-- The paths on which an operation counts: those of its elements, RMT for TOKQRY (R315), none for another result write (R325) or for a line that PREF fetches (R203). -/
def MemOp.paths (o : MemOp) : List Path := if (o.sys.isSome && o.opc != 0xE2) || o.opc = 0xAA then [] else (o.elems.map (Elem.path o)).eraseDups

/-- The held elements of an operation of a group go on, and are counted at its place in the order of issue, where their paths have room (R318). -/
def State.unhold (s : State) (g : Nat) (o : MemOp) : State :=
  let ps := ((o.elems.filter (·.stage == .held)).map (Elem.path o)).eraseDups.filter fun p => !(s.grp g).counted o.id p
  if !(o.elems.any (·.stage == .held)) || ps.any fun p => 63 ≤ (s.grp g).count p then s
  else
    { s.modGroup g fun x => ps.foldl (fun x p => x.raiseAt o.id p) x with
      mops := s.mops.map fun q => if q.id = o.id then { q with elems := q.elems.map fun e => if e.stage = .held then { e with stage := .todo } else e } else q }

/-- Held elements go on as the counters of their paths fall (R318). -/
def State.settleHeld (s : State) : State :=
  s.mops.foldl (fun t o => match o.owner with | .group g _ => t.unhold g o | _ => t) s

/-- Whether an element has been performed at its home, and what came of it is known here. -/
def Elem.isPerformed (e : Elem) : Bool := match e.stage with | .performed _ | .done => true | _ => false

/-- Whether an element lets its instruction retire: a result write must have been performed (R307, R325), an ENQ store wherever its header lies
(R191), and a load that a DFILL released has acquired once it is delivered (R195, R268). -/
def MemOp.passed (o : MemOp) (e : Elem) : Bool :=
  if o.sys.isSome || (o.kind == .store && e.win == 14) then e.isPerformed
  else if o.kind == .load && e.acq then e.stage == .done
  else e.settled

/-! ### Issue -/

/-- Lines that a non-PLAIN access reaches leave the issuing core's L1 (R186, R211). -/
def State.dropLines (s : State) (o : MemOp) : State :=
  o.elems.foldl (fun t e => if !o.scratch && (e.win ≠ 0 || o.opc = 0xA2) then t.l1Drop o.core e.loc else t) s

/-- The base of an operation that the issuing split begins. -/
def State.newOp (s : State) (f : MForm) (opc : Nat) (kind : AccKind) : MemOp :=
  let g := s.G
  { id := s.nextId, owner := .group s.cur.1 s.cur.2, kind := kind, ctx := g.ctx, pc := s.S.pc, opc := opc
    sz := f.sz.toNat, scope := f.scope.toNat, ord := f.ord.toNat, d := f.d.toNat
    evc := g.evc, task := g.task, dplace := (s.ownSpecial 0x28 (BitVec.ofNat 64 g.dplace)).toNat, past := s.S.past, behind := s.S.joined
    deadline := s.deadlineOf ((s.ownSpecial 0x2B (g.qos.setWidth 64)).setWidth 16), born := s.clk, sigb := s.S.sigb, cluster := clusterOf g.core, core := g.core }

/-- The place of a cause in the order of the checks (R202). -/
def Cause.check : Cause → Nat
  | .range => 0
  | .align => 1
  | .perm | .pagef => 2
  | .winf => 3
  | .qovf => 5
  | _ => 4

/-- The first record of each lane of a list in ascending lane order (R328). -/
def oneEach : List LaneRec → List LaneRec
  | a :: b :: rs => if a.lane = b.lane then oneEach (a :: rs) else a :: oneEach (b :: rs)
  | rs => rs

/-- The trap of a memory instruction: mask, cause and address of its faulting and withdrawn lanes (R202). -/
def memTrap (o : MemOp) (split : Nat) (withdrawn : Mask) : Trap :=
  let recs := oneEach (sortOn (fun r => 8 * r.lane + r.cause.check) o.faults)
  let first := recs.headD { addr := 0, lane := 0, cause := .align }
  match o.sys with
  | some (m, a) => { split := split, cause := first.cause, pc := o.pc, addr := a, mask := m }
  | none =>
    { split := split, cause := first.cause, pc := o.pc, addr := first.addr, recs := recs
      mask := withdrawn ||| maskOf fun l => recs.any (·.lane == l) }

/-- Whether an element enters the store hash: every store, FCLR or ENQ load and atomic beyond the own core's scratchpad (R341). -/
def hashed (g : Group) (o : MemOp) (e : Elem) : Bool :=
  !(o.scratch && e.win != 13 && (match e.loc with | .spm c _ => c == g.core | _ => false))
    && (o.kind != .load || e.win == 11 || e.win == 14)

/-- Whether an element of a shadow leaves memory alone (R341). -/
def shadows (g : Group) (o : MemOp) (e : Elem) : Bool := g.shadow && hashed g o e

/-- The digest of an element (R341). -/
def digestOf (o : MemOp) (e : Elem) : W64 := digest o.opc o.sz e.va (if o.kind = .load then [] else bytesOf e.size e.data)

/-- The elements of an operation of a screened group enter its store hash (R341). -/
def State.hashOp (s : State) (o : MemOp) : State :=
  if s.G.screened && !s.G.shadow then
    o.elems.foldl (fun t e => if hashed s.G o e then t.addHash s.cur.1 (digestOf o e) else t) s
  else s

/-- A screened workgroup loads from or stores to bytes that are not of a scratchpad. To load what it stores, whichever comes first, and to use
the result of an FCLR, an ENQ or an atomic is what R342 forbids (log 88). -/
def Workgroup.touch (w : Workgroup) (loads stores : Bool) (l : Loc) (n : Nat) : Workgroup :=
  let hits (m : List (Loc × Nat)) : Bool := m.any fun x => l.overlaps n x.1 x.2
  let add (m : List (Loc × Nat)) : List (Loc × Nat) := if m.contains (l, n) then m else (l, n) :: m
  match l with
  | .spm _ _ => w
  | _ => { w with loaded := if loads then add w.loaded else w.loaded, stored := if stores then add w.stored else w.stored
                  strays := w.strays || (loads && hits w.stored) || (stores && hits w.loaded) }

/-- The workgroup of a group is screened, and changes. -/
def State.modScreened (s : State) (g : Nat) (f : Workgroup → Workgroup) : State :=
  let x := s.grp g
  if x.screened && !x.shadow then s.modWg x.wg f else s

/-- An element of a screened group is on its way. -/
def State.touchElem (s : State) (g : Nat) (o : MemOp) (e : Elem) : State :=
  let result : Bool := (match o.kind with | .atomic _ => true | _ => false) || (o.kind == .load && (e.win == 11 || e.win == 14))
  match e.stage with
  | .pageFault => s
  | _ => s.modScreened g fun w =>
      let w := w.touch (o.kind == .load && !result) (o.kind != .load || result) e.loc e.size
      { w with strays := w.strays || result }

/-- What the instruction words and the memory operations of screened groups do that R342 forbids is noted: SR_GSLOT, SR_CORE, SR_CLU, SR_CRANK
and SR_CLK are read (log 88). -/
def State.noteStrays (s : State) : State :=
  if s.groups.all fun g => !g.screened then s
  else
    let t := s.mops.foldl (fun t o => match o.owner with
      | .group g _ => o.elems.foldl (fun t e => t.touchElem g o e) t
      | _ => t) s
    t.groups.foldl (fun t g =>
      let reads := g.splits.any fun p => match decode p.ir with
        | .ok (.srd f) => [0x02, 0x03, 0x04, 0x05, 0x15].contains (fldN f.md 0 8)
        | _ => false
      if reads then t.modScreened g.gid fun w => { w with strays := true } else t) t

/-- Whether an operation's requests take entries of the outstanding-transaction table of its core (R319). -/
def MemOp.takesTx (o : MemOp) : Bool :=
  o.sys.isNone && (match o.owner with | .group _ _ => true | _ => false)
    && ((0x90 ≤ o.opc && o.opc ≤ 0x94) || (0xA0 ≤ o.opc && o.opc ≤ 0xA4) || o.opc == 0xAB)

/-- Whether an element's request holds an entry until it completes, or waits for one: a parked access has given it up (R319). -/
def Elem.outstanding (e : Elem) : Bool :=
  match e.stage with
  | .todo | .released _ _ | .sent _ | .performed _ => true
  | _ => false

/-- An entry for a request of a group on a core: one of the group's own 4, else one of the 384 of the pool; none when neither is free (R319). -/
def State.freeTx (s : State) (core gid : Nat) : Option Tx :=
  if (s.txs.filter fun t => t.core == core && t.gid == gid && !t.pool).length < 4 then some { core := core, gid := gid }
  else if (s.txs.filter fun t => t.core == core && t.pool).length < 384 then some { core := core, gid := gid, pool := true }
  else none

/-- Whether a request holds an entry. -/
def State.hasTx (s : State) (op req : Nat) : Bool := s.txs.any fun t => t.op == op && t.req == req

/-- A request takes an entry, if it needs one and one is free. -/
def State.takeTx (s : State) (o : MemOp) (req : Nat) : State :=
  match o.owner with
  | .group g _ =>
    if !o.takesTx || s.hasTx o.id req then s
    else match s.freeTx o.core g with
      | some t => { s with txs := s.txs ++ [{ t with op := o.id, req := req }] }
      | none => s
  | _ => s

/-- The place of an element among those of its group that wait for an entry: one that was parked goes first, in the order of parking (R319). -/
def Elem.txOrder (e : Elem) : Option Nat :=
  match e.stage with
  | .released n _ => some n
  | _ => if e.txAt = 0 then none else some e.txAt

/-- The requests of a group that wait for an entry, in the order in which they take one (R319). -/
def State.txWaiting (s : State) (g : Nat) : List (MemOp × Nat) :=
  let all := (s.mops.map fun o => match o.owner with
    | .group h _ => if h = g ∧ o.takesTx then (o.elems.filter fun e => e.outstanding && !s.hasTx o.id e.req).map fun e => (o, e) else []
    | _ => []).flatten
  let again := sortOn (fun x => (x.2.txOrder).getD 0) (all.filter (·.2.txOrder.isSome))
  (again ++ all.filter (·.2.txOrder.isNone)).map fun x => (x.1, x.2.req)

/-- A list from its k-th entry on, then what precedes it. -/
def rotate {α : Type} (k : Nat) (l : List α) : List α := l.drop (k % (l.length + 1)) ++ l.take (k % (l.length + 1))

/-- Entries of requests that are complete or parked are free, and requests that wait take them; which group takes the pool's first is an
unspecified choice (R319; log 76). -/
def State.settleTxs (s : State) : State :=
  let t : State := { s with txs := s.txs.filter fun x => s.mops.any fun o => o.id == x.op && o.elems.any fun e => e.req == x.req && e.outstanding }
  let gids := (t.mops.filterMap fun o => match o.owner with | .group g _ => some g | _ => none).eraseDups
  (rotate (Config.choose s.tick 8000) gids).foldl (fun t g => (t.txWaiting g).foldl (fun t x => t.takeTx x.1 x.2) t) t

/-- Whether an instruction's first request finds no entry: none is free, or a request of its group that was parked waits for one (R319). -/
def State.txFull (s : State) (o : MemOp) : Bool :=
  match o.owner, o.elems.find? (·.outstanding) with
  | .group g _, some _ => o.takesTx && ((s.freeTx o.core g).isNone || (s.txWaiting g).any fun x => x.1.elems.any fun e => e.req == x.2 && e.txOrder.isSome)
  | _, _ => false

/-- The memory instruction is counted on its paths and either retires or waits for its lanes (R202, R203); it has issued, which clears the
watchdog (R321). -/
def State.launchOp (s : State) (o : MemOp) : State :=
  let drop := s.G.restarting
  let o : MemOp := { o with elems := o.elems.map fun e => { e with drop := drop } }
  let hold := !o.faults.isEmpty || !o.elems.all o.passed
  let o : MemOp := { o with hold := hold }
  let t : State := { (s.hashOp o).fresh with mops := s.mops ++ [o] }
  let t := match o.elems.find? (·.outstanding) with | some e => t.takeTx o e.req | none => t
  let t := t.modG fun g => { o.paths.foldl (fun g p => g.raise o.id p) g with wdog := 0 }
  let t := t.modS fun p => { p with
    acqs := if o.ord % 2 = 1 then p.acqs ++ [o.id] else p.acqs
    past := p.past.filter (fun i => s.mops.any (·.id == i) || s.tokOps.any (·.id == i)) ++ [o.id] }
  if hold then (t.perf s.G.core 3).setWait s.cur.1 s.cur.2 (.memop o.id) else t.retire

/-- An instruction that acts as a release waits for its scope's paths; first a copy fault or a remote failure is raised (R205, R220). -/
def State.releaseWait (s : State) (scope : Nat) (m : Mask) : Option State :=
  match s.deliverCopy with
  | some t => some t
  | none =>
    if 5 ≤ scope ∧ bitAt (s.ownSpecial 0x1B s.G.rflt) 0 then some (s.trap .rmtflt m 0)
    else if s.G.quiet (scopePaths scope) then none
    else some s.stall

/-- Whether a TOKACQ that precedes an operation in program order, and has not completed, holds it: it reaches its region (R268, R315). -/
def State.tokHeld (s : State) (o : MemOp) : Bool :=
  s.tokOps.any fun q => q.kind == 0 && q.gid == s.cur.1 && (s.S.past.contains q.id || s.S.joined.contains q.id) && o.elems.any fun e =>
    !o.scratch && e.loc.region == q.region

/-- Whether an operation may issue behind such a load: it is a load of words on pages that keep tags, so that it changes no register and no
memory before the older one is complete (R202, R326). -/
def MemOp.follows (o : MemOp) : Bool :=
  o.faults.isEmpty && o.kind == .load && o.ord == 0 && o.elems.all fun e => e.dpage && e.stage == .todo

/-- Issue of a memory instruction whose lanes make the given elements (R200 to R206). -/
def State.issueMem (s : State) (m : Mask) (o : MemOp) (elems : List Elem) : State :=
  if !s.S.acqs.isEmpty then s.stall
  else
    match if 2 ≤ o.ord then s.releaseWait o.scope m else none with
    | some t => t
    | none =>
      let (t, o) := s.placeAll (s.wgOf s.G.wg) s.G.slot o elems
      let o := { o with elems := o.elems.filter fun e => !(o.faults.any (·.lane == e.lane)) }
      if (o.paths.any fun p => 63 ≤ s.G.count p) || s.tokHeld o || s.txFull o || (s.passing (.group s.cur.1 s.cur.2) && !o.follows) then s.stall
      else if o.elems.isEmpty then ((t.perf t.G.core 3).modG fun g => { g with wdog := 0 }).trapGroup s.cur.1 (memTrap o s.cur.2 0)
      else (t.dropLines o).launchOp o

/-! ### Operands of the memory instructions (R200, R207, R210) -/

/-- Bytes of an element by SZ (R60). -/
abbrev szBytes (f : MForm) : Nat := 2 ^ f.sz.toNat

/-- The lanes to which a format M instruction issues (R64). -/
abbrev selM (f : MForm) (s : State) : Mask := s.sel f.p f.pn

/-- Registers that an element of some bytes fills. -/
def regCount (size : Nat) : Nat := (size + 3) / 4

/-- The data registers of a lane as one value, the lowest register lowest (R207). -/
def Group.dataOf (g : Group) (i d n l : Nat) : BitVec 256 :=
  (List.range n).foldl (fun x j => x ||| ((g.vregOf i (d + j) l).setWidth 256 <<< (32 * j))) 0

/-- A scratchpad address of lane l (R200). -/
def scrAddr (f : MForm) (s : State) (l : Nat) : W64 :=
  (s.src32 f.a l + f.off.signExtend 32).setWidth 64

/-- A global address of lane l (R200). -/
def glbAddr (f : MForm) (s : State) (l : Nat) : W64 := s.src64 f.a l + f.off.signExtend 64

/-- A load or store by lanes: one element a selected lane. -/
def laneElems (f : MForm) (s : State) (addr : Nat → W64) (store : Bool) : List Elem :=
  (lanesOf (selM f s)).map fun l =>
    { lane := l, va := addr l, size := szBytes f
      data := if store then s.G.dataOf s.cur.2 f.d.toNat (regCount (szBytes f)) l else 0 }

/-- A memory instruction without a selected lane only retires (R64). -/
def memInstr (f : MForm) (s : State) (t : State) : Out := go (if selM f s = 0 then s.retire else t)

/-! ### Scratchpad (R207, R208, R211) -/

/-- R207. -/
def execLds (f : MForm) (s : State) : Out :=
  memInstr f s (s.issueMem (selM f s) (s.newOp f 0x90 .load) (laneElems f s (scrAddr f s) false))

/-- R207. -/
def execSts (f : MForm) (s : State) : Out :=
  memInstr f s (s.issueMem (selM f s) (s.newOp f 0x91 .store) (laneElems f s (scrAddr f s) true))

/-- The elements of a block-shaped access: register j of lane l at row j, column l (R208). -/
def blockElems (f : MForm) (s : State) (store : Bool) : List Elem :=
  ((lanesOf (selM f s)).map fun l => (List.range (szBytes f / 4)).map fun j =>
    ({ lane := l, va := (s.src32 f.a 0 + f.off.signExtend 32 + BitVec.ofNat 32 (4 * lanes * j + 4 * l)).setWidth 64
       size := 4, reg := j
       data := if store then (s.G.vregOf s.cur.2 (f.d.toNat + j) l).setWidth 256 else 0 } : Elem)).flatten

/-- R208. -/
def execLdsx (f : MForm) (s : State) : Out :=
  memInstr f s (s.issueMem (selM f s) (s.newOp f 0x93 .load) (blockElems f s false))

/-- R208. -/
def execStsx (f : MForm) (s : State) : Out :=
  memInstr f s (s.issueMem (selM f s) (s.newOp f 0x94 .store) (blockElems f s true))

/-- AOP and the 8-bit offset of an atomic (R60). -/
def aopOf (f : MForm) : Nat := fldN f.off 8 4
@[inherit_doc aopOf] def aoff (f : MForm) : BitVec 8 := fld f.off 0 8

/-- The operand of an atomic in lane l: an immediate becomes its exact value in FADD, FMIN and FMAX (R66, R70, R211). -/
def atomOperand (f : MForm) (s : State) (l : Nat) : W64 :=
  if f.sz = 3 then s.src64 f.b l
  else if [1, 11, 12].contains (aopOf f) then BitVec.ofNat 64 (s.srcF f.b l)
  else (s.src32 f.b l).setWidth 64

/-- The elements of an atomic: B is the operand or compare value, D the new value of CAS (R70, R211). -/
def atomElems (f : MForm) (s : State) (addr : Nat → W64) : List Elem :=
  (lanesOf (selM f s)).map fun l =>
    { lane := l, va := addr l, size := szBytes f
      data := (atomOperand f s l).setWidth 256
      swap := (s.G.dataOf s.cur.2 f.d.toNat (regCount (szBytes f)) l).setWidth 64 }

/-- R211. -/
def execAtoms (f : MForm) (s : State) : Out :=
  memInstr f s (s.issueMem (selM f s) (s.newOp f 0x92 (.atomic (aopOf f)))
    (atomElems f s fun l => (s.src32 f.a l + (aoff f).signExtend 32).setWidth 64))

/-! ### Global memory (R209 to R211, R217) -/

/-- R209. -/
def execLd (f : MForm) (s : State) : Out :=
  memInstr f s (s.issueMem (selM f s) (s.newOp f 0xA0 .load) (laneElems f s (glbAddr f s) false))

/-- R209. -/
def execSt (f : MForm) (s : State) : Out :=
  memInstr f s (s.issueMem (selM f s) (s.newOp f 0xA1 .store) (laneElems f s (glbAddr f s) true))

/-- R211. -/
def execAtom (f : MForm) (s : State) : Out :=
  memInstr f s (s.issueMem (selM f s) (s.newOp f 0xA2 (.atomic (aopOf f)))
    (atomElems f s fun l => s.src64 f.a l + (aoff f).signExtend 64))

/-- The one element of SLD and SST, charged to the split's lowest selected lane (R210). -/
def oneElem (f : MForm) (s : State) (store : Bool) : List Elem :=
  [{ lane := lowest (selM f s), va := glbAddr f s s.lane0, size := szBytes f
     data := if store then (s.G.sreg s.cur.2 f.d.toNat).setWidth 256 else 0 }]

/-- R210. The destination of a load issued in trap mode is the trap bank's s56 to s63, numbered 120 to 127 (R95). -/
def execSld (f : MForm) (s : State) : Out :=
  let d := if s.G.trapm && decide (56 ≤ f.d.toNat) then f.d.toNat + 64 else f.d.toNat
  memInstr f s (s.issueMem (selM f s) { s.newOp f 0xA3 .load with d := d, toS := true } (oneElem f s false))

/-- R210. -/
def execSst (f : MForm) (s : State) : Out :=
  memInstr f s (s.issueMem (selM f s) (s.newOp f 0xA4 .store) (oneElem f s true))

/-- The elements of DFILL: an s base acts once for the split (R200, R217). -/
def fillElems (f : MForm) (s : State) : List Elem :=
  match f.a with
  | .s _ => oneElem { f with sz := 3 } s true
  | _ => laneElems { f with sz := 3 } s (glbAddr f s) true

/-- R217. -/
def execDfill (f : MForm) (s : State) : Out :=
  memInstr f s (s.issueMem (selM f s) (s.newOp f 0xAB (.fill (decide (f.b = .imm 1)))) (fillElems f s))

/-! ### Fences and cache control (R212 to R216) -/

/-- R212, R205, R206. -/
def execFence (f : MForm) (s : State) : Out :=
  if selM f s = 0 then go s.retire
  else if !s.S.acqs.isEmpty then go s.stall
  else
    let scope := f.scope.toNat
    match if 2 ≤ f.ord.toNat then s.releaseWait scope (selM f s) else none with
    | some t => go t
    | none =>
      if s.G.quiet (scopePaths scope) then
        go (if f.ord.toNat % 2 = 1 ∧ 4 ≤ scope then s.l1Flush s.G.core else s).retire
      else go s.stall

/-- An operation of a group that writes, as FCLR and ENQ loads do, and has not been performed. -/
def MemOp.pendingStore (o : MemOp) : Bool :=
  o.elems.any fun e => (o.kind != .load || e.win == 11 || e.win == 14)
    && match e.stage with | .todo | .released _ _ | .sent _ => true | _ => false

/-- Whether a core lies within a scope of another (R265). -/
def inScope (scope core c : Nat) : Bool :=
  match scope with
  | 0 | 1 => false
  | 2 => c == core
  | 3 => clusterOf c == clusterOf core
  | _ => true

/-- A group's store in scope that a serialise request waits for (R213). -/
def State.serialises (s : State) (scope : Nat) (o : MemOp) : Bool :=
  (match o.owner with | .group _ _ => true | _ => false) && inScope scope s.G.core o.core && o.pendingStore

/-- R213: the first issue sends the serialise request, which takes in every store accepted before it. -/
def execFenceh (f : MForm) (s : State) : Out :=
  let scope := f.scope.toNat
  if selM f s = 0 then go s.retire
  else
    let t : State := if s.S.wait = .stall then s else
      { s with mops := s.mops.map fun o => if s.serialises scope o then { o with fenced := true } else o }
    if (t.mops.any fun o => o.fenced && t.serialises scope o) || !t.G.quiet (scopePaths scope) then go t.stall
    else go (if 4 ≤ scope then t.l1Flush t.G.core else t).retire

/-- R214: it waits for the group's scratchpad stores and makes register writes visible to the Lathe. -/
def execOpfence (f : MForm) (s : State) : Out :=
  if selM f s = 0 then go s.retire
  else if (s.mops.any fun o => (match o.owner with | .group g _ => g == s.cur.1 | _ => false) && o.scratch && o.pendingStore) then go s.stall
  else go (s.modG fun g => { g with unfenced := [], unfencedSpm := [] }).retire

/-- R215: window bits and bits 63:60 are ignored, and so is an address that does not translate. -/
def execInvl1 (f : MForm) (s : State) : Out :=
  go ((lanesOf (selM f s)).foldl (fun t l =>
    match t.deviceLoc t.G.ctx (BitVec.ofNat 64 (glbAddr f s l).toNat &&& 0x00FFFFFFFFFFFFFF) with
    | some (loc, _) => t.l1Drop t.G.core loc
    | none => t) s).retire

/-- Whether bytes of this device lie in a range that MAP exported to a context (R363). -/
def State.exported (s : State) (ctx a n : Nat) : Bool :=
  (s.ctx? ctx).any fun c => c.exports.any fun r => decide (r.1 ≤ a) && decide (a + n ≤ r.1 + r.2)

/-- Whether a word of a location's line holds no value (R192). -/
def State.lineDeferred (s : State) (l : Loc) : Bool := (List.range 16).any fun i => s.tag (l.line.add (8 * i)) != 0

/-- A line of a peer is asked for: the reads that will bring it into the issuing core's L1, which no path counts and no register receives (R216). -/
def State.prefetchPeer (s : State) (l : Nat) (va : W64) (loc : Loc) : State :=
  let o : MemOp := { id := s.nextId, owner := .group s.cur.1 s.cur.2, ctx := s.G.ctx, opc := 0xAA, sz := 5, cluster := clusterOf s.G.core, core := s.G.core
                     elems := (List.range 4).map fun j =>
                       { ({ lane := l, va := va, size := 32, reg := j, drop := true } : Elem) with loc := loc.line.add (32 * j), req := lineCode loc } }
  { s.fresh with mops := s.mops ++ [o] }

/-- R216: a line that a PLAIN load would allocate may enter L1; a line with a deferred word that is not a value is left alone. -/
def execPref (f : MForm) (s : State) : Out :=
  go ((lanesOf (selM f s)).foldl (fun t l =>
    if fldN (glbAddr f s l) 56 8 ≠ 0 then t
    else
      match t.deviceLoc t.G.ctx (glbAddr f s l) with
      | some (loc, p) =>
        if pteAllows p .load 0 && t.caches loc (bitAt p 37) && !t.lineDeferred loc then
          match t.selfLoc loc with
          | .mem a => if loc == .mem a || t.exported t.G.ctx a 1 then t.l1Fill t.G.core loc (t.l1Bytes loc) else t
          | _ => t.prefetchPeer l (glbAddr f s l) loc
        else t
      | none => t) s).retire

/-! ### Requests at home (R182, R202, R204, R264) -/

/-- The operation of a name. -/
def State.mop? (s : State) (id : Nat) : Option MemOp := s.mops.find? (·.id == id)

/-- The state with one operation changed. -/
def State.modOp (s : State) (id : Nat) (f : MemOp → MemOp) : State :=
  { s with mops := s.mops.map fun o => if o.id = id then f o else o }

/-- An operation with the element of a lane and register changed. -/
def MemOp.modElem (o : MemOp) (e : Elem) (f : Elem → Elem) : MemOp :=
  { o with elems := o.elems.map fun x => if x.lane = e.lane ∧ x.reg = e.reg then f x else x }

/-- Elements of operations that homes have performed since the state before. -/
def State.performedSince (before s : State) : List (MemOp × Elem) :=
  if before.mops == s.mops then []
  else (s.mops.map fun o => match before.mop? o.id with
    | none => []
    | some p => (o.elems.filter fun e => e.isPerformed && p.elems.any fun x => x.lane == e.lane && x.reg == e.reg && !x.isPerformed).map fun e => (o, e)).flatten

/-- Whether two locations are one byte of two scratchpads of a cluster, one of them reached by a MCAST (R184). -/
def mcastMeets (x e : Elem) : Bool :=
  match x.loc, e.loc with
  | .spm c a, .spm d b => (x.win == 13 || e.win == 13) && clusterOf c == clusterOf d && decide (a < b + e.size) && decide (b < a + x.size)
  | _, _ => false

/-- Whether two elements reach a common byte; one parked on its page is compared by its address without window bits (R186). -/
def State.near (s : State) (x e : Elem) : Bool :=
  match x.stage with
  | .pageFault | .writeProtect => (x.va.toNat % 2 ^ 56 < e.va.toNat % 2 ^ 56 + e.size) && (e.va.toNat % 2 ^ 56 < x.va.toNat % 2 ^ 56 + x.size)
  | _ => (s.selfLoc x.loc).overlaps x.size (s.selfLoc e.loc) e.size || mcastMeets x e

/-- Whether two elements lie at one slice of this device (R188). -/
def State.sameSlice (s : State) (x e : Elem) : Bool :=
  match s.selfLoc x.loc, s.selfLoc e.loc with
  | .mem _, .mem _ => s.waiterTable x.loc == s.waiterTable e.loc
  | _, _ => false

/-- Whether a store that a FENCEL has found on its way keeps its place before what its cluster sends to the slice afterwards (R213, R349). -/
def State.onItsWay (s : State) (o p : MemOp) (x e : Elem) : Bool :=
  p.leftBy != 0 && decide (p.leftBy ≤ o.id) && x.stage == .todo && x.parkedAt == 0 && clusterOf p.core == clusterOf o.core && s.sameSlice x e

/-- Whether two elements reach one line of a peer (R204). -/
def State.sameRemote (s : State) (x e : Elem) : Bool :=
  match s.selfLoc x.loc with
  | .peer _ _ => lineCode x.loc == lineCode e.loc
  | _ => false

/-- Whether an earlier element keeps a later one from its home: in program order, on the same bytes or on its way to the same line of a
peer (R186, R204, R264); of one host requester, any write (R269); of one peer, a packet for the same line (R204). -/
def State.blocksLater (s : State) (o p : MemOp) (x e : Elem) : Bool :=
  let unsent := match x.stage with | .todo | .released _ _ => true | _ => false
  let pending := match x.stage with
    | .todo | .released _ _ | .waiting _ | .held | .pageFault | .writeProtect | .remoteWait | .sent _ => true
    | _ => false
  match o.owner, p.owner with
  | .group _ _, .group _ _ => (o.past.contains p.id && ((pending && s.near x e) || (unsent && s.sameRemote x e))) || s.onItsWay o p x e
  | .host r, .host q => r == q && p.kind != .load && pending
  | .peer a, .peer b => a.src == b.src && unsent && x.loc.line == e.loc.line
  | _, _ => false

/-- Whether an element is blocked by an earlier one. -/
def State.blocked (s : State) (o : MemOp) (e : Elem) : Bool :=
  (s.mops.takeWhile (·.id != o.id)).any fun p => p.elems.any fun x => s.blocksLater o p x e

/-- Whether an element that was released comes before another: on the same bytes, or both find a suspended word of one slice (R32, R185, R193). -/
def State.releasedFirst (s : State) (x e : Elem) : Bool :=
  (s.selfLoc x.loc).overlaps x.size (s.selfLoc e.loc) e.size
    || (x.dpage && e.dpage && s.tag x.loc == 1 && s.tag e.loc == 1 && s.waiterTable x.loc == s.waiterTable e.loc)

/-- Whether an element of an operation waits for a lower lane's to the same bytes, where one of the two goes through MCAST and travels by
itself (R46, R184). -/
def State.laneHeld (s : State) (o : MemOp) (e : Elem) : Bool :=
  o.kind == .store && o.elems.any fun x => decide (x.lane < e.lane) && (x.win == 13) != (e.win == 13) && !x.isPerformed && s.near x e

/-- Whether an element would park on a deferred word: under suspension, or under evaluation by another (R193). -/
def State.wouldPark (s : State) (o : MemOp) (e : Elem) : Bool :=
  let l := s.decidingWord o e
  e.dpage && (s.tag l == 1 || (s.tag l == 2 && !inChain o.evc (s.num (l.add 6) 2)))

/-- Whether the accesses of splits that a JOIN merged are performed, so that one of the merged split may be (R267), and so are the loads that its
split has passed, unless it would only park (R202). -/
def State.inTurn (s : State) (o : MemOp) (e : Elem) : Bool :=
  (s.mops.all fun p => !o.behind.contains p.id || p.elems.all (·.isPerformed))
    && (s.wouldPark o e || s.mops.all fun p => !(p.passing && p.owner == o.owner && decide (p.id < o.id)))

/-- Whether an element may be performed now (R182, R185, R264, R269): its request holds its entry (R319), and those released, or parked on a
page that was being migrated (R312), go in the order of parking. -/
def State.performable (s : State) (o : MemOp) (e : Elem) : Bool :=
  (match e.stage with
    | .todo => e.parkedAt = 0 || !(s.mops.any fun p => p.elems.any fun x =>
        x.stage == .todo && decide (0 < x.parkedAt) && decide (x.parkedAt < e.parkedAt) && !s.blocked p x)
    | .released n _ => !(s.mops.any fun p => p.elems.any fun x =>
        match x.stage with
        | .released m _ => decide (m < n) && s.releasedFirst x e
        | _ => false)
      && !(s.engineWaits.any fun w => decide (w.2.1 < n) && e.words.any fun x => s.selfLoc x == w.2.2)
    | _ => false)
  && (!o.takesTx || s.hasTx o.id e.req) && !s.blocked o e && !s.laneHeld o e && s.inTurn o e

/-- Whether a store of the issuing split has still to leave for its home: it waits for an entry, or for an earlier access to its bytes (R186, R319). -/
def State.buffered (s : State) (o : MemOp) : Bool :=
  s.S.past.contains o.id && o.pendingStore && o.elems.any fun e => e.stage == .todo && ((o.takesTx && !s.hasTx o.id e.req) || s.blocked o e)

/-- R213: it completes once the earlier stores of the split, those before its divergence among them, are on their way to their homes. -/
def execFencel (f : MForm) (s : State) : Out :=
  if selM f s = 0 then go s.retire
  else if s.mops.any s.buffered then go s.stall
  else
    let mark (o : MemOp) : MemOp :=
      if s.S.past.contains o.id && o.pendingStore then { o with fenced := true, leftBy := if o.leftBy = 0 then s.nextId else o.leftBy } else o
    go ({ s with mops := s.mops.map mark } : State).retire

/-- The group of an operation, if it is a group's. -/
def MemOp.group (o : MemOp) : Option (Nat × Nat) :=
  match o.owner with
  | .group g i => some (g, i)
  | _ => none

/-- The outcome of an element enters its operation; one that a full waiter table refuses is tried again (R185), one that would change a tag of a
write-protected page parks and posts (R312). -/
def State.record (s : State) (o : MemOp) (e : Elem) : Perf → State
  | .val x => s.modOp o.id fun p => p.modElem e fun y => { y with stage := .performed x, replyAt := s.tick + 1 }
  | .later => s
  | .reading code => s.modOp o.id fun p => p.modElem e fun y => { y with stage := .sent code }
  | .fault c => s.modOp o.id fun p => { p.modElem e fun y => { y with stage := .done } with faults := p.faults ++ [recordOf o e c] }
  | .park =>
    let order := match e.stage with | .released n _ => if s.tag e.loc = 1 then n else s.nextId | _ => s.nextId
    if s.waiterFull e.loc then s
    else s.fresh.modOp o.id fun p =>
      { p.modElem e fun y => { y with stage := .waiting order, dpage := e.dpage } with since := if p.since = 0 then s.clk else p.since }
  | .protect =>
    let t := s.postFault (clusterOf o.core) o.ctx e.va (o.atype e.win) e.win (if o.group.isSome then 0 else 3) o.core ((o.group.map fun x => (s.grp x.1).slot).getD 0) true
    t.fresh.modOp o.id fun p => p.modElem e fun y => { y with stage := .writeProtect, parkedAt := t.nextId, txAt := t.nextId }

/-- A read of poisoned bytes by a group is consumed, and nothing is delivered (R335). -/
def State.consumeElem (s : State) (o : MemOp) (e : Elem) (g : Nat) : State :=
  (s.consumeUE g .ue o.pc).modOp o.id fun p => p.modElem e fun y => { y with drop := true }

/-- A shadow's element: a digest instead of an effect (R341); what it reads for its result it may consume poisoned (R335). -/
def State.performShadow (s : State) (o : MemOp) (e : Elem) (g : Nat) : State :=
  let reads : Bool := match o.kind with | .atomic _ => true | _ => e.win == 11
  let old : BitVec 256 := if reads then valOf (s.readLoc e.loc e.size) else 0
  let t := (s.addHash g (digestOf o e)).record o e (.val old)
  if reads && s.poisoned e.loc e.size then t.consumeElem o e g else t

/-- The bytes that a group's scratchpad store is about to change are kept until its next OPFENCE (R214). -/
def State.keepSpm (s : State) (o : MemOp) (e : Elem) (g : Nat) : State :=
  match e.loc, o.kind with
  | .spm _ _, .load => s
  | .spm c x, _ =>
    s.modGroup g fun y => { y with unfencedSpm := (List.range e.size).foldl (fun m i =>
      if m.any (·.1 == spmKey c (x + i)) then m else m.put (spmKey c (x + i)) (s.spm.read (spmKey c (x + i)))) y.unfencedSpm }
  | _, _ => s

/-- What a refused host load of n bytes returns: 0xFFFF_FFFF per 4 bytes (R199). -/
def onesOf (n : Nat) : Nat := 2 ^ (8 * n) - 1

/-- Whether an element is a PLAIN load that its core's L1 serves (R186). -/
def State.servedByL1 (s : State) (o : MemOp) (e : Elem) : Bool :=
  o.kind == .load && e.win == 0 && (match o.l1Core with | some c => s.l1Hit c e | none => false)

/-- Whether what an element would read here carries a poison mark: the element of the queue for an ENQ load (R191, R335). -/
def State.readsMark (s : State) (o : MemOp) (e : Elem) : Bool :=
  match o.kind with
  | .load => if e.win = 14 then s.enqMarked o.ctx e.loc e.size else s.poisoned e.loc e.size
  | .atomic _ => s.poisoned e.loc e.size
  | _ => false

/-- One element of a request at a home of this device; a group that reads a poisoned word consumes it (R335), and an ENQ operation of the
host that faults there is dropped, or returns 0 (R191). -/
def State.homeElem (s : State) (o : MemOp) (e : Elem) : State :=
  match o.group with
  | some (g, _) =>
    if shadows (s.grp g) o e then s.performShadow o e g
    else
      let hit := s.servedByL1 o e
      let bad := s.readsMark o e && !hit
      let r := (s.keepSpm o e g).perform o e
      let t := r.1.record o e r.2
      let t := if hit then t.modOp o.id fun p => p.modElem e fun y => { y with replyAt := 0 } else t
      let t := if e.win ≠ 0 ∨ o.opc = 0xA2 ∨ o.opc = 0xAB then t.l1Drop o.core e.loc else t
      match r.2 with
      | .val _ => if bad then t.consumeElem o e g else t
      | _ => t
  | none =>
    let bad := s.readsMark o e
    let host : Bool := match o.owner with | .host _ => true | _ => false
    let r := s.perform o e
    match r.2 with
    | .val _ =>
      if !bad then r.1.record o e r.2
      else if host then (r.1.record o e (.val (BitVec.ofNat 256 (onesOf e.size)))).post { type := 0x0C, ctx := o.ctx, addr := e.va }
      else (r.1.record o e r.2).modOp o.id fun p => p.modElem e fun y => { y with mark := true }
    | .fault _ => r.1.record o e (if host && e.win == 14 then .val 0 else r.2)
    | _ => r.1.record o e r.2

/-- Whether each element of an operation acts on what the one before it left, so that two that reach a common byte cannot share a packet:
a packet holds a byte of the line once, and every lane's operation is performed (R46; log 77). -/
def MemOp.actsInTurn (o : MemOp) (e : Elem) : Bool :=
  match o.kind with
  | .atomic _ => true
  | .load => e.win == 11 || e.win == 14
  | _ => 2 ≤ e.win && e.win != 11 && e.win != 12

/-- Whether an element is a MCAST store to global memory (R184). -/
def MemOp.mcasts (o : MemOp) (e : Elem) : Bool := o.kind == .store && e.win == 13 && !o.scratch

/-- Whether two elements fit one packet: one window, for CAS one half of the line (R362), for a multicast write one line of the address space
that each member translates (R366). -/
def MemOp.fits (o : MemOp) (e x : Elem) : Bool :=
  e.win == x.win && (o.kind != .atomic 10 || e.loc.offset / 64 == x.loc.offset / 64)
    && (!o.mcasts e || e.va.toNat % 2 ^ 56 / 128 == x.va.toNat % 2 ^ 56 / 128)

/-- Maximal runs of elements that fit one packet, in ascending lane order, with no byte that they would have to share in turn. -/
def windowRuns (o : MemOp) : List Elem → List (List Elem)
  | [] => []
  | e :: es =>
    match windowRuns o es with
    | (x :: xs) :: rs =>
      if o.fits e x ∧ !(o.actsInTurn e && (x :: xs).any fun y => e.loc.overlaps e.size y.loc y.size) then (e :: x :: xs) :: rs
      else [e] :: (x :: xs) :: rs
    | rs => [e] :: rs

/-- Packet type of an operation (R361). -/
def packetType (o : MemOp) : Nat :=
  match o.kind with
  | .load => 1
  | .store | .fill _ => 2
  | .atomic a => 0x10 + a

/-- The packet of a run of elements for a peer's line (R360, R362); CAS carries the compare values in the upper half. -/
def State.packetOf (s : State) (o : MemOp) (peer port tag : Nat) (es : List Elem) : Packet :=
  let e := es.headD {}
  let cas := o.kind = .atomic 10
  let half (a : Nat) : Nat := if cas then a % 64 else a % 128
  let place (line : List Byte) (at' : Nat) (bs : List Byte) : List Byte := line.take at' ++ bs ++ line.drop (at' + bs.length)
  let blank : List Byte := List.replicate 128 0
  let data := es.foldl (fun ln x =>
    if cas then place (place ln (half x.loc.offset) (bytesOf x.size x.swap)) (64 + half x.loc.offset) (bytesOf x.size x.data)
    else if o.kind = .load then ln else place ln (half x.loc.offset) (bytesOf x.size x.data)) blank
  { type := BitVec.ofNat 6 (packetType o), src := BitVec.ofNat 9 (s.peer.getD 0), dst := BitVec.ofNat 10 peer
    ctx := BitVec.ofNat 16 o.ctx, tag := BitVec.ofNat 11 tag, win := BitVec.ofNat 4 e.win, sz := BitVec.ofNat 3 o.sz
    ord := BitVec.ofNat 2 o.ord, scope := BitVec.ofNat 3 o.scope, budget := s.budget o.deadline o.late, line := BitVec.ofNat 45 (e.loc.offset / 128)
    be := es.foldl (fun m x => m ||| enables (x.loc.offset % 128) x.size) 0, data := data, port := port }

/-- The next failed acknowledgement of a group (R100). -/
def Group.recordFailure (g : Group) (peer stat : Nat) (va : W64) : Group :=
  if bitAt g.rflt 0 then { g with rflt := if fldN g.rflt 48 16 = 0xFFFF then g.rflt else g.rflt + 0x1000000000000 }
  else { g with rflt := BitVec.ofNat 64 (1 + 2 * (peer % 512) + 2 ^ 10 * (stat % 64) + 2 ^ 16 * fldN va 0 32) }

/-- 256 unspecified bits (R13). -/
def State.freeWide (s : State) (k : Nat) : BitVec 256 :=
  Config.free64 s.tick (4 * k) ++ Config.free64 s.tick (4 * k + 1) ++ Config.free64 s.tick (4 * k + 2) ++ Config.free64 s.tick (4 * k + 3)

/-- What a host requester gets of an element that a peer's home refuses with DFAIL, DCONF or WINF: ones, and firmware an event (R199). -/
def State.hostFails (o : MemOp) (es : List Elem) (stat : Nat) : Bool :=
  (match o.owner with | .host _ => true | _ => false) && (stat == 6 || stat == 9 || stat == 0x0A) && !es.isEmpty

/-- The elements of one packet end with a status other than OK: unspecified values, and one failed acknowledgement in SR_RFLT, with the lowest
lane's address (R100, R204, R345, R363); a line that PREF asked for is not fetched (R216), and a host access is refused (R199). -/
def State.failElems (s : State) (o : MemOp) (es : List Elem) (peer stat : Nat) : State :=
  let refused := State.hostFails o es stat
  let t := s.modOp o.id fun p => es.foldl (fun p e =>
    p.modElem e fun y => { y with stage := .performed (if refused then BitVec.ofNat 256 (onesOf e.size) else s.freeWide (30000 + 512 * o.id + 8 * e.lane + e.reg)) }) p
  let t := if refused then t.post { type := 0x0C, ctx := o.ctx, addr := (es.headD {}).va } else t
  match o.group, es with
  | some (g, _), e :: _ => if o.opc = 0xAA then t else t.modGroup g fun y => y.recordFailure peer stat e.va
  | _, _ => t

/-- An element of a remote request that ends so (R345, R356). -/
abbrev State.failElem (s : State) (o : MemOp) (e : Elem) (peer stat : Nat) : State := s.failElems o [e] peer stat

/-- A PLAIN load that the core's L1 serves with bytes of a peer's line (R186). -/
def State.hitElem (s : State) (o : MemOp) (e : Elem) : State :=
  let r := s.plainLoad o.core e
  (r.1.record o e (.val (valOf r.2))).modOp o.id fun p => p.modElem e fun y => { y with replyAt := 0 }

/-- Elements of one line of a peer: refused, parked or sent, by the peer's state (R345, R361). A PLAIN store updates the line that its core's
L1 holds (R186). -/
def State.sendElems (s : State) (o : MemOp) (peer : Nat) (es : List Elem) : State :=
  let a := (es.headD {}).loc.offset
  let posted : Bool := match o.kind with | .store | .fill _ => true | _ => false
  let refused (stat : Nat) : State := (windowRuns o es).foldl (fun t run => t.failElems o run peer stat) s
  match (SMap.get .absent s.peers peer), s.plane peer a with
  | .recovering, _ =>
    if posted then refused 1
    else s.fresh.modOp o.id fun p =>
      { es.foldl (fun p e => p.modElem e fun y => { y with stage := .remoteWait, txAt := s.nextId }) p with since := s.clk }
  | .fenced, _ | .absent, _ => refused 2
  | _, none => s
  | _, some port =>
    (windowRuns o es).foldl (fun t run =>
      match t.freshTag port with
      | none => t
      | some tag =>
        let t := if o.kind = .store then run.foldl (fun t e => t.storeL1 o e) t else if (run.headD {}).win = 0 ∧ o.kind = .load ∧ !(run.headD {}).asked then t.perf o.core 7 else t
        let t := run.foldl (fun t e => t.notePinned e.loc) t
        { t.modOp o.id fun p => { run.foldl (fun p e => p.modElem e fun y => { y with stage := .sent (2048 * port + tag), nofill := false, asked := true }) p with
            since := if o.group.isNone then s.clk else p.since } with
          sent := t.sent ++ [t.packetOf o peer port tag run] }) s

/-- MCAST stores to one line of global memory: one multicast packet to the group that the page names, on the plane of the translated line; no
member, no effect (R184, R354, R366). LINE holds bits 51:7 of the offset that each member translates: how bits 55:52 travel the spec does not
say (log 100). -/
def State.sendMcast (s : State) (o : MemOp) (es : List Elem) : State :=
  let off := (es.headD {}).va.toNat % 2 ^ 56
  let page := match s.walk o.ctx (BitVec.ofNat 64 off) with | .leaf p _ => p | _ => 0
  let gid := fldN page 24 9
  match SMap.get [] s.mcast gid, s.plane gid (fldN page 38 26 * 0x10000 + off % pteBytes page) with
  | [], _ => es.foldl (fun t e => t.record o e (.val 0)) s
  | _, none => s
  | _, some port =>
    match s.freshTag port with
    | none => s
    | some tag =>
      { s.modOp o.id fun p => es.foldl (fun p e => p.modElem e fun y => { y with stage := .sent (2048 * port + tag) }) p with
        sent := s.sent ++ [{ s.packetOf o gid port tag es with type := 3, line := BitVec.ofNat 45 (off / 128) }] }

/-- The status with which a home answers a cause (R363). -/
def statusOf : Cause → Nat
  | .perm => 5 | .winf => 6 | .align => 6 | .dfail => 9 | .dconf | .dself => 0x0A | .qovf => 0x0B | _ => 0x0C

/-- An element whose page names this device's own peer number is turned around: with the status of one that its home refuses (R356, R363); a
non-PLAIN access leaves no line in its core's L1 (R186), and a group consumes a poison mark (R335). -/
def State.turnElem (s : State) (o : MemOp) (e : Elem) (a : Nat) : State × Option Nat :=
  if !s.exported o.ctx a e.size then (s, some 5)
  else
    let e' : Elem := { e with loc := .mem a, dpage := e.words.any fun w => s.tag w != 0 }
    match s.perform { o with evc := 0, dplace := 1 } e' with
    | (t, .fault c) => (t, some (statusOf c))
    | (t, .val x) =>
      let u := t.record o e' (.val x)
      let u := match o.l1Core with | some c => if e.win ≠ 0 ∨ o.opc = 0xA2 ∨ o.opc = 0xAB then u.l1Drop c e.loc else u | none => u
      (match o.group with | some (g, _) => if s.readsMark o e' && !s.servedByL1 o e' then u.consumeElem o e g else u | none => u, none)
    | (t, r) => (t.record o e' r, none)

/-- The elements of one request so turned around; those that its home refuses make one failed acknowledgement (R100, R204). -/
def State.turnRun (s : State) (o : MemOp) (peer : Nat) (es : List Elem) : State :=
  let one (r : State × List (Elem × Nat)) (e : Elem) : State × List (Elem × Nat) :=
    if !r.1.performable o e then r
    else match r.1.turnElem o e e.loc.offset with
      | (t, some stat) => (t, r.2 ++ [(e, stat)])
      | (t, none) => (t, r.2)
  let r := es.foldl one (s, [])
  match r.2 with
  | [] => r.1
  | x :: _ => r.1.failElems o (r.2.map (·.1)) peer x.2

/-! ### The end of an operation (R202, R203, R206, R318) -/

/-- A value lands in a lane's registers, unless its delivery is dropped (R203, R207, R210). -/
def Group.land (g : Group) (o : MemOp) (e : Elem) (x : BitVec 256) (split : Nat) : Group :=
  if e.drop || (o.toS && e.dropRegs.contains o.d) then g
  else if o.toS then
    if 64 ≤ o.d then { g with bank := SMap.set 0 g.bank (o.d - 64) (fld x 0 64) }
    else { g.keep split o.d (SMap.get 0 g.s o.d) with s := SMap.set 0 g.s o.d (fld x 0 64) }
  else
    (List.range (regCount e.size)).foldl (fun g j =>
      if o.d + e.reg + j < 16 * g.nblk ∧ !e.dropRegs.contains (o.d + e.reg + j) then g.setV (o.d + e.reg + j) e.lane (fld x (32 * j) 32) else g) g

/-- The answer to a host load, or nothing for a store (R199). -/
def State.reply (s : State) (requester : Nat) (x : BitVec 256) : State := { s with replies := s.replies ++ [(requester, x)] }

/-- A host access that its page, its size or alignment, or its home has refused: a load returns ones, a store is dropped, firmware gets an event (R199); a dropped append is no refusal (R191). -/
def State.refuseHost (s : State) (requester : Nat) (o : MemOp) : State :=
  match o.faults.find? (·.cause != .qovf) with
  | none => s
  | some r =>
    let t := s.post { type := 0x0C, ctx := o.ctx, addr := r.addr }
    if o.kind = .load then t.reply requester (BitVec.ofNat 256 (onesOf (2 ^ o.sz))) else t

/-- One performed element is delivered. -/
def State.deliver (s : State) (o : MemOp) (e : Elem) : State :=
  match e.stage with
  | .performed x =>
    let t := s.modOp o.id fun p => p.modElem e fun y => { y with stage := .done }
    match o.kind, o.owner with
    | .load, .group g i | .atomic _, .group g i => t.modGroup g fun y => y.land o e x i
    | .load, .host r => t.reply r x
    | _, .peer _ => s
    | _, _ => t
  | _ => s

/-- How many of n things that follow each other are done in one step: an unspecified choice of one or more. -/
def State.freePart (s : State) (k n : Nat) : Nat := if n ≤ 1 then n else 1 + Config.choose s.tick k % n

/-- The slice whose reply carries an element's result, and the cluster, or 24 for the I/O die, to which it goes (R350); none for a result that
came from elsewhere, or for an answer to a peer that is not complete. -/
def State.replyRoute (s : State) (o : MemOp) (e : Elem) : Option (Nat × Nat) :=
  match e.stage, e.loc with
  | .performed _, .mem _ =>
    if e.replyAt = 0 || (o.from'.isSome && !o.elems.all (·.isPerformed)) then none
    else (s.waiterTable e.loc).map fun t => (t.1, if o.group.isSome then clusterOf o.core else 24)
  | _, _ => none

/-- The step from which an element's reply is on its way: an answer to a peer takes all its elements with it. -/
def MemOp.replyFrom (o : MemOp) (e : Elem) : Nat := if o.from'.isSome then (o.elems.map (·.replyAt)).foldl max 0 else e.replyAt

/-- Whether the reply to a request is still behind another: replies of one slice to one cluster arrive in order, and none of the older one's
elements has arrived (R349, R350). -/
def State.replyBehind (s : State) (o : MemOp) (req : Nat) : Bool :=
  match o.elems.find? fun e => e.req == req && (s.replyRoute o e).isSome with
  | none => false
  | some e => s.mops.any fun p => p.elems.any fun x =>
      s.replyRoute p x == s.replyRoute o e && decide (p.replyFrom x < o.replyFrom e) && !(p.elems.any fun y => y.req == x.req && y.stage == .done)

/-- The answer to a peer's packet once its elements are performed: data and status (R361, R363). -/
def State.answer (s : State) (o : MemOp) (p : Packet) : Packet :=
  let bad := o.elems.any (·.mark)
  let stat := match o.faults with | r :: _ => statusOf r.cause | [] => if bad then 7 else 0
  let data := o.elems.foldl (fun ln e =>
    match e.stage with
    | .performed x => ln.take (e.loc.offset % 128) ++ bytesOf e.size x ++ ln.drop (e.loc.offset % 128 + e.size)
    | _ => ln) (List.replicate 128 (0 : Byte))
  { type := if o.kind = .store then 0x21 else 0x20, src := BitVec.ofNat 9 (s.peer.getD 0), dst := p.src.setWidth 10, ctx := p.ctx, tag := p.tag
    stat := BitVec.ofNat 6 stat, budget := s.budget o.deadline o.late, line := p.line, be := p.be, data := if o.kind = .store then [] else data, port := p.port }

/-- Paths of an operation on which every element is done are finished; the operation leaves when all are (R203, R206). -/
def State.retireOp (s : State) (id : Nat) : State :=
  match s.mop? id with
  | none => s
  | some o =>
    let isDone (e : Elem) : Bool := e.stage == .done
    let past := o.paths.filter fun p => o.elems.all fun e => Elem.path o e != p || isDone e
    match o.group with
    | none =>
      match o.owner with
      | .peer p =>
        if o.elems.all (·.isPerformed) && !(o.elems.any fun e => s.replyBehind o e.req) then
          { s with mops := s.mops.filter (·.id != id), sent := s.sent ++ [s.answer o p] }
        else s
      | .host r => if o.elems.all isDone then ({ s with mops := s.mops.filter (·.id != id) } : State).refuseHost r o else s
      | _ => s
    | some (g, _) =>
      let t := s.modGroup g fun x => past.foldl (fun x p => x.finish id p) x
      if o.elems.all isDone && !o.hold then
        let t : State := { t with mops := t.mops.filter (·.id != id) }
        let t := t.modGroup g fun x => x.everySplit fun p => { p with acqs := p.acqs.erase id, past := p.past.erase id }
        if (o.ord % 2 = 1 ∧ 4 ≤ o.scope) ∨ (o.elems.any (·.acq) ∧ (o.kind = .load ∨ o.faults.any (·.cause == .dfail))) then t.l1Flush (t.grp g).core else t
      else t

/-- Whether the split of a load whose lanes wait on deferred words may pass it, in mid-clause: the spec does not say how far it goes on (log 101). -/
def State.mayPass (s : State) (o : MemOp) (g i : Nat) : Bool :=
  let waits (e : Elem) : Bool := e.dpage && match e.stage with | .waiting _ => true | _ => false
  o.kind == .load && o.ord == 0 && (o.opc == 0xA0 || o.opc == 0xA3) && o.elems.all (fun e => o.passed e || waits e) && o.elems.any waits
    && decide (1 < ((s.grp g).split i).left) && Config.choose s.tick (8960 + o.id) % 2 == 1

/-- The younger loads of a split are given up, and its signature stands as it did when an older one issued, which traps (R202, R326). -/
def State.rollBack (s : State) (g i : Nat) (o : MemOp) : State :=
  let younger := s.mops.filter fun q => q.owner == o.owner && decide (o.id < q.id) && q.opc != 0xAA
  let t := younger.foldl (fun t q =>
    (t.modOp q.id fun p => { p with hold := false, passing := false, faults := [], elems := p.elems.map fun e => { e with stage := .done } }).retireOp q.id) s
  t.modGroup g fun x => x.modSplit i fun p => { p with wait := .none, sigb := o.sigb }

/-- An instruction that waited for its lanes retires, is passed, or traps once every other lane has completed or parked (R202). It has issued
before (R321, R324). -/
def State.settleOp (s : State) (id : Nat) : State :=
  match s.mop? id with
  | none => s
  | some o =>
    match o.group with
    | none => s.retireOp id
    | some (g, i) =>
      if !o.hold && !(o.passing && !o.faults.isEmpty) then s.retireOp id
      else if o.faults.isEmpty then
        if o.elems.all o.passed then (((s.modOp id fun p => { p with hold := false }).passWord g i)).retireOp id
        else if s.mayPass o g i then (((s.modOp id fun p => { p with hold := false, passing := true }).passWord g i)).retireOp id
        else s.retireOp id
      else
        let parked (e : Elem) : Bool :=
          match e.stage with | .waiting _ | .held | .pageFault | .writeProtect | .remoteWait => true | _ => false
        if o.elems.all fun e => parked e || e.stage == .done then
          let gone := maskOf fun l => o.elems.any fun e => e.lane == l && parked e
          let t := s.modOp id fun p => { p with hold := false, passing := false, elems := p.elems.map fun e => { e with stage := .done } }
          let t := t.retireOp id
          (if o.passing then t.rollBack g i o else t).trapGroup g (memTrap o i gone)
        else s.retireOp id

/-- Elements of one request go to their home: in ascending lane order (R182); each is indivisible, and how many of them are performed in one
step is a free choice; lanes of other windows go apart from those of MCAST (R204). -/
def State.runHome (s : State) (o : MemOp) (es : List Elem) : State :=
  let e := es.headD {}
  match o.group.bind fun gi => if es.all (shadows (s.grp gi.1) o) then some gi.1 else none, e.loc with
  | none, .peer p _ =>
    if s.peer = some p then s.turnRun o p es
    else
      let hits := es.filter (s.servedByL1 o)
      (hits.foldl (fun t e => t.hitElem o e) s).sendElems o p (es.filter fun e => !s.servedByL1 o e)
  | some g, .peer _ _ => es.foldl (fun t e => t.performShadow o e g) s
  | sh, _ =>
    if o.mcasts e && sh.isNone then s.sendMcast o es
    else (es.take (s.freePart (8970 + e.req) es.length)).foldl (fun t e => if t.performable o e then t.homeElem o e else t) s

/-- The elements of one request that may be performed now are performed at home, in ascending lane order (R182). -/
def State.homeRequest (s : State) (op req : Nat) : State :=
  match s.mop? op with
  | none => s
  | some o =>
    let es := o.elems.filter fun e => e.req == req && s.performable o e
    if es.isEmpty then s
    else ((if es.any o.mcasts then windowRuns o es else [es]).foldl (fun t r => t.runHome o r) s).settleOp op

/-- HOME_ACCESS (R182): a request is performed at its home. -/
def execHomeAccess (op req : Nat) (s : State) : Out := go (s.homeRequest op req)

/-- The performed elements of one request are delivered, for the lanes of a mask (R203). -/
def State.deliverRequest (s : State) (op req : Nat) (land : Mask) : State :=
  match s.mop? op with
  | none => s
  | some o => ((o.elems.filter fun e => e.req == req && bitAt land e.lane).foldl (fun t e => t.deliver o e) s).settleOp op

/-- A reply that reaches a group with LATE marked late raises it; while a LATE is pending or handled it only counts (R330, R351). -/
def State.lateReply (s : State) (o : MemOp) (e : Elem) : State :=
  match o.group with
  | some (g, _) =>
    let x := s.grp g
    if s.lateNow o.deadline o.born o.late 0 && x.late && x.lateDue.isNone && !(x.pending.any (·.cause == .late)) && !(x.trapm && x.tcause == 0x19) && !o.scratch then
      s.modGroup g fun y => { y with lateDue := some e.va }
    else s
  | none => s

/-- MEM_REQUEST_COMPLETE (R203): the performed elements of one request land for the lanes of a mask, element by element (R42), once its reply
has arrived (R350). -/
def execMemRequestComplete (op req : Nat) (land : Mask) (s : State) : Out :=
  match (s.mop? op).bind fun o => (o.elems.find? fun e => e.req == req && bitAt land e.lane).map fun e => (o, e) with
  | none => go s
  | some (o, e) => go (if s.replyBehind o req then s else (s.lateReply o e).deliverRequest op req land)

end Sys2Proof.Machine
end

