-- ==== Sys2Proof/Machine/Copy.lean ====
section
/-! DEFINITION. The copy engine: opcodes 0xB0 to 0xB6, the entries of a chain, and in-network reductions (R218 to R229). -/

namespace Sys2Proof.Machine

open Sys2Proof

/-! ### Copy addresses (R218) -/

/-- Why the engine does not go on with an operation. -/
inductive Halt where
  /-- It waits: on a deferred word, a tag, a port or an acknowledgement. -/
  | waits
  /-- A page fault at this address: of a write, on a write-protected page. -/
  | parks (va : W64) (write wp : Bool)
  | fault (c : Cause) (addr : W64)
  /-- It consumed an uncorrectable error (R336). -/
  | ue
  deriving DecidableEq, Repr

/-- The window of a copy address (R178, R179). -/
def copyWin (a : W64) : Nat := if bitAt a 63 then fldN a 28 4 else fldN a 56 4

/-- A copy address with another window. -/
def withWin (a : W64) (w : Nat) : W64 :=
  if bitAt a 63 then (a &&& ~~~0xF0000000) ||| BitVec.ofNat 64 (w * 2 ^ 28)
  else (a &&& ~~~0x0F00000000000000) ||| BitVec.ofNat 64 (w * 2 ^ 56)

/-- The access that the engine makes for an operation. -/
def engineOp (c : CopyOp) (store : Bool) (a : W64) : MemOp :=
  { id := c.id, owner := .host 0, kind := if store then .store else .load, ctx := c.ctx, core := c.core, dplace := 1
    opc := (if bitAt a 63 then 0x90 else 0xA0) + store.toNat }

/-- Whether an engine's access that has been parked on a deferred word has its turn among those parked there (R193, R218). -/
def State.engineTurn (s : State) (id : Nat) (e : Elem) : Bool :=
  match s.engineWaits.find? fun w => w.1 == id && e.words.any fun x => s.selfLoc x == w.2.2 with
  | none => true
  | some w =>
    !(s.mops.any fun o => o.elems.any fun x => match x.stage with
      | .released n _ => decide (n < w.2.1) && x.words.any fun y => s.selfLoc y == w.2.2
      | _ => false) && !(s.engineWaits.any fun v => decide (v.2.1 < w.2.1) && v.2.2 == w.2.2)

/-- An access of an engine parks on a word, and keeps its place if it was parked there (R193). -/
def State.engineParks (s : State) (id : Nat) (l : Loc) : State :=
  if s.engineWaits.any fun w => w.1 == id && w.2.2 == l then s
  else { s.fresh with engineWaits := s.engineWaits.filter (·.1 != id) ++ [(id, s.nextId, l)] }

/-- An engine's access is performed at home, in the order of parking on a deferred word (R193, R218). -/
def State.enginePerform (s : State) (id : Nat) (o : MemOp) (e : Elem) : State × Perf :=
  if !s.engineTurn id e then (s, .later)
  else match s.perform o e with
    | (t, .park) => (t.engineParks id (s.selfLoc (s.decidingWord o e)), .park)
    | (t, r) => ({ t with engineWaits := t.engineWaits.filter (·.1 != id) }, r)

/-- One element at a copy address, checked and placed (R218, R299). -/
def State.copyElem (s : State) (c : CopyOp) (store : Bool) (a : W64) (n : Nat) (data : List Byte) :
    State × Except Halt (MemOp × Elem) :=
  let o := { engineOp c store a with deadline := s.deadlineOf (s.grp c.gid).qos, born := s.clk }
  let e : Elem := { va := if bitAt a 63 then BitVec.ofNat 64 (fldN a 0 32) else a, size := n
                    data := BitVec.ofNat 256 (natOfBytes data) }
  if bitAt a 63 ∧ fldN a 32 31 ≠ 0 then (s, .error (.fault .range a))
  else
    match (if bitAt a 63 then (s, s.placeScratch o (s.wgOf c.wg) e) else s.placeGlobal o ((if c.kind = .drain then 192 else 216) + clusterOf c.core) e) with
    | (t, .ok x) => (t, .ok (o, x))
    | (t, .fault k) => (t, .error (.fault k a))
    | (t, .parks wp) => (t, .error (.parks a store wp.isSome))

/-- The operation of a name. -/
def State.copy? (s : State) (id : Nat) : Option CopyOp := s.copies.find? (·.id == id)

/-- The state with an operation changed. -/
def State.setCopy (s : State) (c : CopyOp) : State :=
  { s with copies := s.copies.map fun x => if x.id = c.id then c else x }

/-- An operation stays as given, with the reads that it has sent (R218). -/
def State.keepCopy (s : State) (c : CopyOp) : State := s.setCopy { c with reads := ((s.copy? c.id).map (·.reads)).getD c.reads }

/-- What an operation knows of a read of a peer's bytes. -/
def State.noteRead (s : State) (id : Nat) (r : PeerRead) : State :=
  { s with copies := s.copies.map fun x =>
      if x.id = id then { x with reads := r :: x.reads.filter fun q => !(q.addr == r.addr && q.n == r.n) } else x }

/-- A read of a peer's bytes ends without them: unspecified values, and the failure in SR_RFLT (R100, R363). -/
def State.failRead (s : State) (id gid d stat : Nat) (va : W64) (n : Nat) : State × List Byte :=
  let bs := (List.range n).map fun i => (Config.free64 s.tick (40000 + va.toNat + i)).setWidth 8
  ((s.noteRead id { addr := va, n := n, data := bs }).modGroup gid fun g => g.recordFailure d stat va, bs)

/-- The engine reads n bytes of a peer (R218, R345, R356, R361): turned around, parked, refused, or asked for in a packet and waited for. -/
def State.peerRead (s : State) (c : CopyOp) (o : MemOp) (e : Elem) (d a : Nat) (va : W64) (n : Nat) : State × Except Halt (List Byte × Bool) :=
  let known := ((s.copy? c.id).map (·.reads)).getD []
  let fails (s : State) (stat : Nat) : State × Except Halt (List Byte × Bool) :=
    let r := s.failRead c.id c.gid d stat va n
    (r.1, .ok (r.2, false))
  match known.find? fun r => r.addr == va && r.n == n && (r.code.isSome || r.data.length == n) with
  | some r => (s, if r.code.isSome then .error .waits else .ok (r.data, r.mark))
  | none =>
    if s.peer = some d then
      if !s.exported c.ctx a n then fails s 5
      else
        match s.enginePerform c.id o { e with loc := .mem a, dpage := s.tag (.mem a) != 0 } with
        | (u, .val x) => (u.noteRead c.id { addr := va, n := n, data := bytesOf n x, mark := s.poisoned (.mem a) n }, .ok (bytesOf n x, s.poisoned (.mem a) n))
        | (u, .fault k) => fails u (statusOf k)
        | (u, _) => (u, .error .waits)
    else
      match SMap.get .absent s.peers d with
      | .recovering => (if known.any fun r => r.addr == va && r.n == n then s else s.noteRead c.id { addr := va, n := n, since := s.clk }, .error .waits)
      | .fenced | .absent => fails s 2
      | _ =>
        match s.sendRead c.ctx (copyWin va) d a n o.deadline with
        | some (t, code) => (t.noteRead c.id { addr := va, n := n, code := some code }, .error .waits)
        | none => (s, .error .waits)

/-- The engine reads n bytes at home; with them, whether they carry a poison mark (R218, R335). -/
def State.engineRead (s : State) (c : CopyOp) (a : W64) (n : Nat) : State × Except Halt (List Byte × Bool) :=
  if 1 < copyWin a then (s, .error (.fault .winf a))
  else
    match s.copyElem c false a n [] with
    | (t, .error h) => (t, .error h)
    | (t, .ok (o, e)) =>
      let t := t.modScreened c.gid (·.touch true false e.loc n)
      match e.loc with
      | .peer d p => t.peerRead c o e d p a n
      | _ =>
        match t.enginePerform c.id o e with
        | (u, .val x) => (u, .ok (bytesOf n x, t.poisoned e.loc n))
        | (u, .park) | (u, .later) | (u, .reading _) => (u, .error .waits)
        | (u, .protect) => (u, .error (.parks a false true))
        | (u, .fault k) => (u, .error (.fault k a))

/-- Several elements, read one after the other. -/
def State.engineReads (s : State) (c : CopyOp) : List (W64 × Nat) → State × Except Halt (List (List Byte × Bool))
  | [] => (s, .ok [])
  | (a, n) :: rest =>
    match s.engineRead c a n with
    | (t, .error h) => (t, .error h)
    | (t, .ok x) =>
      match t.engineReads c rest with
      | (u, .ok xs) => (u, .ok (x :: xs))
      | r => r

/-- A record or descriptor of n bytes as a number; a scratchpad one where the rule asks for it. A poisoned one is consumed (R336). -/
def State.engineRecord (s : State) (c : CopyOp) (a : W64) (n align : Nat) (scratch : Bool) : State × Except Halt Nat :=
  if scratch && !bitAt a 63 then (s, .error (.fault .range a))
  else if a.toNat % align ≠ 0 then (s, .error (.fault .align a))
  else
    match s.engineReads c ((List.range (n / 8)).map fun i => (a + BitVec.ofNat 64 (8 * i), 8)) with
    | (t, .error h) => (t, .error h)
    | (t, .ok xs) => if xs.any (·.2) then (t, .error .ue) else (t, .ok (natOfBytes (xs.map (·.1)).flatten))

/-- Bits lo+len-1:lo of a record. -/
abbrev recN (r lo len : Nat) : Nat := r / 2 ^ lo % 2 ^ len
/-- A signed field of a record. -/
def recI (r lo len : Nat) : Int := (BitVec.ofNat len (recN r lo len)).toInt

/-! ### Writes (R218, R219, R221) -/

/-- Opcode of a copy operation (R341). -/
def CopyKind.opcode : CopyKind → Nat
  | .cpy => 0xB0 | .tcpy => 0xB1 | .chain => 0xB2 | .gather => 0xB3 | .scatter => 0xB4 | .nrset => 0xB5 | .nred => 0xB6 | .migr => 0xE6 | .drain => 0xC6

/-- A poisoned write carries its mark to every byte that it wrote; one to scratchpads through MCAST to those of the cluster (R184, R335). -/
def State.markPut (s : State) (ctx win : Nat) (l : Loc) (n : Nat) : State :=
  match l with
  | .spm c off =>
    if win = 13 then
      (List.range 8).foldl (fun t k =>
        if (t.holder (8 * clusterOf c + k) off).any (·.ctx == ctx) then t.addPoison (.spm (8 * clusterOf c + k) off) n else t) s
    else s.addPoison l n
  | _ => s.addPoison l n

/-- A posted write of an engine to a peer, or to a multicast group, and the code of its tag; none where no port or tag is free; x is the
translated address, which gives its plane (R354, R360, R361). -/
def State.enginePacket (s : State) (o : MemOp) (e : Elem) (type dst a x : Nat) : Option (State × Nat) :=
  (s.plane dst x).bind fun port => (s.freshTag port).map fun tag =>
    let p := s.packetOf o dst port tag [{ e with loc := .peer dst a }]
    ({ s with sent := s.sent ++ [{ p with type := BitVec.ofNat 6 type }] }, 2048 * port + tag)

/-- An engine's write for a peer: refused by the peer's state, turned around, or sent (R345, R356, R361). -/
def State.enginePeer (s : State) (c : CopyOp) (p : Put) (o : MemOp) (e : Elem) (d a : Nat) : State × Except Halt CopyOp :=
  let fails (stat : Nat) : State × Except Halt CopyOp := (s.modGroup c.gid fun g => g.recordFailure d stat p.toward, .ok c)
  if s.peer = some d then
    if !s.exported c.ctx a e.size then fails 5
    else
      match s.enginePerform c.id o { e with loc := .mem a, dpage := s.tag (.mem a) != 0 } with
      | (u, .val _) => (if p.mark then u.addPoison (.mem a) e.size else u, .ok c)
      | (u, .fault k) => (u.modGroup c.gid fun g => g.recordFailure d (statusOf k) p.toward, .ok c)
      | (u, _) => (u, .error .waits)
  else
    match SMap.get .absent s.peers d with
    | .recovering => fails 1
    | .fenced | .absent => fails 2
    | _ =>
      match s.enginePacket o e 2 d a a with
      | some (t, code) => (t, .ok { c with acks := c.acks ++ [(code, p.toward)] })
      | none => (s, .error .waits)

/-- The engine writes one element (R219 to R221); a shadow's becomes a digest (R341). -/
def State.enginePut (s : State) (c : CopyOp) (p : Put) : State × Except Halt CopyOp :=
  let n := p.data.length
  if ¬[0, 1, 2, 3, 13].contains (copyWin p.toward) then (s, .error (.fault .winf p.toward))
  else
    match s.copyElem c true p.toward n p.data with
    | (t, .error h) => (t, .error h)
    | (t, .ok (o, e)) =>
      if shadows (t.grp c.gid) o e then
        (t.addHash c.gid (digest c.kind.opcode (Nat.log2 n) p.toward p.data), .ok c)
      else
        match e.loc with
        | .peer d a => t.enginePeer c p o e d a
        | l =>
          if e.win = 13 ∧ !bitAt p.toward 63 then
            let off := p.toward.toNat % 2 ^ 56
            let page := match t.walk c.ctx (BitVec.ofNat 64 off) with | .leaf q _ => q | _ => 0
            let gid := fldN page 24 9
            if (SMap.get [] t.mcast gid).isEmpty then (t, .ok c)
            else
              match t.enginePacket o e 3 gid off (fldN page 38 26 * 0x10000 + off % pteBytes page) with
              | some (u, code) => (u, .ok { c with acks := c.acks ++ [(code, p.toward)] })
              | none => (t, .error .waits)
          else
            match t.enginePerform c.id o e with
            | (u, .val _) => ((if p.mark then u.markPut c.ctx e.win l n else u).l1Drop c.core l, .ok c)
            | (u, .park) | (u, .later) | (u, .reading _) => (u, .error .waits)
            | (u, .protect) => (u, .error (.parks p.toward true true))
            | (u, .fault k) => (u, .error (.fault k p.toward))

/-- A write of a screened group's operation enters the group's store hash (R341), unless it stays in the own scratchpad. -/
def State.hashPut (s : State) (c : CopyOp) (p : Put) : State :=
  let g := s.grp c.gid
  if g.screened && !g.shadow then
    let loc : Option Loc := match s.copyElem c true p.toward p.data.length p.data with | (_, .ok (_, e)) => some e.loc | _ => none
    let own : Bool := match loc with | some (.spm k _) => bitAt p.toward 63 && k == g.core | _ => false
    let t := match loc with | some l => s.modScreened c.gid (·.touch false true l p.data.length) | none => s
    if own then t else t.addHash c.gid (digest c.kind.opcode (Nat.log2 p.data.length) p.toward p.data)
  else s

/-- Writes are made in order; one that acts as a release waits for the acknowledgements of the earlier ones. -/
def State.makePuts (s : State) (c : CopyOp) : List Put → State × CopyOp × Option Halt
  | [] => (s, c, none)
  | p :: ps =>
    if p.release && !c.acks.isEmpty then (s, c, some .waits)
    else
      match s.enginePut c p with
      | (t, .ok d) => (t.hashPut c p).makePuts { d with made := d.made + 1 } ps
      | (t, .error h) => (t, c, some h)

/-! ### How an operation ends (R219, R220) -/

/-- The operation counts complete (R219); the writes of a reduction's root close its id (R229). -/
def State.copyDone (s : State) (c : CopyOp) : State :=
  let root := c.kind == .nred && c.puts.isSome
  { s.modGroup c.gid fun g => g.finish c.id .cpy with
    copies := s.copies.filter (·.id != c.id)
    reductions := if root then s.reductions.filter (·.id != c.a.toNat) else s.reductions }

/-- The locations of the byte at a copy address, without any effect and whatever its window: several through MCAST to scratchpads (R184, R218). -/
def State.copyLocs (s : State) (c : CopyOp) (a : W64) : List Loc :=
  if bitAt a 63 then
    let mcast := copyWin a == 13
    let x := if mcast then a - BitVec.ofNat 64 (a.toNat % 4) else withWin a 0
    match s.placeScratch (engineOp c true x) (s.wgOf c.wg) { va := BitVec.ofNat 64 (fldN x 0 32), size := if mcast then 4 else 1 } with
    | .ok e =>
      match e.loc with
      | .spm k o =>
        if mcast then ((List.range 8).map (8 * clusterOf k + ·)).filterMap fun j =>
          if (s.holder j (o + a.toNat % 4)).any (·.ctx == c.ctx) then some (Loc.spm j (o + a.toNat % 4)) else none
        else [e.loc]
      | l => [l]
    | _ => []
  else ((s.deviceLoc c.ctx (BitVec.ofNat 64 (a.toNat % 2 ^ 56))).map (·.1)).toList

/-- Whether the operation could have written the byte at a copy address: scratchpad, or a page with WR (R297, log 91). -/
def State.copyWritable (s : State) (c : CopyOp) (a : W64) : Bool :=
  bitAt a 63 || (s.deviceLoc c.ctx (BitVec.ofNat 64 (a.toNat % 2 ^ 56))).any fun x => bitAt x.2 2

/-- A destination of a faulting operation: its bytes hold unspecified values (R220), but in a page without WR (log 91); a shadow changes only its own scratchpad (R341). -/
def State.blurDest (s : State) (c : CopyOp) (d : W64 × Nat) : State :=
  ((List.range d.2).filter fun i => s.copyWritable c (d.1 + BitVec.ofNat 64 i)).foldl (fun t i =>
    (t.copyLocs c (d.1 + BitVec.ofNat 64 i)).foldl (fun t l =>
      let own : Bool := match l with | .spm k _ => k == c.core && copyWin d.1 != 13 | _ => false
      match t.selfLoc l with
      | .peer _ _ | .host _ | .cmd _ => t
      | l => if (t.grp c.gid).shadow && !own then t else t.writeLoc l [(Config.free64 s.tick (60000 + d.1.toNat + i)).setWidth 8]) t) s

/-- The operation halts: it stays, parks, or ends by a fault whose destinations are given (R220, R336). -/
def State.copyHalt (s : State) (c : CopyOp) (dests : List (W64 × Nat)) : Halt → State
  | .waits => s.keepCopy c
  | .parks va wr wp =>
    let s : State := { s with engineWaits := s.engineWaits.filter (·.1 != c.id) }
    let cl := clusterOf c.core
    (s.postFault cl c.ctx va (if wr then 5 else 4) (copyWin va) 1 cl 0 wp).keepCopy { c with park := some va }
  | .fault k a =>
    let t := dests.foldl (fun t d => t.blurDest c d) s
    let t := if (t.group? c.gid).isSome then t.copyFault c.gid k a
      else t.post { type := 4, cause := k.code, ctx := c.ctx, core := c.core, addr := a }
    t.copyDone c
  | .ue => if (s.group? c.gid).isSome then (s.copyDone c).consumeUE c.gid .ue c.pc else s.copyDone c

/-! ### Moves -/

/-- Sources are read one after the other; every one before the first write. -/
def State.fetchMoves (s : State) (c : CopyOp) : List Move → State × Except Halt (List Put)
  | [] => (s, .ok [])
  | m :: ms =>
    let one : State × Except Halt Put := match m.from' with
      | none => (s, .ok { toward := m.toward, data := m.data })
      | some a =>
        match s.engineRead c a m.n with
        | (t, .ok (bs, bad)) => (t, .ok { toward := m.toward, data := bs, mark := bad })
        | (t, .error h) => (t, .error h)
    match one with
    | (t, .error h) => (t, .error h)
    | (t, .ok p) =>
      match t.fetchMoves c ms with
      | (u, .ok ps) => (u, .ok (p :: ps))
      | r => r

/-- A destination byte that lies in the source range receives an unspecified value (R221); so does one of a GATHER, a SCATTER or a TCPY whose
ranges overlap, of which the spec does not say (log 102). -/
def State.blurOverlap (s : State) (c : CopyOp) (ms : List Move) (p : Put) : Put :=
  let src := ms.filterMap fun m => m.from'.bind fun a => (s.copyLocs c a).head?.map fun l => (s.selfLoc l, m.n)
  { p with data := p.data.zipIdx.map fun (b, i) =>
      if (s.copyLocs c p.toward).any fun l => src.any fun x => ((s.selfLoc l).add i).overlaps 1 x.1 x.2 then
        (Config.free64 s.tick (50000 + p.toward.toNat + i)).setWidth 8
      else b }

/-- Destinations of writes. -/
def destsOf (ps : List Put) : List (W64 × Nat) := ps.map fun p => (p.toward, p.data.length)

/-- The lines that an operation wrote are to leave its core's L1 when the counter passes it (R219). -/
def State.noteWritten (s : State) (c : CopyOp) (ps : List Put) : State :=
  let lines := ((ps.map fun p => (s.copyLocs c p.toward).map Loc.line).flatten).eraseDups
  { s with written := s.written ++ [{ gid := c.gid, id := c.id, core := c.core, lines := lines }] }

/-- The lines of operations that the counter has passed leave their core's L1 (R219), and that of the core to which the group has drifted since (R270). -/
def State.settleWritten (s : State) : State :=
  let passed (w : Written) : Bool := (s.group? w.gid).all fun g => !(g.inflight.any (·.id == w.id))
  let t : State := { s with written := s.written.filter fun w => !passed w }
  (s.written.filter passed).foldl (fun t w =>
    w.lines.foldl (fun t l => (t.l1Drop w.core l).l1Drop ((t.group? w.gid).elim w.core (·.core)) l) t) t

/-- The bytes that its group has stored to while an operation was under way, and that it wrote too, hold the operation's value, that of the store, or
the one before, byte by byte (R219). -/
def State.mixRaced (s : State) (c : CopyOp) : State :=
  c.raced.zipIdx.foldl (fun t r => if Config.choose s.tick (70000 + r.2) % 2 = 0 then t else t.writeLoc r.1.1 [r.1.2]) s

/-- The copy addresses that an operation writes, with their bytes, once they are known. -/
def CopyOp.aims (c : CopyOp) : List (W64 × Nat) :=
  match c.puts, c.moves with
  | some ps, _ => destsOf ps
  | none, some ms => ms.map fun m => (m.toward, m.n)
  | none, none => []

/-- The bytes of this device that an element reaches. -/
def State.localBytes (s : State) (e : Elem) : List Loc :=
  match s.selfLoc e.loc with
  | .mem a => (List.range e.size).map fun i => .mem (a + i)
  | .spm c o => (List.range e.size).map fun i => .spm c (o + i)
  | _ => []

/-- The stores of a group to bytes that one of its operations in progress writes are noted, with the values before and after (R219). -/
def State.noteRaces (before s : State) : State :=
  let new := if s.copies.isEmpty then [] else (State.performedSince before s).filter fun x => x.1.kind != .load
  let one (c : CopyOp) : CopyOp :=
    let mine := new.filter fun x => x.1.group.any (·.1 == c.gid)
    if mine.isEmpty then c
    else
      let locs := (c.aims.map fun d => (s.copyLocs c d.1).map fun l => (s.selfLoc l, d.2)).flatten
      let hits := ((mine.map fun x => s.localBytes x.2).flatten).filter fun l => locs.any fun x => l.overlaps 1 x.1 x.2
      { c with raced := c.raced ++ (hits.map fun l => (before.readLoc l 1 ++ s.readLoc l 1).map fun b => (l, b)).flatten }
  if new.isEmpty then s else { s with copies := s.copies.map one }

/-- No engine keeps a place in the order of parking once its operation is over (R193). -/
def State.settleWaits (s : State) : State :=
  if s.engineWaits.isEmpty then s
  else
    let ids := s.copies.map (·.id) ++ s.lathe.map (·.id) ++ s.rings.map (·.opId)
    { s with engineWaits := s.engineWaits.filter fun w => ids.contains w.1 }

/-- The writes of an operation are made, some of them in one step, and it ends as fin says once they are acknowledged. -/
def State.copyWrite (s : State) (c : CopyOp) (fin : State → CopyOp → State) : State :=
  let ps := c.puts.getD []
  let rest := ps.drop c.made
  let k := s.freePart (8980 + c.id) rest.length
  match s.makePuts c (rest.take k) with
  | (t, d, none) => if rest.length ≤ k && d.acks.isEmpty then fin ((t.noteWritten d ps).mixRaced d) d else t.keepCopy d
  | (t, d, some h) => t.copyHalt d (destsOf ps) h

/-- Some of the sources that are still to be read are read in one step; once all are, the writes begin, those of CPY in any order (R221). -/
def State.copyFetch (s : State) (c : CopyOp) (ms : List Move) (fin : State → CopyOp → State) : State :=
  let rest := ms.drop c.got.length
  let k := s.freePart (8985 + c.id) rest.length
  match s.fetchMoves c (rest.take k) with
  | (u, .error h) => u.copyHalt { c with moves := some ms } (ms.map fun m => (m.toward, m.n)) h
  | (u, .ok ps) =>
    let got := c.got ++ ps
    if k < rest.length then u.keepCopy { c with moves := some ms, got := got }
    else
      let ws := got.map (u.blurOverlap c ms)
      u.copyWrite { c with moves := some ms, got := [], puts := some (if c.kind = .cpy ∧ 1 < ws.length then rotate (Config.choose s.tick (8986 + c.id)) ws else ws) } fin

/-- An operation that consists of moves goes on (R219); dests gives the destinations of a plan that is refused. -/
def State.copyRun (s : State) (c : CopyOp) (plan : State × Except Halt (List Move)) (dests : State → List (W64 × Nat))
    (fin : State → CopyOp → State) : State :=
  if c.park.isSome then s
  else if c.puts.isSome then s.copyWrite c fin
  else
    match c.moves, plan with
    | some ms, _ => s.copyFetch c ms fin
    | none, (t, .error h) => t.copyHalt c (dests t) h
    | none, (t, .ok ms) => t.copyFetch c ms fin

/-! ### CPY, TCPY, GATHER, SCATTER (R221 to R225) -/

/-- The address of word i from a copy address. -/
abbrev step4 (a : W64) (i : Nat) : W64 := a + BitVec.ofNat 64 (4 * i)

/-- The destinations of a copy of n bytes, which a faulting one need not count in words. -/
def wordsAt (a : W64) (n : Nat) : List (W64 × Nat) :=
  ((List.range (n / 4)).map fun i => (step4 a i, 4)) ++ if n % 4 = 0 then [] else [(step4 a (n / 4), n % 4)]

/-- CPY of n bytes from b to a (R221); count is the operand or record that a bad count is reported with. -/
def planCpy (a b : W64) (n : Nat) (count : W64) : Except Halt (List Move) :=
  if n % 4 ≠ 0 then .error (.fault .align count)
  else if a.toNat % 4 ≠ 0 then .error (.fault .align a)
  else if b.toNat % 4 ≠ 0 then .error (.fault .align b)
  else .ok ((List.range (n / 4)).map fun i => { from' := some (step4 b i), toward := step4 a i })

/-- What TCPY's record and descriptor say (R222, R223). -/
structure Tile where
  base : W64
  fmt : Nat
  rank : Nat
  blen : Nat
  dims : List Nat
  strs : List Int
  orgs : List Int
  exts : List Nat
  toTensor : Bool
  deriving DecidableEq, Repr

/-- The fields of a record and a tile descriptor. -/
def tileOf (r d : Nat) : Tile :=
  { base := BitVec.ofNat 64 (recN r 0 64), fmt := recN r 64 8, rank := recN r 72 8, blen := recN r 80 2
    dims := (List.range 5).map fun k => recN r (96 + 32 * k) 32
    strs := (List.range 5).map fun k => recI r (256 + 48 * k) 48
    orgs := (List.range 5).map fun k => recI d (32 * k) 32
    exts := (List.range 5).map fun k => recN d (160 + 16 * k) 16
    toTensor := decide (recN d 240 1 = 1) }

/-- Element width of a record's format (R222). -/
def Tile.width (t : Tile) : Nat := if t.fmt < 16 then eltWidth t.fmt else 8 * 2 ^ (t.fmt - 16)

/-- Whether blocks move whole (R224). -/
def Tile.packed (t : Tile) : Bool := t.width < 8

/-- Index vectors of a tile, dimension 0 in steps. -/
def Tile.indices (t : Tile) (step : Nat) : List (List Nat) :=
  ((List.range (t.exts.getD 4 1)).map fun i4 => ((List.range (t.exts.getD 3 1)).map fun i3 =>
    ((List.range (t.exts.getD 2 1)).map fun i2 => ((List.range (t.exts.getD 1 1)).map fun i1 =>
      (List.range (t.exts.getD 0 1 / step)).map fun i0 => [step * i0, i1, i2, i3, i4]).flatten).flatten).flatten).flatten

/-- Place in the tensor, in dimension k, of an index vector of the tile. -/
def Tile.place (t : Tile) (ix : List Nat) (k : Nat) : Int := t.orgs.getD k 0 + ix.getD k 0

/-- Whether an index vector of the tile lies in the tensor. -/
def Tile.inside (t : Tile) (ix : List Nat) : Bool :=
  (List.range t.rank).all fun k => decide (0 ≤ t.place ix k) && decide (t.place ix k < t.dims.getD k 0)

/-- Its offset in the tensor in elements. -/
def Tile.offset (t : Tile) (ix : List Nat) : Int := (List.range t.rank).foldl (fun a k => a + t.place ix k * t.strs.getD k 0) 0

/-- The faults of a record or a descriptor (R222 to R224, R168): a block that would move must lie on its boundary. -/
def Tile.check (t : Tile) (r d : Nat) (sa sb sc : W64) : Option Halt :=
  let l := blockLen t.blen
  let far (k : Nat) : Bool := t.rank ≤ k && (t.orgs.getD k 0 != 0 || t.exts.getD k 1 != 1)
  let align := if t.fmt < 16 then 64 else t.width / 8
  if t.rank = 0 ∨ 5 < t.rank ∨ 0x13 < t.fmt ∨ recN r 82 14 ≠ 0 ∨ recN r 496 16 ≠ 0 then some (.fault .range sa)
  else if 1 < fldN t.base 56 8 then some (.fault (if 16 ≤ fldN t.base 56 8 then .range else .winf) sa)
  else if recN d 241 15 ≠ 0 ∨ (List.range 5).any far ∨ t.exts.any (· == 0) then some (.fault .range sc)
  else if !bitAt sb 63 then some (.fault .range sb)
  else if t.base.toNat % align ≠ 0 then some (.fault .align sa)
  else if sb.toNat % align ≠ 0 then some (.fault .align sb)
  else if t.packed ∧ (t.strs.getD 0 0 ≠ 1 ∨ t.dims.getD 0 0 % l ≠ 0) then some (.fault .align sa)
  else if t.packed ∧ (t.orgs.getD 0 0 % (l : Int) ≠ 0 ∨ t.exts.getD 0 0 % l ≠ 0) then some (.fault .align sc)
  else if t.packed ∧ (t.indices l).any (fun ix => t.inside ix && t.offset ix % (l : Int) != 0) then some (.fault .align sa)
  else none

/-- The moves of one element, or one block, of a tile (R224): n bytes in pieces. -/
def Tile.moves (t : Tile) (sb : W64) (step : Nat) (ix : List Nat) : List Move :=
  let w := t.width
  let i (k : Nat) : Nat := ix.getD k 0
  let e (k : Nat) : Nat := t.exts.getD k 1
  let off := (i 0 + e 0 * (i 1 + e 1 * (i 2 + e 2 * (i 3 + e 3 * i 4)))) * w / 8
  let inside := t.inside ix
  let g := t.base + BitVec.ofInt 64 (t.offset ix * w / 8)
  let bytes := step * w / 8
  let piece := if t.packed then 1 else bytes
  ((List.range (bytes / piece)).map fun q =>
    let x := BitVec.ofNat 64 (q * piece)
    let tile := sb + BitVec.ofNat 64 off + x
    if t.toTensor then (if inside then [{ from' := some tile, toward := g + x, n := piece }] else [])
    else if inside then [{ from' := some (g + x), toward := tile, n := piece }]
    else [{ data := List.replicate piece 0, toward := tile, n := piece }]).flatten

/-- TCPY (R222 to R224). -/
def State.planTile (s : State) (c : CopyOp) (sa sb sc : W64) : State × Except Halt (List Move) :=
  match s.engineRecord c sa 64 64 false with
  | (t, .error h) => (t, .error h)
  | (t, .ok r) =>
    match t.engineRecord c sc 32 32 true with
    | (u, .error h) => (u, .error h)
    | (u, .ok d) =>
      let tl := tileOf r d
      match tl.check r d sa sb sc with
      | some h => (u, .error h)
      | none =>
        let step := if tl.packed then blockLen tl.blen else 1
        (u, .ok ((tl.indices step).map (tl.moves sb step)).flatten)

/-- What a TCPY would write, as far as its record and descriptor can be read (R220); a reserved format names no bytes. -/
def State.tileDests (s : State) (c : CopyOp) (sa sb sc : W64) : List (W64 × Nat) :=
  match s.engineRecord c sa 64 64 false, s.engineRecord c sc 32 32 true with
  | (_, .ok r), (_, .ok d) =>
    let tl := tileOf r d
    let step := if tl.packed then blockLen tl.blen else 1
    if 0x13 < tl.fmt then [] else ((tl.indices step).map (tl.moves sb step)).flatten.map fun m => (m.toward, m.n)
  | _, _ => []

/-- What a GATHER or a SCATTER would write, as far as its descriptor and its indices can be read (R220). -/
def State.rowDests (s : State) (c : CopyOp) (sa sc : W64) (scatter : Bool) : List (W64 × Nat) :=
  match s.engineRecord c sc 16 16 true with
  | (_, .error _) => []
  | (_, .ok d) =>
    let index : W64 := BitVec.ofNat 64 (2 ^ 63 + recN d 0 32)
    let row (i : Nat) : Option Nat :=
      if !scatter then some (i * recN d 64 32)
      else match s.engineRead c (step4 index i) 4 with
        | (_, .ok (bs, _)) => if natOfBytes bs = 0xFFFFFFFF then none else some (natOfBytes bs * recN d 96 32)
        | _ => none
    (((List.range (recN d 32 32)).filterMap row).map fun o => wordsAt (sa + BitVec.ofNat 64 o) (recN d 64 32)).flatten

/-- GATHER and SCATTER (R225). -/
def State.planRows (s : State) (c : CopyOp) (sa sb sc : W64) (scatter : Bool) : State × Except Halt (List Move) :=
  match s.engineRecord c sc 16 16 true with
  | (t, .error h) => (t, .error h)
  | (t, .ok d) =>
    let count := recN d 32 32
    let rowb := recN d 64 32
    let pitch := recN d 96 32
    if count = 0 ∨ 65535 < count ∨ rowb % 4 ≠ 0 ∨ rowb < 4 ∨ 32768 < rowb ∨ pitch % 4 ≠ 0 then (t, .error (.fault .range sc))
    else
      let index : W64 := BitVec.ofNat 64 (2 ^ 63 + recN d 0 32)
      match t.engineReads c ((List.range count).map fun i => (step4 index i, 4)) with
      | (u, .error h) => (u, .error h)
      | (u, .ok xs) =>
        if xs.any (·.2) then (u, .error .ue)
        else
          (u, .ok ((xs.zipIdx).map fun (x, i) =>
            let idx := natOfBytes x.1
            (List.range (rowb / 4)).filterMap fun k =>
              let packed := BitVec.ofNat 64 (i * rowb + 4 * k)
              let row := BitVec.ofNat 64 (idx * pitch + 4 * k)
              if idx = 0xFFFFFFFF then (if scatter then none else some ({ data := List.replicate 4 0, toward := sa + packed } : Move))
              else if scatter then some { from' := some (sb + packed), toward := sa + row }
              else some { from' := some (sb + row), toward := sa + packed }).flatten)

/-! ### Issue (R219) -/

/-- A copy instruction raises CPY and passes to its cluster's engine (R219, R318). -/
def copyIssue (f : VForm) (s : State) (k : CopyKind) : Out :=
  if selV f s = 0 then go s.retire
  else if 63 ≤ s.G.count .cpy then go s.stall
  else
    let c : CopyOp := { id := s.nextId, gid := s.cur.1, kind := k, ctx := s.G.ctx, pc := s.S.pc, core := s.G.core, wg := s.G.wg
                        a := aUni f s, b := bUni f s, c := cUni f s }
    go (({ s.fresh with copies := s.copies ++ [c] } : State).modG fun g => g.raise c.id .cpy).retire

/-- R221. -/
def execCpy (f : VForm) (s : State) : Out := copyIssue f s .cpy
/-- R222. -/
def execTcpy (f : VForm) (s : State) : Out := copyIssue f s .tcpy
/-- R226. -/
def execChain (f : VForm) (s : State) : Out := copyIssue f s .chain
/-- R225. -/
def execGather (f : VForm) (s : State) : Out := copyIssue f s .gather
/-- R225. -/
def execScatter (f : VForm) (s : State) : Out := copyIssue f s .scatter
/-- R228. -/
def execNrset (f : VForm) (s : State) : Out := copyIssue f s .nrset
/-- R229. -/
def execNred (f : VForm) (s : State) : Out := copyIssue f s .nred

/-! ### Chains (R226, R227) -/

/-- An entry of a chain record (R226). -/
structure Entry where
  from' : W64
  toward : W64
  count : Nat
  op : Nat
  value : W64
  deriving DecidableEq, Repr, Inhabited

/-- The entry that a chain has reached, as it stands in memory, and its reserved bits (R226, R227). -/
def State.rawEntry (s : State) (c : CopyOp) : State × Except Halt (Entry × Nat) :=
  if c.a.toNat % 32 ≠ 0 then (s, .error (.fault .align c.a))
  else
    match s.engineRecord c (c.a + BitVec.ofNat 64 (32 * c.entry)) 32 8 false with
    | (t, .error h) => (t, .error h)
    | (t, .ok r) =>
      (t, .ok (⟨BitVec.ofNat 64 (recN r 0 64), BitVec.ofNat 64 (recN r 64 64), recN r 128 32, recN r 160 8, BitVec.ofNat 64 (recN r 192 64)⟩, recN r 168 24))

/-- The entry that a chain has reached, unless it breaks R227. -/
def State.chainEntry (s : State) (c : CopyOp) : State × Except Halt Entry :=
  match s.rawEntry c with
  | (t, .error h) => (t, .error h)
  | (t, .ok (e, reserved)) => if 7 < e.op ∨ reserved ≠ 0 then (t, .error (.fault .range c.a)) else (t, .ok e)

/-- The chain goes on with its next entry (R227). -/
def State.chainNext (s : State) (c : CopyOp) : State :=
  s.setCopy { c with entry := c.entry + 1, moves := none, got := [], raced := [], puts := none, made := 0, reads := [] }

/-- One entry of a chain, if the chain has reached one of this operation. -/
def State.chainStep (s : State) (op code : Nat) (f : State → CopyOp → Entry → State) : Out :=
  match s.copy? op with
  | none => go s
  | some c =>
    if c.kind != .chain || c.park.isSome || decide (8 ≤ c.entry) then go s
    else if c.puts.isSome || c.moves.isSome then go (if c.started = code then f s c default else s)
    else
      match s.chainEntry c with
      | (t, .ok e) => go (if e.op = code then f t { c with started := code } e else s)
      | (_, .error _) => go s

/-- R227. -/
def execChainEnd (op : Nat) (s : State) : Out := s.chainStep op 0 fun t c _ => t.copyDone c

/-- R227, R221. -/
def execChainCopy (op : Nat) (s : State) : Out :=
  s.chainStep op 1 fun t c e => t.copyRun c (t, planCpy e.toward e.from' e.count c.a) (fun _ => wordsAt e.toward e.count) State.chainNext

/-- R227. -/
def execChainFill (op : Nat) (s : State) : Out :=
  s.chainStep op 2 fun t c e =>
    let plan : Except Halt (List Move) :=
      if e.count % 4 ≠ 0 then .error (.fault .align c.a)
      else if e.toward.toNat % 4 ≠ 0 then .error (.fault .align e.toward)
      else .ok ((wordsAt e.toward e.count).map fun d => { data := bytesOf 4 e.value, toward := d.1, n := 4 })
    t.copyRun c (t, plan) (fun _ => wordsAt e.toward e.count) State.chainNext

/-- R227, R222. -/
def execChainTile (op : Nat) (s : State) : Out :=
  s.chainStep op 3 fun t c e =>
    if e.count ≠ 0 then t.copyHalt c (t.tileDests c e.from' e.toward e.value) (.fault .range c.a)
    else t.copyRun c (t.planTile c e.from' e.toward e.value) (·.tileDests c e.from' e.toward e.value) State.chainNext

/-- R227: the earlier entries have completed, so the add is their release. -/
def execChainSignal (op : Nat) (s : State) : Out :=
  s.chainStep op 4 fun t c e =>
    t.copyRun c (t, .ok [{ data := bytesOf 4 e.value, toward := withWin e.toward 2 }]) (fun _ => [(e.toward, 4)]) State.chainNext

/-- R227: an acquire at device scope follows the wait (R206). -/
def execChainWaitge (op : Nat) (s : State) : Out :=
  s.chainStep op 5 fun t c e =>
    match t.engineRead c e.from' 4 with
    | (u, .error h) => u.copyHalt c [] h
    | (u, .ok (_, true)) => u.copyHalt c [] .ue
    | (u, .ok (bs, false)) =>
      if fldN e.value 0 32 ≤ natOfBytes bs then (u.l1Flush c.core).chainNext c
      else u.setCopy { c with reads := c.reads.filter (·.addr != e.from') }

/-- R227, R225. -/
def execChainGather (op : Nat) (s : State) : Out :=
  s.chainStep op 6 fun t c e => t.copyRun c (t.planRows c e.toward e.from' e.value false) (·.rowDests c e.toward e.value false) State.chainNext

/-- R227, R225. -/
def execChainScatter (op : Nat) (s : State) : Out :=
  s.chainStep op 7 fun t c e => t.copyRun c (t.planRows c e.toward e.from' e.value true) (·.rowDests c e.toward e.value true) State.chainNext

/-! ### Reductions (R175, R228, R229) -/

/-- NRSET opens its id (R228, R229); a shadow's leaves the reductions alone (R341). -/
def State.openReduction (s : State) (c : CopyOp) : State :=
  if (s.grp c.gid).shadow then s.copyDone c
  else match s.engineRecord c c.a 32 32 false with
  | (t, .error h) => t.copyHalt c [] h
  | (t, .ok r) =>
    let id := recN r 176 8
    let ncont := recN r 128 32
    let nelem := recN r 160 16
    let result : W64 := BitVec.ofNat 64 (recN r 0 64)
    if recN r 184 72 ≠ 0 ∨ ncont = 0 ∨ 65535 < ncont ∨ nelem = 0 ∨ 2048 < nelem ∨ t.reductions.any (·.id == id) then
      t.copyHalt c [] (.fault .range c.a)
    else if ¬[0, 1, 3].contains (copyWin result) then t.copyHalt c [] (.fault .winf c.a)
    else
      { t.copyDone c with reductions := t.reductions ++ [{
          id := id, ctx := c.ctx, core := c.core, wg := c.wg, result := result, doneAt := BitVec.ofNat 64 (recN r 64 64)
          ncont := ncont, nelem := nelem, sums := List.replicate nelem (0, false, false, false) }] }

/-- One value enters an element's exact sum (R175). -/
def addContribution (a : BitVec 320 × Bool × Bool × Bool) (x : Nat) : BitVec 320 × Bool × Bool × Bool :=
  match fp32.value x with
  | .nan => (a.1, true, a.2.2)
  | .inf n => (a.1, a.2.1, a.2.2.1 || !n, a.2.2.2 || n)
  | .fin n m e =>
    let u : Int := (m * 2 ^ (e + 149).toNat : Nat)
    (a.1 + BitVec.ofInt 320 (if n then -u else u), a.2)

/-- The FP32 result of an element, rounded once (R175). -/
def exactResult (a : BitVec 320 × Bool × Bool × Bool) : Nat :=
  let (x, nan, pos, neg) := a
  if nan || (pos && neg) then 0x7FC00000
  else if pos then fp32.infCode false
  else if neg then fp32.infCode true
  else fp32.round .rne (decide (x.toInt < 0)) ⟨x.toInt.natAbs, -149, false⟩

/-- What the root of a reduction writes (R229). -/
def Reduction.puts (r : Reduction) : List Put :=
  (r.sums.zipIdx.map fun (a, i) => ({ toward := step4 r.result i, data := bytesOf 4 (BitVec.ofNat 32 (exactResult a)) } : Put))
    ++ (if r.doneAt = 0 then [] else [{ toward := withWin r.doneAt 2, data := bytesOf 4 (1 : W32), release := true }])

/-- NRED_ACCEPT (R229): a contribution is accepted, and the last one starts the root's writes; a shadow contributes nothing (R341). -/
def execNredAccept (op : Nat) (s : State) : Out :=
  match s.copy? op with
  | none => go s
  | some c =>
    if c.kind != .nred || c.park.isSome || c.puts.isSome then go s
    else if (s.grp c.gid).shadow then go (s.copyDone c)
    else
      match s.reductions.find? fun r => r.id == fldN c.a 0 8 && r.ctx == c.ctx with
      | none => go (s.copyHalt c [] (.fault .range c.a))
      | some r =>
        if fldN c.a 8 56 ≠ 0 ∨ r.ncont ≤ r.accepted then go (s.copyHalt c [] (.fault .range c.a))
        else
          match s.engineReads c ((List.range r.nelem).map fun i => (step4 c.b i, 4)) with
          | (t, .error h) => go (t.copyHalt c [] h)
          | (t, .ok xs) =>
            if xs.any (·.2) then go (t.copyHalt c [] .ue)
            else
              let r' := { r with accepted := r.accepted + 1
                                 sums := (r.sums.zip xs).map fun (a, x) => addContribution a (natOfBytes x.1) }
              let t : State := { t.copyDone c with reductions := t.reductions.map fun x => if x.id = r.id then r' else x }
              if r'.accepted = r.ncont then
                let root : CopyOp := { id := t.nextId, kind := .nred, ctx := r.ctx, core := r.core, wg := r.wg
                                       a := BitVec.ofNat 64 r.id, puts := some r'.puts }
                go { t.fresh with copies := t.copies ++ [root] }
              else go t

/-- What an operation that ends by a page fault would have written (R220). -/
def State.copyDests (s : State) (c : CopyOp) : List (W64 × Nat) :=
  match c.puts, c.kind with
  | some ps, _ => destsOf ps
  | none, .cpy => wordsAt c.a (fldN c.c 0 32)
  | none, .tcpy => s.tileDests c c.a c.b c.c
  | none, .gather => s.rowDests c c.a c.c false
  | none, .scatter => s.rowDests c c.a c.c true
  | none, .chain =>
    match s.rawEntry c with
    | (_, .ok (e, _)) =>
      match e.op with
      | 1 | 2 => wordsAt e.toward e.count
      | 3 => s.tileDests c e.from' e.toward e.value
      | 4 => [(e.toward, 4)]
      | 6 => s.rowDests c e.toward e.value false
      | 7 => s.rowDests c e.toward e.value true
      | _ => []
    | _ => []
  | none, _ => []

/-- COPY_OP_COMPLETE (R219): an operation makes its writes and counts complete, or faults, parks or waits. -/
def execCopyOpComplete (op : Nat) (s : State) : Out :=
  match s.copy? op with
  | none => go s
  | some c =>
    if c.park.isSome then go s
    else
      match c.kind with
      | .cpy =>
        let plan : Except Halt (List Move) :=
          if fldN c.c 32 32 ≠ 0 then .error (.fault .range c.c) else planCpy c.a c.b (fldN c.c 0 32) c.c
        go (s.copyRun c (s, plan) (fun _ => wordsAt c.a (fldN c.c 0 32)) State.copyDone)
      | .tcpy => go (s.copyRun c (s.planTile c c.a c.b c.c) (·.tileDests c c.a c.b c.c) State.copyDone)
      | .gather => go (s.copyRun c (s.planRows c c.a c.b c.c false) (·.rowDests c c.a c.c false) State.copyDone)
      | .scatter => go (s.copyRun c (s.planRows c c.a c.b c.c true) (·.rowDests c c.a c.c true) State.copyDone)
      | .chain =>
        if 8 ≤ c.entry then go (s.copyDone c)
        else
          match s.chainEntry c with
          | (t, .error h) => go (t.copyHalt c (s.copyDests c) h)
          | (_, .ok _) => go s
      | .nrset => go (s.openReduction c)
      | .nred => if c.puts.isSome then go (s.copyWrite c State.copyDone) else go s
      | .migr | .drain => go s

end Sys2Proof.Machine
end

