-- ==== Sys2Proof/Machine/Counters.lean ====
section
/-! DEFINITION. WAITC, CNTRD and CNTCLR, and the writes of service and counter results (R317 to R325). -/

namespace Sys2Proof.Machine

open Sys2Proof

/-! ### WAITC (R320) -/

/-- R320. -/
def execWaitc (f : VForm) (s : State) : Out :=
  let path := pathOf (fldN f.md 0 3)
  if selV f s = 0 then go s.retire
  else if (aUni f s).toNat < s.G.count path then go s.stall
  else
    let due : Option State := match path with
      | .cpy => s.deliverCopy
      | .mtx => s.deliverLathe
      | .rmt => if bitAt (s.ownSpecial 0x1B s.G.rflt) 0 then some (s.trap .rmtflt (selV f s) 0) else none
      | _ => none
    go (due.getD s.retire)

/-! ### Result writes (R301, R307, R315, R325) -/

/-- A result write that the issuing instruction begins: the step that a refused or parked buffer takes, or the operation. It is an access, so
an acquire that has not completed holds it (R206), and a TOKACQ on its region (R315). -/
def State.placeResult (s : State) (m : Mask) (opc : Nat) (a : W64) (n align : Nat) (wins : List Nat) (taddr : W64) :
    State ⊕ (State × MemOp) :=
  let spm := bitAt a 63
  let size := min n 8
  if !s.S.acqs.isEmpty then .inl s.stall
  else if (spm && (fldN a 32 31 != 0 || scratchBad (s.wgOf s.G.wg) a)) || (!spm && fldN a 60 4 != 0) then .inl (s.trap .range m taddr)
  else if a.toNat % align ≠ 0 then .inl (s.trap .align m taddr)
  else if !wins.contains (copyWin a) then .inl (s.trap .winf m taddr)
  else
    let o : MemOp := { id := s.nextId, owner := .group s.cur.1 s.cur.2, kind := .store, ctx := s.G.ctx, pc := s.S.pc, opc := opc
                       sz := 3, evc := s.G.evc, task := s.G.task, dplace := (s.ownSpecial 0x28 (BitVec.ofNat 64 s.G.dplace)).toNat
                       past := s.S.past, behind := s.S.joined, cluster := clusterOf s.G.core
                       core := s.G.core, sys := some (m, taddr), toSpm := spm }
    let es : List Elem := (List.range (n / size)).map fun i =>
      { va := (if spm then BitVec.ofNat 64 (fldN a 0 32) else a) + BitVec.ofNat 64 (size * i), size := size, reg := 2 * i }
    let r := s.placeAll (s.wgOf s.G.wg) s.G.slot o es
    match r.2.faults with
    | e :: _ => .inl (r.1.trap e.cause m taddr)
    | [] =>
      match r.2.elems.find? fun e => e.stage == .pageFault || e.stage == .writeProtect with
      | some e => .inl (r.1.setWait s.cur.1 s.cur.2 (.fetch e.va))
      | none => if s.tokHeld r.2 then .inl s.stall else .inr r

/-- The bytes of a result enter its operation. -/
def MemOp.fillResult (o : MemOp) (bs : List Byte) : MemOp :=
  { o with elems := o.elems.map fun e =>
      { e with data := BitVec.ofNat 256 (natOfBytes ((bs.drop (4 * e.reg)).take e.size)) } }

/-! ### Device counters (R323 to R325) -/

/-- Number of instances of a counter; 0 for a reserved INDEX (R323). -/
def counterInsts (index : Nat) : Nat :=
  match index with
  | 0x01 => 48
  | 0x02 | 0x10 | 0x11 | 0x12 | 0x13 => 64
  | 0x20 | 0x21 | 0x40 | 0x41 | 0x42 | 0x50 | 0x51 => 1
  | 0x30 | 0x31 | 0x32 | 0x33 => 72
  | 0x60 => 3072
  | _ => 0

/-- Whether a selector names a counter (R323). -/
def selectorGood (sel : W64) : Bool := fldN sel 20 44 == 0 && decide (fldN sel 8 12 < counterInsts (fldN sel 0 8))

/-- R325. -/
def execCntrd (f : VForm) (s : State) : Out :=
  let m := selV f s
  let sel := aUni f s
  if m = 0 then go s.retire
  else if !selectorGood sel then go (s.trap .range m sel)
  else
    match s.placeResult m 0xE7 (bUni f s) 8 8 [0, 1, 12] sel with
    | .inl t => go t
    | .inr (t, o) => go (t.launchOp (o.fillResult (bytesOf 8 (t.counter (fldN sel 0 8) (fldN sel 8 12)))))

/-- Whether CNTCLR refuses its operands (R325). -/
def clearRefused (g : Group) (sel ev : W64) : Bool :=
  !selectorGood sel
    || (if fldN sel 0 8 = 0x60 then decide (0x0F < ev.toNat) else ev != 0)
    || (!g.svc && !(fldN sel 0 8 == 0x60 && fldN sel 8 12 / 16 == g.core))

/-- A counter is cleared; a performance counter takes an event (R325). -/
def State.clearCounter (s : State) (index inst : Nat) (ev : Byte) : State :=
  { s with counters := SMap.set 0 s.counters (4096 * index + inst) 0
           perfSel := if index = 0x60 then SMap.set 0 s.perfSel inst ev else s.perfSel }

/-- R325. -/
def execCntclr (f : VForm) (s : State) : Out :=
  let m := selV f s
  let sel := aUni f s
  let ev := bUni f s
  if m = 0 then go s.retire
  else if clearRefused s.G sel ev then go (s.trap .range m sel)
  else go (s.clearCounter (fldN sel 0 8) (fldN sel 8 12) (ev.setWidth 8)).retire

end Sys2Proof.Machine
end

