-- ==== Sys2Proof/Machine/Tables.lean ====
section
/-! DEFINITION. Opcodes 0xE0 to 0xE6: page tables, TLB invalidation, the fault queue and its service, migration, ownership tokens (R295 to R316). -/

namespace Sys2Proof.Machine

open Sys2Proof

/-! ### Frames and page-table entries (R295, R296, R409) -/

/-- Frames of 64 KiB of a tier that the firmware has handed out. -/
def State.handedOut (s : State) (tier : Nat) : List (Nat × Nat) := if tier = 0 then s.frames else s.frames1

/-- Frames that page-table roots of contexts occupy. -/
def State.rootFrames (s : State) : List (Nat × Nat) := s.ctxs.map fun c => (c.root.toNat / 0x10000, 1)

/-- n free frames of a tier, aligned to n, the highest first; none when there are none (R409). -/
def State.allocFrames (s : State) (tier n : Nat) : Option (State × Nat) :=
  let total := tierBytes tier / 0x10000
  let used := s.handedOut tier ++ (if tier = 0 then s.rootFrames else [])
  let free (f : Nat) : Bool := used.all fun u => decide (f + n ≤ u.1) || decide (u.1 + u.2 ≤ f)
  let tops := (total :: used.map (·.1)).filter fun t => decide (n ≤ t)
  (sortOn (tops.foldl max 0 - ·) ((tops.map fun t => (t - n) / n * n).filter free)).head?.map fun f =>
    (if tier = 0 then { s with frames := (f, n) :: s.frames } else { s with frames1 := (f, n) :: s.frames1 }, f)

/-- The frames at a location are free again. -/
def State.freeFrames (s : State) (l : Loc) : State :=
  match l with
  | .mem a =>
    if a < Config.tier1Base then { s with frames := s.frames.filter fun u => u.1 != a / 0x10000 }
    else { s with frames1 := s.frames1.filter fun u => u.1 != (a - Config.tier1Base) / 0x10000 }
  | _ => s

/-- A pointer entry for a table at a local address (R296). -/
def pointerTo (a : Nat) : Nat := 1 + a / 0x1000 % 16 * 2 ^ 8 + a / 0x10000 * 2 ^ 38

/-- An entry is written at a level of the walk from a table, and missing tables below it are placed in fresh frames; none when no frame is left or a leaf stands in the way. -/
def State.setEntry (s : State) (va level : Nat) (pte : W64) : List (Nat × Nat × Nat) → Nat → Option State
  | [], _ => none
  | (k, lo, n) :: rest, table =>
    let at' := table + 8 * (va / 2 ^ lo % 2 ^ n)
    if k = level then some { s with mem := s.mem.setNum at' 8 pte.toNat }
    else
      let e : W64 := BitVec.ofNat 64 (s.mem.num at' 8)
      if bitAt e 0 then
        if k ≤ 2 ∧ fldN e 33 2 ≠ 0 then none
        else s.setEntry va level pte rest (fldN e 38 26 * 0x10000 + fldN e 8 4 * 0x1000)
      else
        (s.allocFrames 0 1).bind fun (t, f) =>
          let blank := t.mem.writeN (f * 0x10000) (List.replicate 4096 0)
          State.setEntry { t with mem := blank.setNum at' 8 (pointerTo (f * 0x10000)) } va level pte rest (f * 0x10000)

/-- A leaf is written for an address of a context. -/
def State.setLeaf (s : State) (ctx va : Nat) (pte : W64) : Option State :=
  (s.ctx? ctx).bind fun c => s.setEntry va (fldN pte 33 2) pte walkLevels c.root.toNat

/-- A template with a frame. -/
def withFrame (template : W64) (frame : Nat) : W64 := (template &&& 0x3FFFFFFFFF) ||| BitVec.ofNat 64 (frame * 2 ^ 38)

/-- The bytes of a local page are exported to peers (R363, R379). -/
def State.exportPage (s : State) (ctx : Nat) (pte : W64) : State :=
  match leafLoc pte 0 with
  | .mem a => s.modCtx ctx fun c => { c with exports := (a, pteBytes pte) :: c.exports }
  | _ => s

/-- A page of a template, in a frame given; local ones are exported where asked for (R409). -/
def State.mapFrame (s : State) (ctx va : Nat) (template : W64) (exp : Bool) (frame : Nat) : Option State :=
  let pte := withFrame template frame
  (s.setLeaf ctx va pte).map fun t => if exp then t.exportPage ctx pte else t

/-- A page of a template of tier 0 or 1, in a fresh frame (R409). Where the firmware puts the tag region of a D page the spec does not say (R189):
the model keeps tags apart and takes no frame for them (log 106). -/
def State.mapPage (s : State) (ctx va : Nat) (template : W64) (exp : Bool) : Option State :=
  (s.allocFrames (pteTier template) (pteBytes template / 0x10000)).bind fun (t, f) => t.mapFrame ctx va template exp f

/-- Pages are mapped one after the other, all or none. -/
def State.mapPages (s : State) (ctx : Nat) (template : W64) (exp : Bool) : List Nat → Option State
  | [] => some s
  | va :: vas => (s.mapPage ctx va template exp).bind fun t => t.mapPages ctx template exp vas

/-! ### Invalidation of translations (R300, R302) -/

/-- What TLBINV names: nothing but all contexts, one context, or bytes of one. -/
inductive Cover where
  | all
  | ctx (c : Nat)
  | page (c base size : Nat)
  deriving DecidableEq, Repr

/-- Whether a translation of n bytes of a context is covered. -/
def Cover.covers (k : Cover) (c va n : Nat) : Bool :=
  match k with
  | .all => true
  | .ctx x => x == c
  | .page x b z => x == c && decide (b ≤ va) && decide (va + n ≤ b + z)

/-- Covered entries are removed from every TLB. -/
def State.tlbDrop (s : State) (k : Cover) : State := { s with tlb := s.tlb.filter fun e => !k.covers e.ctx e.va e.size }

/-- One parked element translates again, or ends with PAGEF (R308). -/
def State.resumeElem (s : State) (o : MemOp) (fail : Bool) (e : Elem) : State :=
  let slot := match o.group with | some (g, _) => (s.grp g).slot | none => 0
  if fail then
    match o.owner with
    | .host r =>
      let t := s.post { type := 0x0C, ctx := o.ctx, addr := e.va }
      let t := if o.kind = .load then t.reply r (BitVec.ofNat 256 (onesOf e.size)) else t
      t.modOp o.id fun p => p.modElem e fun y => { y with stage := .done }
    | _ => s.modOp o.id fun p => { p.modElem e fun y => { y with stage := .done } with faults := p.faults ++ [recordOf o e .pagef] }
  else
    match s.placeGlobal o (match o.owner with | .group _ _ => o.core | _ => 240) e with
    | (t, .ok x) => t.modOp o.id fun p => p.modElem e fun _ => x
    | (t, .fault c) => t.modOp o.id fun p => { p.modElem e fun y => { y with stage := .done } with faults := p.faults ++ [recordOf o e c] }
    | (t, .parks wp) =>
      (t.postFault (clusterOf o.core) o.ctx e.va (o.atype e.win) e.win (if o.group.isSome then 0 else 3) o.core slot wp.isSome).fresh.modOp o.id
        fun p => p.modElem e fun _ => e.parkedOn e.win wp (if e.parkedAt = 0 then t.nextId else e.parkedAt)

/-- The paths on which an operation counts follow its elements once they are translated, at its place in the order of issue; elements on a path
whose counter stands at 63 are held until it falls (R203, R318). A lane parked on an unmapped page counts on GLB until its tier is known: the
spec does not say on which path (log 105). -/
def State.recount (s : State) (id : Nat) : State :=
  match s.mop? id with
  | none => s
  | some o =>
    match o.group with
    | none => s
    | some (g, _) =>
      let new := o.paths.filter fun p => !((s.grp g).inflight.any fun i => i.id == id && i.path == p)
      let full := new.filter fun p => 63 ≤ (s.grp g).count p
      let t := s.modGroup g fun x => (new.filter fun p => !full.contains p).foldl (fun x p => x.raiseAt id p) x
      let keep (q : MemOp) (e : Elem) : Elem := if e.stage = .todo ∧ full.contains (Elem.path q e) then { e with stage := .held } else e
      let t := if full.isEmpty then t else t.modOp id fun q => { q with elems := q.elems.map (keep q) }
      t.modGroup g fun x => if o.paths.contains .glb || o.sys.isSome then x else x.finish id .glb

/-- Elements that are held until a counter falls translate again when what they have used leaves the TLBs (R302). -/
def State.retranslate (s : State) (k : Cover) : State :=
  let hit (o : MemOp) (e : Elem) : Bool := e.stage == .held && !o.scratch && k.covers o.ctx (e.va.toNat % 2 ^ 56) 1
  (s.mops.filter fun o => o.elems.any (hit o)).foldl (fun t o =>
    ((o.elems.filter (hit o)).foldl (fun t e => t.resumeElem o false e) t).recount o.id) s

/-- Covered entries leave every TLB (R302). -/
def State.invalidate (s : State) (k : Cover) : State := (s.tlbDrop k).retranslate k

/-- Whether an access that may have used a covered entry has yet to be performed at its home (R302). -/
def State.unsettled (s : State) (k : Cover) : Bool :=
  s.mops.any fun o => !o.scratch && (match o.owner with | .peer _ => false | _ => true) && o.elems.any fun e =>
    k.covers o.ctx (e.va.toNat % 2 ^ 56) 1 && match e.stage with | .todo | .released _ _ | .sent _ | .remoteWait => true | _ => false

/-- The engine operations in flight: copies, and the output writes of drains and rings (R219, R247). -/
def State.engineOps (s : State) : List CopyOp := s.copies ++ s.lathe.filterMap (·.out) ++ s.rings.filterMap (·.out)

/-- Whether an engine's access that may have used a covered entry is unanswered (R302). -/
def State.engineUnsettled (s : State) (k : Cover) : Bool :=
  let hits (c : CopyOp) (a : W64) : Bool := !bitAt a 63 && k.covers c.ctx (a.toNat % 2 ^ 56) 1
  s.engineOps.any fun c => (c.acks.any fun a => hits c a.2) || c.reads.any fun r => r.code.isSome && hits c r.addr

/-! ### Service instructions (R301) -/

/-- Whether a context operand names the issuing context, or one that its grid serves (R301). -/
def State.mayName (s : State) (c : Nat) : Bool :=
  c == s.G.ctx || (s.ctx? c).any fun x => (s.grid? s.G.grid).any fun g => x.service == some (g.ctx, g.va)

/-- A privileged service instruction: PRIV, or its effect, for the selected lanes; none without a selected lane (R75, R301). A fault caught at issue, PRIV too, gives the A operand in SR_TADDR (log 92). -/
def service (f : VForm) (s : State) (k : Mask → W64 → W64 → State) : Out :=
  if selV f s = 0 then go s.retire
  else if !s.G.svc then go (s.trap .priv (selV f s) (aUni f s))
  else go (k (selV f s) (aUni f s) (bUni f s))

/-- R302. -/
def execTlbinv (f : VForm) (s : State) : Out :=
  service f s fun m a b =>
    let kind := fldN b 0 2
    let psize := fldN b 2 2
    let c := fldN b 16 16
    if kind = 3 ∨ psize = 3 ∨ fldN b 4 12 ≠ 0 ∨ fldN b 32 32 ≠ 0 ∨ (kind ≤ 1 ∧ !s.mayName c) then s.trap .range m a
    else
      match s.releaseWait 4 m with
      | some t => t
      | none =>
        let size := match psize with | 0 => 0x10000 | 1 => 0x200000 | _ => 0x40000000
        let k : Cover := match kind with
          | 0 => .page c (a.toNat % 2 ^ 56 / size * size) size
          | 1 => .ctx c
          | _ => .all
        let t := s.invalidate k
        if t.unsettled k || t.engineUnsettled k then t.stall else t.retire

/-! ### The fault queue (R304 to R307) -/

/-- Waiting posts complete as far as there is room (R304); fuel is their number. -/
def State.drainPosts : Nat → State → State
  | 0, s => s
  | n + 1, s =>
    match s.fq.waiting with
    | [] => s
    | q :: qs => if s.fqRoom then State.drainPosts n (({ s with fq := { s.fq with waiting := qs } } : State).enterPost q) else s

/-- Posts that wait, for room or for an entry of a CAM, go on as far as they can (R304, R306). -/
def State.settleFaults (s : State) : State := (s.drainPosts s.fq.waiting.length).settleCam

/-- Whether the fault queue has no entry. -/
def State.fqEmpty (s : State) : Bool := s.fq.header.isNone || s.fqHead == s.fqTail

/-- HEAD rises by one and room is used (R307, R304). -/
def State.popFault (s : State) : State :=
  let t := s.setFqField 16 8 ((s.fqHead + 1) % 2 ^ 64)
  t.drainPosts t.fq.waiting.length

/-- R307. -/
def execFqpop (f : VForm) (s : State) : Out :=
  service f s fun m a _ =>
    match s.placeResult m 0xE4 a 32 32 (if bitAt a 63 then List.range 16 else [0, 1]) a with
    | .inl t => t
    | .inr (t, o) =>
      let bs := if t.fqEmpty then List.replicate 32 0 else t.mem.readN (t.fqSlot t.fqHead) 32
      let u := if t.fqEmpty then t else t.popFault
      u.launchOp { o.fillResult bs with ord := 1, scope := 4 }

/-! ### Resuming parked accesses (R303, R308, R310, R311) -/

/-- Whether an address lies in a 64 KiB page. -/
abbrev inPage (page : Nat) (va : W64) : Bool := va.toNat % 2 ^ 56 / 0x10000 == page

/-- Parked elements of operations resume. -/
def State.resumeOps (s : State) (ctx page : Nat) (fail : Bool) : State :=
  let parked (e : Elem) : Bool := inPage page e.va && match e.stage with | .pageFault | .writeProtect => true | _ => false
  let ops := s.mops.filter fun o => o.ctx == ctx && o.elems.any parked
  ops.foldl (fun t o => (((o.elems.filter parked).foldl (fun t e => t.resumeElem o fail e) t).recount o.id).settleOp o.id) s

/-- The lanes that a split's instruction selects (R64), for a word of format V or M. -/
def Group.guarded (g : Group) (p : Split) : Mask :=
  match p.replay with
  | some m => m &&& p.mask
  | none => p.mask &&& (if bitAt p.ir 41 then ~~~(g.pred (fldN p.ir 42 3)) else g.pred (fldN p.ir 42 3))

/-- The PAGEF of a split that is parked at an address: of its fetch, or of the access that its instruction makes once for its lanes (R308). -/
def pageTrap (g : Group) (p : Split) (va : W64) : Trap :=
  if p.left = 0 ∨ va = p.pc then { split := p.idx, cause := .pagef, pc := p.pc, mask := p.mask, addr := va }
  else
    { split := p.idx, cause := .pagef, pc := p.pc, mask := g.guarded p, addr := va
      recs := (lanesOf (g.guarded p)).map fun l => { addr := va, lane := l, cause := .pagef, sz := 3, win := fldN va 56 4, opc := fldN p.ir 56 8 } }

/-- A split whose fetch, whose buffer or whose trap frame was parked goes on, or takes PAGEF (R308, R326). -/
def State.resumeSplit (s : State) (g : Group) (p : Split) (fail : Bool) (va : W64) : State :=
  let pend := g.pending.find? (·.split == p.idx)
  match pend, fail with
  | some t, true => s.fatalContext g.gid t.cause.code t.pc
  | some _, false => s.setWait g.gid p.idx .trapped
  | none, true => (s.setWait g.gid p.idx .none).trapGroup g.gid (pageTrap g p va)
  | none, false => s.setWait g.gid p.idx .none

/-- Parked fetches resume; of several that fail, the lowest split's trap is entered first (R331). -/
def State.resumeFetches (s : State) (ctx page : Nat) (fail : Bool) : State :=
  (s.groups.filter (·.ctx == ctx)).foldl (fun t g => (sortOn (·.idx) g.splits).foldl (fun t p =>
    match p.wait with
    | .fetch va => if inPage page va then t.resumeSplit g p fail va else t
    | _ => t) t) s

/-- Parked copy operations resume (R220). -/
def State.resumeCopies (s : State) (ctx page : Nat) (fail : Bool) : State :=
  s.copies.foldl (fun t c =>
    match c.park with
    | some va =>
      if c.ctx = ctx ∧ inPage page va then
        if fail then t.copyHalt c (t.copyDests c) (.fault .pagef va) else t.setCopy { c with park := none }
      else t
    | none => t) s

/-- Parked drains and rings resume; one that fails ends with PAGEF when the Lathe next turns to it (R244). -/
def State.resumeLathe (s : State) (ctx page : Nat) (fail : Bool) : State :=
  let hit (c : Nat) (park : Option W64) : Bool := c == ctx && park.any (inPage page)
  { s with lathe := s.lathe.map fun o => if hit o.ctx o.park then { o with park := none, failed := if fail then o.park else none } else o
           rings := s.rings.map fun r => if hit r.ctx r.park then { r with park := none, failed := if fail then r.park else none } else r }

/-- Every access parked on a page resumes, and the page's CAM entries are free (R306, R308). -/
def State.resumePage (s : State) (ctx page : Nat) (fail : Bool) : State :=
  let t : State := { s with cam := s.cam.filter fun e => !(e.ctx == ctx && e.page == page) }
  (((t.resumeOps ctx page fail).resumeFetches ctx page fail).resumeCopies ctx page fail).resumeLathe ctx page fail

/-- R308. -/
def execFqrpl (f : VForm) (s : State) : Out :=
  service f s fun m a b =>
    if fldN b 17 47 ≠ 0 ∨ !s.mayName (fldN b 0 16) then s.trap .range m a
    else
      match s.releaseWait 4 m with
      | some t => t
      | none => s.retire.resumePage (fldN b 0 16) (a.toNat % 2 ^ 56 / 0x10000) (bitAt b 16)

/-! ### The ROM's fault service (R309, R310) -/

/-- Whether an address of a context is mapped. -/
def State.mapped (s : State) (ctx va : Nat) : Bool :=
  match s.walk ctx (BitVec.ofNat 64 va) with | .leaf _ _ => true | _ => false

/-- The pages of a span within a region. -/
def spanPages (base len size page va : Nat) : List Nat :=
  let lo := max base (va / size * size)
  let hi := min (base + len) (va / size * size + size)
  (List.range ((hi - lo) / page)).map fun i => lo + page * i

/-- The spans of the neighbourhood prefetcher, from twice the page size up to BLOCK (R310). -/
def State.prefetch (s : State) (ctx base len page : Nat) (template : W64) (exp : Bool) (thresh va : Nat) : List Nat → State
  | [] => s
  | size :: rest =>
    let ps := spanPages base len size page va
    let missing := ps.filter fun p => !s.mapped ctx p
    let t := if thresh * ps.length < (ps.length - missing.length) * 100 then (s.mapPages ctx template exp missing).getD s else s
    t.prefetch ctx base len page template exp thresh va rest

/-- The ROM service serves one fault on an address (R310): it maps the page and its neighbourhood and answers; outside every region it answers with FAIL. The policy of a patch is unspecified (R382). -/
def State.serveFault (s : State) (c : Context) (va : Nat) : State :=
  let page64 := va / 0x10000
  if s.mapped c.id va then s.resumePage c.id page64 false
  else
    match c.demand.find? fun d => decide (d.1 ≤ va) && decide (va < d.1 + d.2.1) with
    | none => s.resumePage c.id page64 true
    | some (base, len, template, exp) =>
      let page := pteBytes template
      let policy := if s.patched then Config.choose s.tick 4500 % 3 else 2
      match s.mapPage c.id (va / page * page) template exp with
      | none => s.resumePage c.id page64 true
      | some t =>
        if policy = 0 then s.resumePage c.id page64 true
        else if policy = 1 then t.resumePage c.id page64 false
        else
          let sizes := ((List.range 26).filter fun k => decide (17 ≤ k) && decide (k ≤ c.logBlock) && decide (page < 2 ^ k)).map (2 ^ ·)
          (t.prefetch c.id base len page template exp c.thresh va sizes).resumePage c.id page64 false

/-- FAULT_SERVICE (R309, R310): the ROM takes the next entry, unless a service serves its context. -/
def execFaultService (s : State) : Out :=
  let slot := s.fqSlot s.fqHead
  if s.fqEmpty then go s
  else
    match s.ctx? (s.mem.num (slot + 8) 2) with
    | none => go s.popFault
    | some c => if c.service.isSome then go s else go (s.popFault.serveFault c (s.mem.num slot 8))

/-! ### Migration (R311, R312) -/

/-- Step 1: WP is set in the leaf at its home, and no TLB keeps the page. -/
def State.protectPage (s : State) (ctx : Nat) (va : W64) : State :=
  match s.walk ctx (BitVec.ofNat 64 (va.toNat % 2 ^ 56)) with
  | .leaf p at' =>
    { s with mem := s.mem.write at' (s.mem.read at' ||| 0x20) }.invalidate (.page ctx (va.toNat % 2 ^ 56 / pteBytes p * pteBytes p) (pteBytes p))
  | _ => s

/-- R311. -/
def execMigr (f : VForm) (s : State) : Out :=
  service f s fun m a b =>
    let c := cUni f s
    let ctx := fldN c 0 16
    let bad : Bool := fldN c 16 48 ≠ 0 || !s.mayName ctx || !bitAt b 0 || (pteD b && pteTier b != 0)
    match s.walk ctx (BitVec.ofNat 64 (a.toNat % 2 ^ 56)) with
    | .leaf p _ =>
      if bad || fldN b 33 2 != fldN p 33 2 then s.trap .range m a
      else if 63 ≤ s.G.count .cpy then s.stall
      else
        let o : CopyOp := { id := s.nextId, gid := s.cur.1, kind := .migr, ctx := s.G.ctx, pc := s.S.pc, core := s.G.core, wg := s.G.wg
                            a := a, b := b, c := c }
        ((({ s.fresh with copies := s.copies ++ [o] } : State).modG fun g => g.raise o.id .cpy).protectPage ctx a).retire
    | _ => s.trap .range m a

/-- A location moved from an old frame to a new one. -/
def moveLoc (old size : Nat) (new : Loc) (l : Loc) : Loc :=
  match l with
  | .mem a => if old ≤ a ∧ a < old + size then new.add (a - old) else l
  | _ => l

/-- Step 2: the bytes, tags and poison marks of a page reach the new frame. -/
def State.copyPage (s : State) (ctx : Nat) (old new : Loc) (size : Nat) : State :=
  let t := match s.selfLoc new with
    | .peer p a => s.sendWrite p a (s.readLoc old size) ctx
    | l => s.writeLoc l (s.readLoc old size)
  match old, new with
  | .mem a, .mem b =>
    { t with tags := (List.range (size / 8)).foldl (fun m i => SMap.set 0 m (b / 8 + i) (SMap.get 0 s.tags (a / 8 + i))) t.tags
             poison := (s.poison.filter fun e => decide (a ≤ e.1) && decide (e.1 < a + size)).foldl
               (fun m e => m.put (b + (e.1 - a)) e.2) (t.poison.filter fun e => !(decide (b ≤ e.1) && decide (e.1 < b + size))) }
  | _, _ => t

/-- Step 4: waiter entries and evaluations of the page move to the new home, with what waits behind them, and writes that parked on WP replay
(R196, R311). -/
def State.rehome (s : State) (ctx : Nat) (va : W64) (old : Loc) (size : Nat) (new : Loc) : State :=
  let move (e : Elem) : Elem :=
    match e.stage with
    | .waiting _ | .todo | .released _ _ => { e with loc := moveLoc old.offset size new e.loc }
    | _ => e
  let t : State := match old with
    | .mem a => { s with
        mops := s.mops.map fun o => { o with elems := o.elems.map move }
        evals := s.evals.map fun e => { e with word := (moveLoc a size new (.mem e.word)).offset } }
    | _ => s
  let base := va.toNat % 2 ^ 56 / size * size
  (List.range (size / 0x10000)).foldl (fun t i => t.resumePage ctx (base / 0x10000 + i) false) t

/-- Steps 2 to 4 of a migration of a page of a context to the frame of an entry (R311). -/
def State.finishMigration (s : State) (ctx : Nat) (va b p : W64) (at' : Nat) : State :=
  let size := pteBytes p
  let old := leafLoc p 0
  let new := leafLoc b 0
  let keep : W64 := (s.mem.num at' 8 : W64) &&& 0x1800000000
  let t := s.copyPage ctx old new size
  let t : State := { t with mem := t.mem.setNum at' 8 ((b &&& ~~~0x1800000020) ||| keep).toNat }
  let t := t.invalidate (.page ctx (va.toNat % 2 ^ 56 / size * size) size)
  let t : State := { t with l1 := t.l1.filter fun e => !e.loc.overlaps 128 old size }
  t.rehome ctx va old size new

/-- Whether an access that reached a frame has yet to be performed there (R312), a write of an engine to a peer's frame among them; one that waits
for an earlier access goes on at the new frame. -/
def State.frameBusy (s : State) (old : Loc) (size : Nat) : Bool :=
  (s.mops.any fun o => o.elems.any fun e => e.loc.overlaps e.size old size &&
    match e.stage with | .todo | .released _ _ => s.performable o e | .sent _ | .remoteWait => true | _ => false)
  || (s.sent ++ s.unsent).any fun q => isRequest q.type && q.type != 3 && q.type != 0x24 && (Loc.peer q.dst.toNat (q.line.toNat * 128)).overlaps 128 old size

/-- A MIGRATE command goes on with the first of its pages that is still mapped, or completes (R379). -/
def State.startMigrate (s : State) (m : Migrate) : List (W64 × W64) → State
  | [] => { s with migrates := s.migrates.filter (·.op != m.op) }.completeCmd (some m.cmd) 0
  | (va, pte) :: rest =>
    match s.walk m.ctx va with
    | .leaf p _ =>
      let c : CopyOp := { id := s.nextId, kind := .migr, a := va, b := pte, c := BitVec.ofNat 64 m.ctx }
      let n : Migrate := { m with op := s.nextId, pages := rest, old := leafLoc p 0 }
      ({ s.fresh with copies := s.copies ++ [c], migrates := s.migrates.map fun x => if x.op = m.op then n else x } : State).protectPage m.ctx va
    | _ => (s.freeFrames (leafLoc pte 0)).startMigrate m rest

/-- A page of a MIGRATE command is over: the frame that it left, or that it has not reached, is free. -/
def State.migrateNext (s : State) (op : Nat) (free : Loc) : State :=
  match s.migrates.find? (·.op == op) with
  | none => s
  | some m => (s.freeFrames free).startMigrate m m.pages

/-- A migration cannot be made: a MIGRATE command goes on, MIGR faults (R311). -/
def State.migrationFails (s : State) (c : CopyOp) : State :=
  if s.migrates.any (·.op == c.id) then { s with copies := s.copies.filter (·.id != c.id) }.migrateNext c.id (leafLoc c.b 0)
  else s.copyHalt c [] (.fault .perm c.a)

/-- MIGRATION_DONE (R311): a migration's copy is whole, the new entry is stored and parked writes replay. -/
def execMigrationDone (op : Nat) (s : State) : Out :=
  match s.copy? op with
  | none => go s
  | some c =>
    let ctx := fldN c.c 0 16
    if c.kind != .migr then go s
    else
      match s.walk ctx (BitVec.ofNat 64 (c.a.toNat % 2 ^ 56)) with
      | .leaf p at' =>
        if !leafGood (fldN c.b 33 2) c.b then go (s.migrationFails c)
        else if s.frameBusy (leafLoc p 0) (pteBytes p) || s.engineUnsettled (.page ctx (c.a.toNat % 2 ^ 56 / pteBytes p * pteBytes p) (pteBytes p)) then go s
        else
          let t := { s with copies := s.copies.filter (·.id != c.id) }.finishMigration ctx c.a c.b p at'
          go ((t.modGroup c.gid fun g => g.finish c.id .cpy).migrateNext c.id (leafLoc p 0))
      | _ => go (s.migrationFails c)

/-! ### Ownership tokens (R313 to R315) -/

/-- The region that an operand names, or the step that a bad address takes (R315). -/
def State.regionOf (s : State) (m : Mask) (a : W64) : State ⊕ Nat :=
  if 2 ^ 60 ≤ a.toNat then .inl (s.trap .range m a)
  else
    match s.walk s.G.ctx (BitVec.ofNat 64 (a.toNat % 2 ^ 56)) with
    | .unmapped => .inl (s.parkIssue a 0 (fldN a 56 4) false)
    | .bad => .inl (s.trap .perm m a)
    | .leaf p _ =>
      match leafLoc p (a.toNat % 2 ^ 56) with
      | .peer d x => .inr (if s.peer = some d then (Loc.mem x).region else (Loc.peer d x).region)
      | .host _ | .cmd _ => .inl (s.trap .winf m a)
      | l => .inr l.region

/-- Since when a token operation waits for a peer: from its issue, if that is RECOVERING (R345). -/
def State.tokSince (s : State) (r : Nat) : Option W64 :=
  if !regionHere r && SMap.get .absent s.peers (r / 2 ^ 48 - 1) == .recovering then some s.clk else none

/-- A token instruction is counted on RMT (R315), and is in the past of what follows it (R268). -/
def State.raiseTok (s : State) (kind r : Nat) : State :=
  ({ s.fresh with tokOps := s.tokOps ++ [{ id := s.nextId, gid := s.cur.1, split := s.cur.2, kind := kind, region := r, since := s.tokSince r }] } : State).modG
    fun g => (g.raise s.nextId .rmt).modSplit s.cur.2 fun p => { p with past := p.past ++ [s.nextId] }

/-- A token operation is over: RMT falls. -/
def State.finishTok (s : State) (q : TokOp) : State :=
  { s.modGroup q.gid fun g => g.finish q.id .rmt with tokOps := s.tokOps.filter (·.id != q.id) }

/-- A token request for a region of a peer, or its refusal by the peer's state; one that is RECOVERING is asked when it is back (R345). -/
def State.askPeer (s : State) (r : Nat) : State :=
  let d := r / 2 ^ 48 - 1
  match SMap.get .absent s.peers d with
  | .fenced | .absent => (s.modG fun g => g.recordFailure d 2 (BitVec.ofNat 64 (r % 2 ^ 48 * 2 ^ 21))).finishAcq r
  | .recovering => s
  | _ => s.askTok s.G.ctx d r false

/-- R315. -/
def execTokacq (f : VForm) (s : State) : Out :=
  let m := selV f s
  if m = 0 then go s.retire
  else
    match s.regionOf m (aUni f s) with
    | .inl t => go t
    | .inr r =>
      if 63 ≤ s.G.count .rmt then go s.stall
      else
        let t := s.raiseTok 0 r
        let held := (t.token? r).any fun x => !x.recalled && !x.pinned
        go (if regionHere r then t.requestToken none r else if held then t.finishAcq r else t.askPeer r).retire

/-- R315. RMT falls when the home answers (TOK_QUERY_ANSWER). -/
def execTokrel (f : VForm) (s : State) : Out :=
  let m := selV f s
  if m = 0 then go s.retire
  else
    match s.regionOf m (aUni f s) with
    | .inl t => go t
    | .inr r =>
      match s.releaseWait 5 m with
      | some t => go t
      | none =>
        if 63 ≤ s.G.count .rmt then go s.stall
        else if regionHere r ∨ !(s.token? r).any (!·.pinned) then go (s.raiseTok 1 r).retire
        else go (((s.raiseTok 1 r).modToken r fun x => { x with recalled := true }).yieldToken r).retire

/-- The code by which the result write of a query waits for its answer; no packet has it. -/
abbrev queryCode : Nat := 2 ^ 20

/-- The result of a query enters its write, which then is performed. -/
def State.answerQuery (s : State) (op : Nat) (w : W64) : State :=
  ({ s with tokOps := s.tokOps.filter (·.id != op) } : State).modOp op fun o =>
    { o.fillResult (bytesOf 8 w) with elems := (o.fillResult (bytesOf 8 w)).elems.map fun e => { e with stage := .todo } }

/-- R315. -/
def execTokqry (f : VForm) (s : State) : Out :=
  let m := selV f s
  if m = 0 then go s.retire
  else
    match s.regionOf m (aUni f s) with
    | .inl t => go t
    | .inr r =>
      if 63 ≤ s.G.count .rmt then go s.stall
      else
        match s.placeResult m 0xE2 (bUni f s) 8 8 [0, 1, 12] (aUni f s) with
        | .inl t => go t
        | .inr (t, o) =>
          let q : TokOp := { id := o.id, gid := s.cur.1, split := s.cur.2, kind := 2, region := r, since := s.tokSince r }
          let o := { o with elems := o.elems.map fun e => { e with stage := .sent queryCode } }
          let u := ({ t.fresh with tokOps := t.tokOps ++ [q], mops := t.mops ++ [o] } : State).modG fun g =>
            (g.raise o.id .rmt).modSplit s.cur.2 fun p => { p with past := p.past ++ [o.id] }
          let d := r / 2 ^ 48 - 1
          go (if regionHere r then u
            else match SMap.get .absent u.peers d with
              | .fenced | .absent => (u.modG fun g => g.recordFailure d 2 (aUni f s)).answerQuery o.id (Config.free64 s.tick 8600)
              | .recovering => u
              | _ => u.askTok s.G.ctx d r true).retire

/-- The status word of a region homed here, as a device asks, none for this one (R315). -/
def State.tokStatus (s : State) (r : Nat) (who : Option Nat) : W64 :=
  let own := s.peer.getD 0
  let (st, holder, moves) := match s.token? r with
    | none => (1, own, 0)
    | some t =>
      let n := (s.recentMoves t).length
      if t.pinned then (4, own, n) else match t.holder with | none => (1, own, n) | some p => (if who = some p then 2 else 3, p, n)
  BitVec.ofNat 64 (2 ^ 63 + st + holder % 2 ^ 9 * 2 ^ 8 + moves % 16 * 2 ^ 24)

/-- What the home of a region says about a pin is remembered, for the counter of accesses to pinned regions: as of its last answer (R323, log 103). -/
def State.notePin (s : State) (r : Nat) (pinned : Bool) : State :=
  let rest := s.tokens.filter fun t => !(t.region == r && t.pinned)
  { s with tokens := if pinned && !(rest.any (·.region == r)) then rest ++ [{ region := r, pinned := true }] else rest }

/-- TOK_QUERY_ANSWER (R315): the home answers a token operation, unless it is RECOVERING; a query's status word is then written. -/
def execTokQueryAnswer (op : Nat) (status : W64) (s : State) : Out :=
  match s.tokOps.find? (·.id == op) with
  | none => go s
  | some q =>
    if q.since.isSome && !regionHere q.region then go s
    else if regionHere q.region then
      match q.kind with
      | 0 => go s
      | 1 => go (s.finishTok q)
      | _ => go (s.answerQuery op (s.tokStatus q.region none))
    else
      match q.kind with
      | 0 => go (if fldN status 0 3 = 4 then (s.finishAcq q.region).notePin q.region true else s)
      | 1 => go (if (s.token? q.region).any (!·.pinned) then s else s.finishTok q)
      | _ => go ((s.answerQuery op ((status &&& 0x0F01FF07) ||| 0x8000000000000000)).notePin q.region (fldN status 0 3 == 4))

/-- A peer's query is answered by the home (R315). -/
def State.serveQuery (s : State) (p : Packet) (region : Nat) : State :=
  s.sendTokStatus p.ctx p.tag p.src.toNat region true (s.tokStatus region (some p.src.toNat))

/-- TOK_REQUEST (R314): a peer's request arrives at the home. -/
def execTokRequest (peer region : Nat) (s : State) : Out :=
  go (if regionHere region then s.requestToken (some peer) region else s)

/-- TOK_GRANT (R314): this device becomes the holder of a region of a peer; at a region's home the oldest request is served. -/
def execTokGrant (region : Nat) (s : State) : Out :=
  if regionHere region then go (s.serveToken region)
  else
    let s := s.notePin region false
    let t : State := if (s.token? region).isSome then s else { s with tokens := s.tokens ++ [{ region := region, lastMove := s.clk }] }
    go (t.finishAcq region)

/-- TOK_RECALL (R314): lines of the region are invalid, and the token returns once the device's stores there are performed. -/
def execTokRecall (region : Nat) (s : State) : Out :=
  if regionHere region then go (s.serveToken region)
  else go (((s.l1DropRegion region).modToken region fun t => { t with recalled := true }).yieldToken region)

/-- TOK_RETURN (R314): a holder returns the token of a region homed here. -/
def execTokReturn (region : Nat) (s : State) : Out :=
  match s.token? region with
  | none => go s
  | some t => go (if regionHere region && t.holder.isSome && !t.pinned then s.moveToken t else s)

/-- TOKEN_HOLD_EXPIRY (R314): a recall, a grant or a return that had to wait proceeds. -/
def execTokenHoldExpiry (region : Nat) (s : State) : Out :=
  go (if regionHere region then s.serveToken region else s.yieldToken region)

/-- Requests that wait for an entry of the token table are served as far as entries are free (R313). -/
def State.serveTokWait (s : State) : State :=
  match s.tokWait with
  | [] => s
  | (w, r) :: rest =>
    if (s.tokens.filter fun t => regionHere t.region).length < 16384 then ({ s with tokWait := rest } : State).requestToken w r else s

/-- TOKEN_ENTRY_EXPIRY (R313): an entry at home, unpinned and unmoved for 1 ms ages out. -/
def execTokenEntryExpiry (region : Nat) (s : State) : Out :=
  match s.token? region with
  | none => go s
  | some t =>
    if regionHere region && t.holder.isNone && !t.pinned && t.waiting.isEmpty && (s.recentMoves t).isEmpty then
      go ({ s with tokens := s.tokens.filter (·.region != region) } : State).serveTokWait
    else go s

end Sys2Proof.Machine
end

