-- ==== Sys2Proof/Machine/Lathe.lean ====
section
/-! DEFINITION. The Lathe on the instruction path: opcodes 0xC0 to 0xC5 and 0xC9 to 0xCC, team issue, chunk accumulation, the accumulator port, activation banks and the handler strip (R96, R172, R230 to R246, R251, R252, R262, R263). -/

namespace Sys2Proof.Machine

open Sys2Proof

/-! ### Operand words (R231, R232, R236 to R238) -/

/-- The accumulator word that D names (R231). -/
def accRef (f : VForm) (s : State) : W64 :=
  if bitAt f.d 7 then BitVec.ofNat 64 (64 * fldN f.d 5 2 + 32 * fldN f.d 0 5 * 2 ^ 8) else s.G.sreg s.cur.2 (fldN f.d 0 6)

/-- ROW, COL and INIT of an accumulator word (R232). -/
abbrev accRow (a : W64) : Nat := fldN a 0 8
@[inherit_doc accRow] abbrev accCol (a : W64) : Nat := fldN a 8 10
@[inherit_doc accRow] abbrev accInit (a : W64) : Bool := bitAt a 18

/-- The fields of a format word (R236). -/
structure Fw where
  afmt : Nat
  bfmt : Nat
  blen : Nat
  spar : Nat
  bt : Bool
  deriving DecidableEq, Repr

/-- A format word's fields. -/
def fmtOf (w : W64) : Fw := ⟨fldN w 0 4, fldN w 4 4, fldN w 8 2, fldN w 10 3, bitAt w 13⟩

/-- Kept elements of a K-group by SPAR (R170, R236). -/
def keptOf (spar : Nat) : Nat := match spar with | 1 => 12 | 2 => 16 | 3 => 24 | 4 => 32 | _ => 0

/-- L of a format word. -/
abbrev Fw.len (f : Fw) : Nat := blockLen f.blen
/-- Elements of an A block as stored (R170). -/
def Fw.aElts (f : Fw) : Nat := if f.spar = 0 then f.len else keptOf f.spar
/-- Bb of A and of B (R237). -/
def Fw.aBytes (f : Fw) : Nat := f.aElts * eltWidth f.afmt / 8
@[inherit_doc Fw.aBytes] def Fw.bBytes (f : Fw) : Nat := f.len * eltWidth f.bfmt / 8

/-- Whether a format word is bad for an operation (R236). -/
def fmtBad (sparse : Bool) (w : W64) : Bool :=
  let f := fmtOf w
  f.afmt == 15 || f.bfmt == 15 || decide (4 < f.spar) || fldN w 14 50 != 0 || (f.spar != 0 && f.blen != 2)
    || (sparse != (f.spar != 0)) || (f.spar == 1 && eltWidth f.afmt % 2 == 1)
    || (f.bt && eltWidth f.bfmt != 8 && eltWidth f.bfmt != 16)

/-- BOFF, N, K and BPITCH of a B descriptor (R237). -/
abbrev bOff (b : W64) : Nat := fldN b 0 20
@[inherit_doc bOff] abbrev bN (b : W64) : Nat := fldN b 20 9
@[inherit_doc bOff] abbrev bK (b : W64) : Nat := fldN b 29 11
@[inherit_doc bOff] abbrev bPitch (b : W64) : Nat := fldN b 40 16

/-- Registers of one A block and of the whole span (R239). -/
def spanBlock (f : Fw) : Nat := (f.aBytes + 3) / 4
@[inherit_doc spanBlock] def spanRegs (f : Fw) (k : Nat) : Nat := k / f.len * spanBlock f

/-- The smallest power of two that is at least n (R239). -/
def pow2At (n : Nat) : Nat := if n ≤ 1 then 1 else 2 ^ ((n - 1).log2 + 1)

/-! ### Bands (R21, R233) -/

/-- The bands of columns. -/
def bandsOf (col cols : Nat) : List Nat := if cols = 0 then [] else (List.range 17).filter fun b => decide (col / 32 ≤ b) && decide (b ≤ (col + cols - 1) / 32)

/-- Whether a workgroup may use the bands of columns (R233). -/
def State.bandsFree (s : State) (core wg col cols : Nat) : Bool :=
  (bandsOf col cols).all fun b => let h := SMap.get 0 s.bands (32 * core + b); h == 0 || h == wg

/-- A workgroup claims a band; after another context it reads as zero (R21, R233). -/
def State.claimBand (s : State) (core wg ctx b : Nat) : State :=
  let k := 32 * core + b
  if SMap.get 0 s.bands k = wg then s
  else
    let clean := SMap.get 0 s.bandCtx k == ctx + 1
    { s with bands := SMap.set 0 s.bands k wg, bandCtx := SMap.set 0 s.bandCtx k (ctx + 1)
             acc := if clean then s.acc else s.acc.filter fun e =>
               !(e.1 / 1024 / 256 == core && decide (32 * b ≤ e.1 % 1024) && decide (e.1 % 1024 < 32 * b + 32))
             accPoison := if clean then s.accPoison else s.accPoison.filter fun e =>
               !(e.1 / 1024 / 256 == core && decide (32 * b ≤ e.1 % 1024) && decide (e.1 % 1024 < 32 * b + 32)) }

/-- The bands of columns are claimed (R233). -/
def State.claimBands (s : State) (core wg ctx col cols : Nat) : State :=
  (bandsOf col cols).foldl (fun t b => t.claimBand core wg ctx b) s

/-! ### Checks at issue (R240) -/

/-- Codes of MXFLT (R240). -/
inductive MxCode where
  | badfmt | shape | accrange | accown | sprange | pair | draincw | ring | strip
  deriving DecidableEq, Repr

/-- The number of a code (R240). -/
def MxCode.num : MxCode → Nat
  | .badfmt => 1 | .shape => 2 | .accrange => 3 | .accown => 4 | .sprange => 5 | .pair => 6 | .draincw => 7 | .ring => 8 | .strip => 9

/-- What a check reports: its cause and SR_TADDR. -/
abbrev Report := Cause × W64

/-- MXFLT with a code. -/
def mx (c : MxCode) : Report := (.mxflt, BitVec.ofNat 64 c.num)

/-- The first check of a list that fails. -/
def firstFail (l : List (Bool × Report)) : Option Report := (l.find? (·.1)).map (·.2)

/-- The failing check of the lowest code among checks that report MXFLT (R240). -/
def firstMx (l : List (Bool × Report)) : Option Report :=
  firstFail ((List.range 10).map fun c => l.filter fun x => x.2.2.toNat == c).flatten

/-- The region checks of R240 for rows and columns of a core: ACCRANGE, ACCOWN, and STRIP in trap mode. -/
def State.regionChecks (s : State) (strip : Bool) (core wg row rows col cols : Nat) : List (Bool × Report) :=
  [(decide (256 < row + rows) || (!strip && decide (544 < col + cols)), mx .accrange),
   (!strip && !s.bandsFree core wg col cols, mx .accown),
   (strip && (decide (col < 544) || decide (576 < col + cols)), mx .strip)]

/-- Whether the operands of an MMA lie in the allotment and are aligned (R237, R238): the last byte of B, of the scales and of the metadata. -/
def mmaReach (f : Fw) (size t n : Nat) (b sc : W64) : Bool :=
  let k := bK b
  let chunks := k / f.len
  let inside (off len : Nat) : Bool := decide (off + len ≤ size)
  let bLen := if f.bt then (k - 1) * bPitch b + n * eltWidth f.bfmt / 8 else (n - 1) * bPitch b + chunks * f.bBytes
  let bScales := if f.bt then (chunks - 1) * bN b + n else ((n - 1) * bPitch b + chunks * f.bBytes) / f.bBytes
  bOff b % 64 == 0 && inside (bOff b) bLen
    && (fldN sc 0 20 == 0 || !scaled f.afmt || inside (fldN sc 0 20) (64 * t * chunks))
    && (fldN sc 20 20 == 0 || !scaled f.bfmt || inside (fldN sc 20 20) bScales)
    && (f.spar == 0 || (fldN sc 40 20 % 8 == 0 && inside (fldN sc 40 20) (8 * 64 * t * chunks)))

/-- SHAPE of a matrix operand (R237 to R240). -/
def mmaShape (f : Fw) (maxN areg : Nat) (b sc : W64) : Bool :=
  let k := bK b
  let na := spanRegs f k
  fldN b 56 8 != 0 || fldN sc 60 4 != 0 || bN b == 0 || decide (maxN < bN b) || k == 0 || k % f.len != 0
    || decide (64 < na) || areg % pow2At na != 0 || bPitch b % 16 != 0 || (!f.bt && bPitch b % f.bBytes != 0)

/-- Whether an operation is a team instruction. -/
def LatheKind.team : LatheKind → Bool
  | .mma | .pmma | .smma => true
  | _ => false

/-- The checks of MMA, PMMA and SMMA at a member's issue, in the order of R240. -/
def State.mmaCheck (s : State) (kind : LatheKind) (areg : Nat) (acc b fw sc : W64) : Option Report :=
  let g := s.G
  let f := fmtOf fw
  let t := if g.strip then 1 else g.teamSize
  let n := min (bN b) 192
  let pairs : List (Bool × Report) :=
    if kind = .pmma && (s.wgOf g.wg).pair then (s.regionChecks g.strip (g.core + 1) g.wg (accRow acc) (64 * t) (accCol acc) (bN b - 192)) else []
  let span := (List.range (spanRegs f (bK b))).find? fun j => decide (16 * g.nblk ≤ areg + j)
  let region := s.regionChecks g.strip g.core g.wg (accRow acc) (64 * t) (accCol acc) n
  let code (c : Nat) (l : List (Bool × Report)) : List (Bool × Report) := l.filter fun x => x.2.2.toNat == c
  firstFail ([(fmtBad (kind == .smma) fw, mx .badfmt), (mmaShape f (if kind = .pmma then 384 else 192) areg b sc, mx .shape),
      (span.isSome, (.regown, BitVec.ofNat 64 (areg + span.getD 0))), (fldN acc 19 45 != 0, mx .accrange)]
    ++ code 3 (region ++ pairs) ++ code 4 (region ++ pairs)
    ++ [(!mmaReach f (s.wgOf g.wg).size t n b sc, mx .sprange), (kind == .pmma && !(s.wgOf g.wg).pair, mx .pair)] ++ code 9 region)

/-! ### Team issue (R234) -/

/-- Groups of a team that have not ended. -/
def State.teamAlive (s : State) (o : LatheOp) : List Group :=
  s.groups.filter fun g => g.wg == o.wg && g.ginwg / g.teamSize == o.team && !g.ended

/-- An operation is over: the MTX counter of every member, or of the issuer, falls (R243). -/
def State.latheDone (s : State) (o : LatheOp) : State :=
  let gs := if o.kind.team then o.members.map (·.gid) else [o.gid]
  let t := gs.foldl (fun t g => t.modGroup g fun x => x.finish o.id .mtx) s
  { t with lathe := t.lathe.filter (·.id != o.id) }

/-- Whether a ring runs on a core (R254). -/
def State.ringOn (s : State) (core : Nat) : Bool := s.rings.any (·.core == core)

/-- Whether a started operation, or a PMMA of the pair, keeps a core's Lathe from a PMMA (R245). -/
def State.followerFree (s : State) (core : Nat) : Bool :=
  !s.ringOn core && !(s.lathe.any fun o => o.core == core && o.started)

/-- A team operation without its leader is void; one at which every live member has arrived is ready (R234, R245). -/
def State.settleTeam (s : State) (o : LatheOp) : State :=
  if !o.kind.team || o.order.isSome then s
  else
    let alive := s.teamAlive o
    let here (g : Nat) : Bool := o.members.any (·.gid == g)
    if !o.members.any (·.idx == 0) && !alive.any (·.teamIdx == 0) then s.latheDone o
    else if (o.inStrip || (o.members.any (·.idx == 0) && alive.all fun g => here g.gid))
        && (o.kind != .pmma || s.followerFree (o.core + 1)) then
      { s.fresh with lathe := s.lathe.map fun x => if x.id = o.id then { x with order := some s.nextId } else x }
    else s

/-- Every team operation is settled, in the order in which they were begun. -/
def State.settleTeams (s : State) : State := s.lathe.foldl (fun t o => t.settleTeam o) s

/-- A member's arrival enters its operation; the leader's words are the operation's (R234). -/
def LatheOp.arrive (o : LatheOp) (a : Arrival) (kind : LatheKind) (acc b fw sc : W64) (reuse : Bool) : LatheOp :=
  let o := { o with members := o.members ++ [a] }
  if a.idx = 0 then { o with kind := kind, gid := a.gid, acc := acc, bdesc := b, fmt := fw, scale := sc, reuse := reuse } else o

/-- An A register of a lane as an operation reads it: old or new where no OPFENCE followed a write before its issue, unspecified while its load is in
flight (R214, R243). -/
def State.aReg (s : State) (g : Group) (old : SMap W32) (r l : Nat) : W32 :=
  let loading := s.mops.any fun o => o.kind != .store && !o.toS && (match o.owner with | .group h _ => h == g.gid | _ => false)
    && o.elems.any fun e => e.lane == l && decide (o.d + e.reg ≤ r) && decide (r < o.d + e.reg + regCount e.size) && e.stage != .done
  if loading then (Config.free64 s.tick (80000 + 64 * r + l)).setWidth 32
  else
    match old.find? (·.1 == 64 * r + l) with
    | some e => if Config.choose s.tick (80000 + 64 * r + l) % 2 = 0 then e.2 else g.vreg r l
    | none => g.vreg r l

/-- Whether every element of one region lies in regions of a list. -/
def AccSpan.within (a : AccSpan) (l : List AccSpan) : Bool :=
  (List.range a.rows).all fun i => (List.range a.cols).all fun j => l.any fun b =>
    b.core == a.core && decide (b.row ≤ a.row + i) && decide (a.row + i < b.row + b.rows) && decide (b.col ≤ a.col + j) && decide (a.col + j < b.col + b.cols)

/-- A group in an idempotent region starts an accumulation, by INIT or ACCZ, or continues one (R337). -/
def Group.accumulates (g : Group) (a : AccSpan) (starts : Bool) : Group :=
  if g.idempc = 0 ∨ g.trapm then g
  else if starts then { g with begun := a :: g.begun }
  else if a.within g.begun then g
  else { g with carried := a :: g.carried }

/-- The matrix engine's answer in trap mode without the strip, and where the strip is refused (R263). -/
def hndmx (s : State) (stripOk : Bool) : Bool := s.G.trapm && (!s.G.strip || !stripOk)

/-- MMA, PMMA and SMMA (R234): a pending fault is delivered, the operands are checked, and the member arrives. -/
def teamIssue (f : VForm) (s : State) (kind : LatheKind) : State :=
  let m := selV f s
  let g := s.G
  match s.deliverLathe with
  | some t => t
  | none =>
    if hndmx s (kind != .pmma) then s.trap .hndmx m 0
    else if 63 ≤ g.count .mtx then s.stall
    else
      let areg := match f.a with | .v r => r.toNat | _ => 0
      let acc := accRef f s
      let b := bUni f s
      let fw := g.sreg s.cur.2 (srcS f.c)
      let sc := g.sreg s.cur.2 (srcS f.c + 1)
      match s.mmaCheck kind areg acc b fw sc with
      | some r => s.trap r.1 m r.2
      | none =>
        let reuse := bitAt f.md 10
        let code : Nat := match kind with | .mma => 0 | .pmma => 1 | _ => 2
        let arr : Arrival := { gid := s.cur.1, idx := if g.strip then 0 else g.teamIdx, mask := m, areg := areg, since := s.nextId, pc := s.S.pc
                               words := [BitVec.ofNat 64 (2 * code + reuse.toNat), acc, b, fw, sc]
                               old := g.unfenced, oldSpm := g.unfencedSpm }
        let team := g.ginwg / g.teamSize
        let t := if g.strip then s else
          let t := s.claimBands g.core g.wg g.ctx (accCol acc) (min (bN b) 192)
          if kind = .pmma then t.claimBands (g.core + 1) g.wg g.ctx (accCol acc) (bN b - 192) else t
        let found := if g.strip then none else
          t.lathe.find? fun o => o.kind.team && o.wg == g.wg && o.team == team && o.pairing == g.pairings && !o.inStrip
        let id := match found with | some o => o.id | none => t.nextId
        let t : State := match found with
          | some o => { t with lathe := t.lathe.map fun x => if x.id = o.id then x.arrive arr kind acc b fw sc reuse else x }
          | none =>
            let o : LatheOp := { id := t.nextId, kind := kind, core := g.core, wg := g.wg, ctx := g.ctx, team := team, pairing := g.pairings
                                 inStrip := g.strip }
            { t.fresh with lathe := t.lathe ++ [o.arrive arr kind acc b fw sc reuse] }
        let span : AccSpan := { core := g.core, row := accRow acc, rows := 64 * g.teamSize, col := accCol acc, cols := min (bN b) 192 }
        let second : AccSpan := { span with core := g.core + 1, cols := bN b - 192 }
        let t := t.modG fun x =>
          let y := x.accumulates span (accInit acc)
          let y := if kind = .pmma then y.accumulates second (accInit acc) else y
          { y.raise id .mtx with pairings := if g.strip then x.pairings else x.pairings + 1 }
        t.retire.settleTeams

/-- R234, R241. -/
def execMma (f : VForm) (s : State) : Out := go (teamIssue f s .mma)
/-- R234, R245. -/
def execPmma (f : VForm) (s : State) : Out := go (teamIssue f s .pmma)
/-- R234, R241. -/
def execSmma (f : VForm) (s : State) : Out := go (teamIssue f s .smma)

/-! ### Starting an operation (R230, R242, R245) -/

/-- The operation of a name. -/
def State.latheOp? (s : State) (id : Nat) : Option LatheOp := s.lathe.find? (·.id == id)

/-- The state with an operation changed. -/
def State.setLathe (s : State) (o : LatheOp) : State := { s with lathe := s.lathe.map fun x => if x.id = o.id then o else x }

/-- Whether an operation that is ready may start: in readiness order, behind no ring and no PMMA of the pair, after its groups' accumulator moves (R230, R245, R254). -/
def State.mayStart (s : State) (o : LatheOp) : Bool :=
  let gs := if o.kind.team then o.members.map fun a => (a.gid, a.since) else [(o.gid, o.id)]
  (o.kind.team || o.kind == .drain) && !o.started && o.order.isSome && !s.ringOn o.core
    && !(s.lathe.any fun x => x.core == o.core && !x.started && (match x.order, o.order with | some a, some b => decide (a < b) | _, _ => false))
    && !(s.lathe.any fun x => x.kind == .pmma && x.core + 1 == o.core && x.order.isSome)
    && !(s.lathe.any fun x => (x.kind == .accld || x.kind == .accst || x.kind == .accz) && gs.any fun g => g.1 == x.gid && decide (x.id < g.2))

/-- The shape tag of a latch: AFMT, BLEN, SPAR and K (R242). -/
def LatheOp.shape (o : LatheOp) : W64 := (o.fmt &&& 0x1F0F) ||| ((o.bdesc >>> 29 &&& 0x7FF) <<< 16)

/-- The A words that an operation reads from its members' registers. -/
def State.readA (s : State) (o : LatheOp) : SMap W32 :=
  let na := spanRegs (fmtOf o.fmt) (bK o.bdesc)
  o.members.foldl (fun m a => (lanesOf a.mask).foldl (fun m l => (List.range na).foldl (fun m j =>
    m.put (64 * (64 * a.idx + l) + j) (s.aReg (s.grp a.gid) a.old (a.areg + j) l)) m) m) []

/-- A team operation starts: A comes from the latch on a hit, else from the registers; the latch is kept or released (R96, R242). A handler's team
of one has a latch of its own name (R263). Whether a PMMA releases the follower core's latch the spec does not say: it is left alone (log 79). -/
def State.startTeam (s : State) (o : LatheOp) : State :=
  let owner := if o.inStrip then o.gid else 0
  let key (c : Collector) : Bool := c.core == o.core && c.wg == o.wg && c.team == o.team && c.strip == o.inStrip && c.gid == owner
  let a := match if o.reuse then s.collectors.find? fun c => key c && c.shape == o.shape else none with
    | some c => c.adata
    | none => s.readA o
  let others := s.collectors.filter (·.core != o.core)
  { s.setLathe { o with started := true, adata := a } with
    collectors := if o.reuse then { core := o.core, wg := o.wg, team := o.team, strip := o.inStrip, gid := owner, shape := o.shape, k := bK o.bdesc, adata := a } :: others else others }

/-! ### The results (R172, R241) -/

/-- The exact sum of a chunk's products, scaled (R172). -/
def chunkSum (ps : List Fp) (sA sB : Nat) : Fp :=
  let posInf := ps.any (· == .inf false)
  let negInf := ps.any (· == .inf true)
  if ps.any (· == .nan) || sA == 0xFF || sB == 0xFF || (posInf && negInf) then .nan
  else if posInf then .inf false
  else if negInf then .inf true
  else
    let r := ps.foldl (fun (a : Int × Int) p => match p with
      | .fin n m e => addExact (decide (a.1 < 0)) a.1.natAbs a.2 n m e
      | _ => a) (0, 0)
    if r.1 = 0 then .fin false 0 0 else .fin (decide (r.1 < 0)) r.1.natAbs (r.2 + ((sA : Int) - 127) + ((sB : Int) - 127))

/-- Where an operation's operands are read: by row and chunk for A, by column for B. -/
structure MatSrc where
  f : Fw
  k : Nat
  aBlock : Nat → Nat → Nat
  aScale : Nat → Nat → Nat
  meta' : Nat → Nat → Nat
  bElt : Nat → Nat → Nat
  bScale : Nat → Nat → Nat
  /-- Whether a poisoned byte of A, its scales or its metadata reaches a row, and one of B or its scales a column (R335, R338). -/
  aBad : Nat → Bool := fun _ => false
  bBad : Nat → Bool := fun _ => false

/-- The positions of a chunk that count: index in the A block and k within the chunk (R170). -/
def MatSrc.positions (m : MatSrc) (r c : Nat) : List (Nat × Nat) :=
  if m.f.spar = 0 then (List.range m.f.len).map fun j => (j, j)
  else (((List.range 48).filter fun j => m.meta' r c / 2 ^ j % 2 == 1).zipIdx).map fun x => (x.2, x.1)

/-- One chunk of one element (R172). -/
def MatSrc.chunk (m : MatSrc) (r n x c : Nat) : Nat :=
  let blk := m.aBlock r c
  let ps := (m.positions r c).map fun p =>
    mulFp (eltValue m.f.afmt (blockElt (eltWidth m.f.afmt) m.f.aElts p.1 blk)) (eltValue m.f.bfmt (m.bElt n (m.f.len * c + p.2)))
  fp32.add .rne (fp32.value x) (chunkSum ps (m.aScale r c) (m.bScale n c))

/-- One element: every chunk in increasing k (R241). -/
def MatSrc.elem (m : MatSrc) (r n x : Nat) : Nat := (List.range (m.k / m.f.len)).foldl (m.chunk r n) x

/-- Whether a metadata word breaks R170. -/
def metaBad (f : Fw) (w : Nat) : Bool :=
  decide (2 ^ 48 ≤ w) || ((List.range 48).filter fun j => w / 2 ^ j % 2 == 1).length != keptOf f.spar

/-- An n-byte operand at an allotment offset, byte by byte old or new where a store was not fenced, whose bytes before it are given (R214, R243). -/
def State.operand (s : State) (old : SMap Byte) (core base off n : Nat) : Nat :=
  natOfBytes ((List.range n).map fun i =>
    let k := spmKey core (base + off + i)
    match old.find? (·.1 == k) with
    | some e => if Config.choose s.tick (90000 + k) % 2 = 0 then e.2 else s.spm.read k
    | none => s.spm.read k)

/-- The operands of a team operation, with B columns on one core (R238, R239, R245). On a REUSE hit a word of a lane that the filling
operation did not supply is a free value: the spec does not say what is read there (log 80). -/
def State.teamSrc (s : State) (o : LatheOp) (core : Nat) : MatSrc :=
  let f := fmtOf o.fmt
  let k := bK o.bdesc
  let base := (s.wgOf o.wg).base
  let gs := (o.members.map (·.oldSpm)).flatten
  let at' (off n : Nat) : Nat := s.operand gs core base off n
  let asc := fldN o.scale 0 20
  let bsc := fldN o.scale 20 20
  let ra := spanBlock f
  { f := f, k := k
    aBlock := fun r c => (List.range ra).foldl (fun x j =>
      x + (SMap.get ((Config.free64 s.tick (64 * r + c * ra + j)).setWidth 32) o.adata (64 * r + c * ra + j)).toNat * 2 ^ (32 * j)) 0
    aScale := fun r c => if !scaled f.afmt then 127 else if asc = 0 then 0x7F else s.operand gs o.core base (asc + r * (k / f.len) + c) 1
    meta' := fun r c => s.operand gs o.core base (fldN o.scale 40 20 + 8 * (r * (k / 48) + c)) 8
    bElt := fun n j =>
      if f.bt then at' (bOff o.bdesc + j * bPitch o.bdesc + n * eltWidth f.bfmt / 8) (eltWidth f.bfmt / 8)
      else blockElt (eltWidth f.bfmt) f.len (j % f.len) (at' (bOff o.bdesc + n * bPitch o.bdesc + j / f.len * f.bBytes) f.bBytes)
    bScale := fun n c => if !scaled f.bfmt then 127 else if bsc = 0 then 0x7F
      else if f.bt then at' (bsc + c * bN o.bdesc + n) 1
      else at' (bsc + (n * bPitch o.bdesc + c * f.bBytes) / f.bBytes) 1
    aBad := fun r => (scaled f.afmt && asc != 0 && s.poisoned (.spm o.core (base + asc + r * (k / f.len))) (k / f.len))
      || (f.spar != 0 && s.poisoned (.spm o.core (base + fldN o.scale 40 20 + 8 * r * (k / 48))) (8 * (k / 48)))
    bBad := fun n =>
      (if f.bt then (List.range k).any fun j => s.poisoned (.spm core (base + bOff o.bdesc + j * bPitch o.bdesc + n * eltWidth f.bfmt / 8)) (eltWidth f.bfmt / 8)
        else s.poisoned (.spm core (base + bOff o.bdesc + n * bPitch o.bdesc)) (k / f.len * f.bBytes))
      || (scaled f.bfmt && bsc != 0 && (List.range (k / f.len)).any fun c =>
        s.poisoned (.spm core (base + bsc + (if f.bt then c * bN o.bdesc + n else (n * bPitch o.bdesc + c * f.bBytes) / f.bBytes))) 1) }

/-- A region of an accumulator store receives unspecified values (R243, R244). -/
def State.blurRegion (s : State) (core row rows col cols : Nat) : State :=
  (List.range rows).foldl (fun t r => (List.range cols).foldl (fun t n =>
    t.setAcc core (row + r) (col + n) ((Config.free64 s.tick (100000 + 1024 * r + n)).setWidth 32)) t) s

/-- Columns of an operation's region on its own core and, for PMMA, on the follower (R245). -/
def LatheOp.colsOn (o : LatheOp) : List (Nat × Nat) :=
  let n := bN o.bdesc
  if o.kind = .pmma ∧ 192 < n then [(o.core, 192), (o.core + 1, n - 192)] else [(o.core, n)]

/-- The rows of an operation's members: relative row of each selected lane, and whether its words are the leader's (R234). -/
def LatheOp.rows (o : LatheOp) : List (Nat × Bool) :=
  let lead := ((o.members.find? (·.idx == 0)).map (·.words)).getD []
  (o.members.map fun a => (lanesOf a.mask).map fun l => (64 * a.idx + l, a.words == lead)).flatten

/-- The bad metadata word that SPARSEF names: its scratchpad offset (R241). Of several the first in the order of arrival of the members, then
of lanes, then of K-groups; the spec does not say which (log 82). -/
def State.badMeta (s : State) (o : LatheOp) : Option Nat :=
  let m := s.teamSrc o o.core
  if m.f.spar = 0 then none
  else (o.rows.map fun r => (List.range (m.k / 48)).filterMap fun c =>
    if metaBad m.f (m.meta' r.1 c) then some (fldN o.scale 40 20 + 8 * (r.1 * (m.k / 48) + c)) else none).flatten.head?

/-- The results of a team operation (R241): rows of members whose words differ are unspecified. -/
def State.teamResult (s : State) (o : LatheOp) : State :=
  o.colsOn.foldl (fun t cn =>
    let m := s.teamSrc o cn.1
    o.rows.foldl (fun t rw => (List.range cn.2).foldl (fun t n =>
      let row := accRow o.acc + rw.1
      let col := accCol o.acc + n
      let x := if rw.2 then BitVec.ofNat 32 (m.elem rw.1 n (if accInit o.acc then 0 else (s.accWord cn.1 row col).toNat))
        else (Config.free64 s.tick (100000 + 1024 * rw.1 + n)).setWidth 32
      t.setAcc cn.1 row col x) t) t) s

/-- An operation with the words of one member's arrival. -/
def LatheOp.as (o : LatheOp) (a : Arrival) : LatheOp :=
  let w (i : Nat) : W64 := a.words.getD i 0
  { o with kind := (match (w 0).toNat / 2 with | 0 => .mma | 1 => .pmma | _ => .smma), acc := w 1, bdesc := w 2, fmt := w 3, scale := w 4 }

/-- The leader has arrived. -/
def LatheOp.led (o : LatheOp) : Bool := o.members.any (·.idx == 0)

/-- An operation as far as it is known: by the leader's words, and until the leader arrives by those of the first member (log 83). -/
def LatheOp.seen (o : LatheOp) : LatheOp :=
  if !o.kind.team || o.led then o else o.members.head?.elim o o.as

/-- Rows of a team operation's region. -/
def State.teamRows (s : State) (o : LatheOp) : Nat :=
  if o.inStrip then 64 else 64 * (o.members.map fun a => (s.grp a.gid).teamSize).foldl max 1

/-- The whole region of a team operation receives unspecified values. -/
def State.blurTeam (s : State) (o : LatheOp) : State :=
  o.colsOn.foldl (fun t cn => t.blurRegion cn.1 (accRow o.acc) (s.teamRows o) (accCol o.acc) cn.2) s

/-! ### Scratchpad addresses within reach (R179, R254) -/

/-- The core and physical offset of n bytes at a scratchpad address, when a workgroup may reach them and they are aligned. -/
def State.reach (s : State) (core wg ctx : Nat) (a n align : Nat) : Option (Nat × Nat) :=
  let off := a % 2 ^ 20
  let own := a / 2 ^ 27 % 2 = 1
  let rank := a / 2 ^ 24 % 8
  if 2 ^ 32 ≤ a ∨ a / 2 ^ 20 % 16 ≠ 0 ∨ a % align ≠ 0 ∨ 2 ^ 20 < off + n then none
  else if own then
    let w := s.wgOf wg
    if rank = 0 ∧ off + n ≤ w.size then some (core, w.base + off) else none
  else
    let c := 8 * clusterOf core + rank
    let held (x : Nat) : Bool := (s.holder c x).any (·.ctx == ctx)
    if ((List.range ((n + 63) / 64)).all fun i => held (off + 64 * i)) && held (off + n - 1) then some (c, off) else none

/-- A 64-byte record at a scratchpad address in the workgroup's own allotment (R247). -/
def State.ownRecord (s : State) (core wg ctx a : Nat) : Option Nat :=
  let w := s.wgOf wg
  (s.reach core wg ctx a 64 64).bind fun p =>
    if p.1 = core ∧ w.base ≤ p.2 ∧ p.2 + 64 ≤ w.base + w.size then some (s.spm.num (spmKey core p.2) 64) else none

/-- A restart of a group whose region has continued an accumulation begun before it leaves its accumulator elements unspecified (R337). -/
def State.blurRestart (s : State) (g : Nat) : State :=
  let x := s.grp g
  if x.carried.isEmpty then s
  else (x.begun ++ x.carried).foldl (fun t a => t.blurRegion a.core a.row (min a.rows (256 - a.row)) a.col (min a.cols (576 - a.col))) s

/-! ### Poisoned operands (R335, R336, R338) -/

/-- Whether no scratchpad byte and no accumulator element carries a poison mark. -/
def State.unmarked (s : State) : Bool := s.spmPoison.isEmpty && s.accPoison.isEmpty

/-- The elements of a region that a poisoned word reaches: core, row, column. -/
def State.reached (s : State) (m : MatSrc) (init : Bool) (core row col : Nat) (rows : List Nat) (cols : Nat) : List (Nat × Nat × Nat) :=
  if s.unmarked then []
  else (rows.map fun r => (List.range cols).filterMap fun n =>
    if m.aBad r || m.bBad n || (!init && s.accMarked core (row + r) (col + n)) then some (core, row + r, col + n) else none).flatten

/-- +0 in a region of an accumulator store. -/
def State.zeroRegion (s : State) (core row rows col cols : Nat) : State :=
  (List.range rows).foldl (fun t r => (List.range cols).foldl (fun t n => t.setAcc core (row + r) (col + n) 0) t) s

/-- Whether a group would restart, should it consume an uncorrectable error now (R336). -/
def Group.restartable (g : Group) : Bool := g.idempc != 0 && g.restart.isSome

/-- A group, where it is still there, consumes an uncorrectable error that an engine of its own met (R336). -/
def State.opUE (s : State) (g : Nat) (pc : W64) : State := if (s.group? g).isSome then s.consumeUE g .ue pc else s

/-- The elements of a team operation that a poisoned word reaches. -/
def State.teamBad (s : State) (o : LatheOp) : List (Nat × Nat × Nat) :=
  (o.colsOn.map fun cn => s.reached (s.teamSrc o cn.1) (accInit o.acc) cn.1 (accRow o.acc) (accCol o.acc) (o.rows.map (·.1)) cn.2).flatten

/-- A team operation consumes an uncorrectable error: before any member restarts its region is +0; where none restarts, the elements that it reaches are marked (R336, R338). -/
def State.teamUE (s : State) (o : LatheOp) (bad : List (Nat × Nat × Nat)) : State :=
  let t := if o.members.any fun a => (s.grp a.gid).restartable then
      o.colsOn.foldl (fun t cn => t.zeroRegion cn.1 (accRow o.acc) (s.teamRows o) (accCol o.acc) cn.2) s
    else bad.foldl (fun t b => t.markAcc b.1 b.2.1 b.2.2) (s.blurTeam o)
  o.members.foldl (fun t a => t.opUE a.gid a.pc) (t.latheDone o)

/-- A team operation completes (R243, R244). -/
def State.finishTeam (s : State) (o : LatheOp) : State :=
  if o.spoiled then (s.blurTeam o).latheDone o
  else if !(s.teamBad o).isEmpty then s.teamUE o (s.teamBad o)
  else
    match s.badMeta o with
    | some off => ((s.blurTeam o).latheFault o.gid .sparsef (BitVec.ofNat 64 off) o.inStrip).latheDone o
    | none => (s.teamResult o).latheDone o

/-- The region of an operation on a core: first row, rows, first column, columns; of a drain that has not started, as its descriptor stands. -/
def State.regionOn (s : State) (o : LatheOp) (core : Nat) : Option (Nat × Nat × Nat × Nat) :=
  let o := o.seen
  let d := if o.kind = .drain ∧ !o.started then s.ownRecord o.core o.wg o.ctx o.bdesc.toNat else none
  let o := match d with | some d => { o with n1 := recN d 320 16, n2 := recN d 336 16 } | none => o
  if o.kind.team then (o.colsOn.find? (·.1 == core)).map fun cn => (accRow o.acc, s.teamRows o, accCol o.acc, cn.2)
  else if o.core = core then some (accRow o.acc, o.n1, accCol o.acc, o.n2)
  else none

/-- Whether two regions share an element. -/
def regionsMeet (a b : Nat × Nat × Nat × Nat) : Bool :=
  decide (a.1 < b.1 + b.2.1) && decide (b.1 < a.1 + a.2.1) && decide (a.2.2.1 < b.2.2.1 + b.2.2.2) && decide (b.2.2.1 < a.2.2.1 + a.2.2.2)

/-- Whether an operation writes its region: every one but a drain without INIT. -/
def LatheOp.writes (o : LatheOp) : Bool := o.kind.team || (o.kind == .drain && accInit o.acc)

/-- Whether an earlier-started operation that writes an element of this one is not complete (R230). -/
def State.behind (s : State) (o : LatheOp) : Bool :=
  s.lathe.any fun x => x.started && x.writes && x.id != o.id && (match x.order, o.order with | some a, some b => decide (a < b) | _, _ => false)
    && [o.core, o.core + 1].any fun c => match s.regionOn x c, s.regionOn o c with
      | some a, some b => regionsMeet a b
      | _, _ => false

/-! ### The accumulator port (R246) -/

/-- Region of ACCLD, ACCST or ACCZ, and its checks (R240, R246). -/
def State.portCheck (s : State) (acc : W64) (shape : Bool) (span : Option Nat) (rows cols : Nat) : Option Report :=
  let g := s.G
  let region := s.regionChecks g.strip g.core g.wg (accRow acc) rows (accCol acc) cols
  firstFail ([(shape, mx .shape), (span.isSome, (.regown, BitVec.ofNat 64 (span.getD 0))),
    (fldN acc 19 45 != 0 || accInit acc, mx .accrange)] ++ region)

/-- An accumulator move is checked, claims its bands, and passes to the port (R233, R246). -/
def portIssue (f : VForm) (s : State) (kind : LatheKind) (shape : Bool) (span : Option Nat) (rows cols : Nat) (o : LatheOp) : State :=
  let m := selV f s
  let g := s.G
  if m = 0 then s.retire
  else
    match s.deliverLathe with
    | some t => t
    | none =>
      if hndmx s true then s.trap .hndmx m 0
      else if 63 ≤ g.count .mtx then s.stall
      else
        let acc := accRef f s
        match s.portCheck acc shape span rows cols with
        | some r => s.trap r.1 m r.2
        | none =>
          let t := if g.strip then s else s.claimBands g.core g.wg g.ctx (accCol acc) cols
          let o : LatheOp := { o with id := t.nextId, kind := kind, core := g.core, wg := g.wg, ctx := g.ctx, gid := s.cur.1, acc := acc
                                      inStrip := g.strip, n2 := cols, mask := m, pc := s.S.pc }
          let zeroed : AccSpan := { core := g.core, row := accRow acc, rows := rows, col := accCol acc, cols := cols }
          (({ t.fresh with lathe := t.lathe ++ [o] } : State).modG fun x =>
            (if kind = .accz then x.accumulates zeroed true else x).raise o.id .mtx).retire

/-- The base register, the count and the checks of ACCLD and ACCST (R239, R240, R246). -/
def moveRegs (f : VForm) (s : State) : Nat × Nat × Bool × Option Nat :=
  let base := match f.a with | .v r => r.toNat | _ => 0
  let n := (bUni f s).toInt
  let good := [1, 2, 4, 8, 16, 32].contains n
  let n' := if good then n.toNat else 1
  (base, n', !good || base % n' != 0, ((List.range n').find? fun j => decide (16 * s.G.nblk ≤ base + j)).map (base + ·))

/-- R246. -/
def execAccld (f : VForm) (s : State) : Out :=
  let (base, n, shape, span) := moveRegs f s
  go (portIssue f s .accld shape span 64 n { n1 := base })

/-- R246. The accumulator port reads the registers in program order, with no OPFENCE (log 63). -/
def execAccst (f : VForm) (s : State) : Out :=
  let (base, n, shape, span) := moveRegs f s
  let data : SMap W32 := (lanesOf (selV f s)).foldl (fun m l => (List.range n).foldl (fun m j =>
    m.put (64 * l + j) (s.G.vregOf s.cur.2 (base + j) l)) m) []
  go (portIssue f s .accst shape span 64 n { n1 := base, adata := data })

/-- R246. -/
def execAccz (f : VForm) (s : State) : Out :=
  let a := (aUni f s).toNat
  let b := (bUni f s).toNat
  let shape : Bool := a == 0 || decide (256 < a) || b == 0 || decide (544 < b)
  go (portIssue f s .accz shape none (if shape then 1 else a) (if shape then 1 else b) { n1 := a })

/-- Whether a team operation or a drain that its group still counts, and at which it arrived before it issued an accumulator move, shares an
element with that (R243). -/
def State.portClash (s : State) (o x : LatheOp) : Bool :=
  let rows := if o.kind = .accz then o.n1 else 64
  (if x.kind.team then x.members.any fun a => a.gid == o.gid && decide (a.since ≤ o.id) else x.kind == .drain && x.gid == o.gid && decide (x.id < o.id)) &&
    match s.regionOn x o.core with
    | some a => regionsMeet a (accRow o.acc, rows, accCol o.acc, o.n2)
    | none => false

/-- Whether an ACCLD takes a poisoned element, which its group consumes (R335). -/
def State.portMarked (s : State) (o : LatheOp) : Bool :=
  o.kind == .accld && !s.accPoison.isEmpty && (lanesOf o.mask).any fun l => (List.range o.n2).any fun j =>
    s.accMarked o.core (accRow o.acc + l) (accCol o.acc + j)

/-- The writes of an accumulator move (R246); the values that ACCLD takes from an operation's region in flight are unspecified (R243), and a restarting group takes none (R337). -/
def State.portMove (s : State) (o : LatheOp) (clash : Bool) : State :=
  let row := accRow o.acc
  let col := accCol o.acc
  match o.kind with
  | .accld =>
    s.modGroup o.gid fun g => if g.restarting then g else (lanesOf o.mask).foldl (fun g l => (List.range o.n2).foldl (fun g j =>
      let x := if clash then (Config.free64 s.tick (110000 + 64 * j + l)).setWidth 32 else s.accWord o.core (row + l) (col + j)
      if o.n1 + j < 16 * g.nblk && o.n1 + j < o.cut then g.setV (o.n1 + j) l x else g) g) g
  | .accst =>
    (lanesOf o.mask).foldl (fun t l => (List.range o.n2).foldl (fun t j =>
      t.setAcc o.core (row + l) (col + j) (SMap.get 0 o.adata (64 * l + j))) t) s
  | _ => (List.range o.n1).foldl (fun t i => (List.range o.n2).foldl (fun t j => t.setAcc o.core (row + i) (col + j) 0) t) s

/-- ACCUMULATOR_PORT_COMPLETE (R246): moves of a group are performed in its program order. -/
def execAccumulatorPortComplete (op : Nat) (s : State) : Out :=
  match s.latheOp? op with
  | none => go s
  | some o =>
    let port (x : LatheOp) : Bool := x.kind == .accld || x.kind == .accst || x.kind == .accz
    if !port o || s.lathe.any fun x => port x && x.gid == o.gid && decide (x.id < o.id) then go s
    else
      let clash := s.lathe.any (s.portClash o)
      let t : State := { s with lathe := s.lathe.map fun x => if s.portClash o x then { x with spoiled := true } else x }
      if s.portMarked o then go ((t.latheDone o).opUE o.gid o.pc) else go ((t.portMove o clash).latheDone o)

/-! ### Activation banks (R251, R252) -/

/-- Earlier loads and swaps of a core's banks that are not complete. -/
def State.bankQueue (s : State) (core id : Nat) : List LatheOp :=
  s.lathe.filter fun x => x.core == core && (x.kind == .atload || x.kind == .atswap) && decide (x.id < id)

/-- The inactive bank becomes active. -/
def State.swapBank (s : State) (core : Nat) : State :=
  { s with actBank := SMap.set 0 s.actBank core (1 - SMap.get 0 s.actBank core) }

/-- ATSWAPs that wait on no earlier load take effect (R252). -/
def State.settleSwaps (s : State) : State :=
  s.lathe.foldl (fun t o =>
    if o.kind = .atswap ∧ (t.bankQueue o.core o.id).isEmpty then (t.swapBank o.core).latheDone o else t) s

/-- ATLOAD and ATSWAP raise MTX and wait for the banks (R252). -/
def bankIssue (f : VForm) (s : State) (kind : LatheKind) (src : Option (Nat × Nat)) : State :=
  let m := selV f s
  let g := s.G
  if m = 0 then s.retire
  else
    match s.deliverLathe with
    | some t => t
    | none =>
      if hndmx s false then s.trap .hndmx m 0
      else if 63 ≤ g.count .mtx then s.stall
      else
        match kind, src with
        | .atload, none => let r := mx .sprange; s.trap r.1 m r.2
        | _, _ =>
          let p := src.getD (0, 0)
          let o : LatheOp := { id := s.nextId, kind := kind, core := g.core, wg := g.wg, ctx := g.ctx, gid := s.cur.1, n1 := p.1, n2 := p.2, pc := s.S.pc }
          (({ s.fresh with lathe := s.lathe ++ [o] } : State).modG fun x => x.raise o.id .mtx).retire.settleSwaps

/-- R252. -/
def execAtload (f : VForm) (s : State) : Out :=
  go (bankIssue f s .atload (s.reach s.G.core s.G.wg s.G.ctx (aUni f s).toNat 4096 64))

/-- R252. -/
def execAtswap (f : VForm) (s : State) : Out := go (bankIssue f s .atswap none)

/-- Whether a drain that started on a bank of a core is in flight, a ring's DRAIN command too (R252). -/
def State.bankBusy (s : State) (core bank : Nat) : Bool :=
  (s.rings.any fun r => r.core == core && r.bank == some bank) || s.lathe.any fun x => x.kind == .drain && x.core == core && x.started && x.bank == bank

/-- ACTIVATION_BANK_LOAD_DONE (R252): the table is in the inactive bank, and a waiting ATSWAP takes effect; a poisoned table is consumed and leaves the bank (R335). -/
def execActivationBankLoadDone (op : Nat) (s : State) : Out :=
  match s.latheOp? op with
  | none => go s
  | some o =>
    let bank := 1 - s.activeBank o.core
    if o.kind != .atload || !(s.bankQueue o.core o.id).isEmpty || s.bankBusy o.core bank then go s
    else
      if s.poisoned (.spm o.n1 o.n2) 4096 then go ((s.latheDone o).opUE o.gid o.pc).settleSwaps else
      let bytes := s.spm.readN (spmKey o.n1 o.n2) 4096
      let t : State := { s with act := s.act.writeN (16384 * o.core + 8192 * bank) bytes }
      go (t.latheDone o).settleSwaps

/-! ### The handler strip (R262, R263) -/

/-- R262: the strip is saved once MTX is zero and no other group of the core holds it; a shadow stores nothing (R341). -/
def execMsusp (f : VForm) (s : State) : Out :=
  let g := s.G
  if selV f s = 0 then go s.retire
  else if let some t := s.deliverLathe then go t
  else if !g.trapm || g.strip then go (s.trap .hndmx (selV f s) 0)
  else if g.count .mtx ≠ 0 ∨ s.groups.any fun x => x.core == g.core && x.strip then go s.stall
  else if g.mxsave.toNat % 128 ≠ 0 then go (s.trap .align (selV f s) g.mxsave)
  else if g.shadow then go (s.modG fun x => { x with strip := true }).retire
  else
    match s.area g .store (stripRows g) with
    | (t, .ok ls) => go ((t.saveStrip g.core 0 ls).modG fun x => { x with strip := true }).retire
    | (t, .parks va wp) => go (t.parkIssue va 1 0 wp)
    | (t, .faults c va) => go (t.trap c (selV f s) va)

/-- R262. -/
def execMres (f : VForm) (s : State) : Out :=
  if selV f s = 0 then go s.retire
  else if let some t := s.deliverLathe then go t
  else if !s.G.trapm || !s.G.strip then go (s.trap .hndmx (selV f s) 0)
  else
    match s.mres with
    | (t, true) => go t.retire
    | (t, false) => go t

/-! ### What breaking R243 does -/

/-- The scratchpad bytes of an operation that the program must leave alone until it completes, by key of spm: of B and its scales on each of
its cores, of the scales of A and the metadata on its own (R245). -/
def State.operandBytes (s : State) (o : LatheOp) : List (Nat × Nat) :=
  let o := o.seen
  let f := fmtOf o.fmt
  let k := bK o.bdesc
  let base := (s.wgOf o.wg).base
  let chunks := k / f.len
  let bLen (n : Nat) : Nat := if f.bt then (k - 1) * bPitch o.bdesc + n * eltWidth f.bfmt / 8 else (n - 1) * bPitch o.bdesc + chunks * f.bBytes
  let bScales (n : Nat) : Nat := if f.bt then (chunks - 1) * bN o.bdesc + n else bLen n / f.bBytes
  let part (core off len : Nat) : List (Nat × Nat) := if off = 0 then [] else [(spmKey core (base + off), len)]
  (o.colsOn.map fun cn => (spmKey cn.1 (base + bOff o.bdesc), bLen cn.2) :: part cn.1 (if scaled f.bfmt then fldN o.scale 20 20 else 0) (bScales cn.2)).flatten
    ++ part o.core (if scaled f.afmt then fldN o.scale 0 20 else 0) (s.teamRows o * chunks)
    ++ (if f.spar = 0 then [] else [(spmKey o.core (base + fldN o.scale 40 20), 8 * s.teamRows o * (k / 48))])

/-- A register or byte that changed under an operation in flight, since the state before, receives an unspecified value, and the operation is spoiled (R243). -/
def State.spoil (before s : State) (o : LatheOp) : State :=
  if !o.kind.team || (before.latheOp? o.id).isNone then s
  else
    let regs := (o.members.map fun a =>
      let p := if o.led then o else o.as a
      (lanesOf a.mask).map fun l => ((List.range (spanRegs (fmtOf p.fmt) (bK p.bdesc))).filter fun j =>
      (before.group? a.gid).any fun g => g.vreg (a.areg + j) l != (s.grp a.gid).vreg (a.areg + j) l).map fun j => (a.gid, a.areg + j, l)).flatten.flatten
    let bytes := ((s.operandBytes o).map fun r => ((List.range r.2).map (r.1 + ·)).filter fun k =>
      before.spm.read k != s.spm.read k).flatten
    if regs.isEmpty && bytes.isEmpty then s
    else
      let t := regs.foldl (fun t x => t.modGroup x.1 fun g => g.setV x.2.1 x.2.2 ((Config.free64 s.tick (120000 + 64 * x.2.1 + x.2.2)).setWidth 32)) s
      let t : State := { t with spm := bytes.foldl (fun m k => m.write k ((Config.free64 s.tick (130000 + k)).setWidth 8)) t.spm }
      t.setLathe { o with spoiled := true }

/-- Every operation in flight is looked at. -/
def State.spoilAll (before s : State) : State := s.lathe.foldl (fun t o => State.spoil before t o) s

end Sys2Proof.Machine
end

