-- ==== Sys2Proof/Machine/Drain.lean ====
section
/-! DEFINITION. The drain pipeline: opcode 0xC6, the start and the completion of a Lathe operation (R173, R174, R230, R247 to R250). -/

namespace Sys2Proof.Machine

open Sys2Proof

/-! ### Control word and descriptor (R247, R248) -/

/-- Format, rounding and length fields of a control word (R248). -/
abbrev cwOfmt (w : W64) : Nat := fldN w 9 4
@[inherit_doc cwOfmt] abbrev cwTfmt (w : W64) : Nat := fldN w 13 4
@[inherit_doc cwOfmt] abbrev cwLen (w : W64) : Nat := blockLen (fldN w 17 2)
@[inherit_doc cwOfmt] abbrev cwTr (w : W64) : Bool := bitAt w 5
@[inherit_doc cwOfmt] abbrev cwDyn (w : W64) : Bool := bitAt w 19
@[inherit_doc cwOfmt] abbrev cwRnd (w : W64) : Nat := fldN w 20 3
@[inherit_doc cwOfmt] abbrev cwNsat (w : W64) : Bool := bitAt w 23

/-- Whether a control word is bad (R248). -/
def cwBad (w : W64) : Bool :=
  let fmts := cwOfmt w :: (if cwTr w then [cwTfmt w] else [])
  fldN w 24 40 != 0 || fldN w 6 2 == 3 || decide (4 < cwRnd w) || (!bitAt w 4 && fmts.any (· != 15))
    || (cwDyn w && fmts.any fun f => !scaled f)

/-- Bytes of a block of a format. -/
def blockBytes (fmt len : Nat) : Nat := len * eltWidth fmt / 8

/-- One drain of a region, of an instruction or of one iteration of a ring command. -/
structure Job where
  core : Nat := 0
  wg : Nat := 0
  ctx : Nat := 0
  gid : Nat := 0
  row : Nat := 0
  col : Int := 0
  init : Bool := false
  strip : Bool := false
  cw : W64 := 0
  desc : Nat := 0
  bank : Nat := 0
  seed : W64 := 0
  /-- What scratchpad bytes held that were written without an OPFENCE (R214, R243). -/
  old : SMap Byte := []
  /-- Displacements in columns, output blocks and transposed-copy blocks (R257). -/
  dcol : Int := 0
  dout : Int := 0
  dtout : Int := 0
  deriving DecidableEq, Repr

/-- ROWS and COLS. -/
abbrev Job.rows (j : Job) : Nat := recN j.desc 320 16
@[inherit_doc Job.rows] abbrev Job.cols (j : Job) : Nat := recN j.desc 336 16

/-- A copy address of the descriptor. -/
def Job.addr (j : Job) (k : Nat) : W64 := BitVec.ofNat 64 (recN j.desc (64 * k) 64)

/-- The copy addresses that a drain writes from, with the alignment of each. -/
def Job.targets (j : Job) : List (W64 × Nat) :=
  [(j.addr 0, 64)] ++ (if cwTr j.cw then [(j.addr 1, 64)] else []) ++ (if scaled (cwOfmt j.cw) then [(j.addr 2, 1)] else [])
    ++ (if cwTr j.cw && scaled (cwTfmt j.cw) then [(j.addr 3, 1)] else [])

/-- A descriptor that breaks R247: SHAPE. -/
def Job.shapeBad (j : Job) : Bool :=
  let len := cwLen j.cw
  let o := cwOfmt j.cw
  let t := cwTfmt j.cw
  recN j.desc 480 32 != 0 || j.rows == 0 || decide (256 < j.rows) || j.cols == 0 || decide (544 < j.cols)
    || recN j.desc 256 32 % blockBytes o len != 0 || (scaled o && j.cols % len != 0)
    || (cwTr j.cw && scaled t && (j.rows % len != 0 || recN j.desc 288 32 % blockBytes t len != 0))

/-- Scratchpad offset of a scale or bias value: per tensor, per row, or per column with its displacement (R249, R257). -/
def Job.scaleAt (j : Job) (r n : Nat) : Int :=
  recN j.desc 352 32 + 4 * (match fldN j.cw 6 2 with | 0 => 0 | 1 => (r : Int) | _ => n + j.dcol)
@[inherit_doc Job.scaleAt] def Job.biasAt (j : Job) (r n : Nat) : Int :=
  recN j.desc 384 32 + 4 * (if bitAt j.cw 8 then (r : Int) else n + j.dcol)

/-- Whether the four bytes of a value lie in an allotment. -/
def valueInside (size : Nat) (a : Int) : Bool := decide (0 ≤ a) && decide (a + 4 ≤ size)

/-- The checks at the start of a drain, MXFLT codes first (R247); a bad control word is met there by a ring's command only (R259). -/
def State.drainCheck (s : State) (j : Job) : Option Report :=
  let size := (s.wgOf j.wg).size
  let ends (f : Nat → Nat → Int) : Bool := valueInside size (f 0 0) && valueInside size (f (j.rows - 1) (j.cols - 1))
  let col := j.col.toNat
  (firstMx ([(j.shapeBad, mx .shape), (decide (j.col < 0), mx .accrange)] ++ s.regionChecks j.strip j.core j.wg j.row j.rows col j.cols
    ++ [((bitAt j.cw 0 && !ends j.scaleAt) || (bitAt j.cw 1 && !ends j.biasAt), mx .sprange), (cwBad j.cw, mx .draincw)])).or
  (firstFail (j.targets.map (fun t => (bitAt t.1 63 && fldN t.1 32 31 != 0, (Cause.range, t.1)))
    ++ j.targets.map (fun t => (decide (1 < copyWin t.1), (Cause.winf, t.1)))
    ++ j.targets.map (fun t => (decide (t.1.toNat % t.2 ≠ 0), (Cause.align, t.1)))))

/-! ### The stages (R249) -/

/-- An FP32 value of the allotment. -/
def State.jobValue (s : State) (j : Job) (a : Int) : Fp := fp32.value (s.operand j.old j.core (s.wgOf j.wg).base a.toNat 4)

/-- One element after the clamp stage (R249). -/
def State.stage (s : State) (j : Job) (r n : Nat) : Nat :=
  let x := (s.accWord j.core (j.row + r) (j.col.toNat + n)).toNat
  let x := if bitAt j.cw 0 then fp32.canon (fp32.mul .rne (fp32.value x) (s.jobValue j (j.scaleAt r n))) else x
  let x := if bitAt j.cw 1 then fp32.canon (fp32.add .rne (fp32.value x) (s.jobValue j (j.biasAt r n))) else x
  let x := if bitAt j.cw 2 then s.activate j.core j.bank x else x
  if bitAt j.cw 3 then fp32.canon (fp32.minNum (fp32.maxNum x (recN j.desc 416 32)) (recN j.desc 448 32)) else x

/-- An element and the random number that rounds it. -/
abbrev Drawn := Nat × Nat

/-- y(r, n) of a drain. -/
def State.drawn (s : State) (j : Job) (r n : Nat) : Drawn := (s.stage j r n, laneRandom j.seed (r * j.cols + n))

/-- One converted element (R173): a value times 2^k. What NaN and the infinities become in KB and MXINT8, for which R126 has no row, the spec does
not say: R129's values (log 107). -/
def convertElt (cw : W64) (fmt : Nat) (x : Drawn) (k : Int) : Nat :=
  if fmt = 15 then x.1
  else
    let rnd := rndOf (cwRnd cw) x.2
    match fp32.value x.1, fmt with
    | .nan, 5 => bf16.nanCode
    | .nan, 6 => fp16.nanCode
    | .inf n, 5 => bf16.infCode n
    | .inf n, 6 => fp16.infCode n
    | v, _ => quant fmt rnd (cwNsat cw) v k

/-- Whether a finite element saturates in the convert stage (R250). -/
def convertSat (cw : W64) (fmt : Nat) (x : Drawn) (k : Int) : Bool :=
  match fp32.value x.1 with
  | .fin n m e => fmt != 15 && !(cwNsat cw && decide (fmt < 2)) && saturates fmt n m (e + k)
  | _ => false

/-- A converted block: its scale byte, its elements, and the status bits that it sets (R173, R174, R250). -/
structure Converted where
  scale : Nat
  elts : List Nat
  status : W64
  deriving DecidableEq, Repr

/-- A block is converted (R173, R174): in a dynamically scaled block of zeros every element is +0. -/
def convertBlock (cw : W64) (fmt : Nat) (xs : List Drawn) : Converted :=
  let sc := if cwDyn cw then blockScale fmt (xs.map fun x => fp32.value x.1) else (0x7F, false)
  let k : Int := 127 - sc.1
  let zero : Bool := sc.1 == 0xFF || (cwDyn cw && xs.all fun x => x.1 % 2 ^ 31 == 0)
  let elts := if zero then xs.map fun _ => 0 else xs.map fun x => convertElt cw fmt x k
  let sat := sc.1 != 0xFF && xs.any fun x => convertSat cw fmt x k
  let nan := sc.1 == 0xFF || elts.any fun q => eltValue fmt q == .nan
  ⟨sc.1, elts, BitVec.ofNat 64 (sc.2.toNat + 2 * sat.toNat + 4 * nan.toNat)⟩

/-- The blocks of a row of elements. -/
def blocksOf (len : Nat) (xs : List Drawn) : List (List Drawn) :=
  (List.range ((xs.length + len - 1) / len)).map fun b => (xs.drop (b * len)).take len

/-- Whether element i of a row carries a poison mark. -/
abbrev markAt (bad : List Bool) (i : Nat) : Bool := bad.getD i false

/-- The writes of one row of an output and its status: elements at base + X, scale bytes at S + X/Bb (R168, R238, R249). A write that holds a poisoned element, or an element or scale of a block scaled by one, is poisoned (R335). -/
def rowPuts (cw : W64) (fmt : Nat) (base scales : W64) (x : Int) (xs : List Drawn) (bad : List Bool := []) : List Put × W64 :=
  let bb := blockBytes fmt (cwLen cw)
  let piece := max 1 (eltWidth fmt / 8)
  ((blocksOf (cwLen cw) xs).zipIdx).foldl (fun acc bk =>
    let c := convertBlock cw fmt bk.1
    let at' : Int := x + bk.2 * bb
    let n := c.elts.length * eltWidth fmt / 8
    let bytes := bytesOfNat n (packBlock (eltWidth fmt) c.elts)
    let from' := cwLen cw * bk.2
    let whole := !bad.isEmpty && (List.range c.elts.length).any fun i => markAt bad (from' + i)
    let ps : List Put := (List.range (n / piece)).map fun i =>
      { toward := base + BitVec.ofInt 64 (at' + ((i * piece : Nat) : Int)), data := (bytes.drop (i * piece)).take piece
        mark := whole && (cwDyn cw || decide (eltWidth fmt < 8) || markAt bad (from' + i)) }
    let sp : List Put := if scaled fmt then
        [{ toward := scales + BitVec.ofInt 64 (at' / bb), data := [BitVec.ofNat 8 c.scale], mark := whole && cwDyn cw }] else []
    (acc.1 ++ ps ++ sp, acc.2 ||| c.status)) ([], 0)

/-- Every write of a drain and the status bits that it sets (R249, R250); of one whose ROWS or COLS break R247, those of a drain as large as can be. -/
def State.drainPuts (s : State) (j : Job) : List Put × W64 :=
  let rows := min j.rows 256
  let cols := min j.cols 576
  let o := cwOfmt j.cw
  let t := cwTfmt j.cw
  let join (a b : List Put × W64) : List Put × W64 := (a.1 ++ b.1, a.2 ||| b.2)
  let marked (r n : Nat) : Bool := s.accMarked j.core (j.row + r) (j.col.toNat + n)
  let bad (l : List Bool) : List Bool := if s.accPoison.isEmpty then [] else l
  let out := (List.range rows).foldl (fun acc (r : Nat) =>
    join acc (rowPuts j.cw o (j.addr 0) (j.addr 2) (j.dout * blockBytes o (cwLen j.cw) + r * recN j.desc 256 32)
      ((List.range cols).map (s.drawn j r)) (bad ((List.range cols).map (marked r))))) ([], 0)
  if cwTr j.cw then
    (List.range cols).foldl (fun acc (n : Nat) =>
      join acc (rowPuts j.cw t (j.addr 1) (j.addr 3) (j.dtout * blockBytes t (cwLen j.cw) + n * recN j.desc 288 32)
        ((List.range rows).map fun r => s.drawn j r n) (bad ((List.range rows).map fun r => marked r n)))) out
  else out

/-- The region is read; with INIT it becomes +0 (R249); the issuer's SR_DRAINST gathers the status (R250). -/
def State.drainRead (s : State) (j : Job) : State × List Put :=
  let (ps, st) := s.drainPuts j
  let t := s.modGroup j.gid fun g => { g with drainst := g.drainst ||| st }
  let t := if j.init then
      (List.range j.rows).foldl (fun t r => (List.range j.cols).foldl (fun t n => t.setAcc j.core (j.row + r) (j.col.toNat + n) 0) t) t
    else t
  (t, ps)

/-- A drain that stops: its region, as far as there is an accumulator store, and its outputs hold unspecified values (R244). -/
def State.drainBlur (s : State) (j : Job) (dests : List (W64 × Nat)) : State :=
  let c : CopyOp := { gid := j.gid, kind := .drain, ctx := j.ctx, core := j.core, wg := j.wg }
  let edge := min (j.col + j.cols) 576
  dests.foldl (fun t d => t.blurDest c d) (s.blurRegion j.core j.row (min j.rows (256 - j.row)) j.col.toNat (edge - j.col.toNat).toNat)

/-- Whether a drain reads a poisoned scale or bias value, which it consumes (R335). -/
def State.drainMarked (s : State) (j : Job) : Bool :=
  let base := (s.wgOf j.wg).base
  !s.spmPoison.isEmpty && (List.range j.rows).any fun r => (List.range j.cols).any fun n =>
    (bitAt j.cw 0 && s.poisoned (.spm j.core (base + (j.scaleAt r n).toNat)) 4) || (bitAt j.cw 1 && s.poisoned (.spm j.core (base + (j.biasAt r n).toNat)) 4)

/-- Where its group restarts, the region of a drain is +0 (R336). -/
def State.drainZero (s : State) (j : Job) : State :=
  if (s.grp j.gid).restartable then s.zeroRegion j.core j.row j.rows j.col.toNat j.cols else s

/-- Whether a 64-byte record in the workgroup's own allotment carries a poison mark. -/
def State.recordMarked (s : State) (core wg ctx a : Nat) : Bool := (s.reach core wg ctx a 64 64).any fun p => s.poisoned (.spm p.1 p.2) 64

/-! ### DRAIN on the instruction path -/

/-- DRAIN (R235, R240, R247): a pending fault is delivered, the control word is checked, and the drain is ready. -/
def execDrain (f : VForm) (s : State) : Out :=
  let m := selV f s
  let g := s.G
  if m = 0 then go s.retire
  else
    match s.deliverLathe with
    | some t => go t
    | none =>
      if hndmx s true then go (s.trap .hndmx m 0)
      else if 63 ≤ g.count .mtx then go s.stall
      else
        let acc := accRef f s
        let cw := aUni f s
        match firstFail [(fldN acc 19 45 != 0, mx .accrange), (cwBad cw, mx .draincw)] with
        | some r => go (s.trap r.1 m r.2)
        | none =>
          let o : LatheOp := { id := s.nextId, kind := .drain, core := g.core, wg := g.wg, ctx := g.ctx, gid := s.cur.1, acc := acc
                               bdesc := bUni f s, fmt := cw, inStrip := g.strip, mask := m, order := some s.nextId, pc := s.S.pc, oldSpm := g.unfencedSpm }
          go ((({ s.fresh with lathe := s.lathe ++ [o] } : State).modG fun x => x.raise o.id .mtx).retire)

/-- The job of a started drain. -/
def LatheOp.job (o : LatheOp) : Job :=
  { core := o.core, wg := o.wg, ctx := o.ctx, gid := o.gid, row := accRow o.acc, col := accCol o.acc, init := accInit o.acc
    strip := o.inStrip, cw := o.fmt, desc := o.desc, bank := o.bank, seed := o.seed, old := o.oldSpm }

/-- A drain of the instruction path ends by a fault (R244). -/
def State.drainFault (s : State) (o : LatheOp) (r : Report) (dests : List (W64 × Nat)) : State :=
  ((s.drainBlur o.job dests).latheFault o.gid r.1 r.2 o.inStrip).latheDone o

/-- The seed with which a drain draws, and SR_SEED after it: advanced once when RND is 4 (R249). -/
def State.drainSeed (s : State) (gid : Nat) (cw : W64) : State × W64 :=
  if cwRnd cw = 4 then
    let x := seedStep (s.grp gid).seed
    (s.modGroup gid fun g => { g with seed := x }, x)
  else (s, 0)

/-- A drain of the instruction path consumes an uncorrectable error (R336). -/
def State.drainUE (s : State) (o : LatheOp) : State := (s.latheDone o).opUE o.gid o.pc

/-- A drain starts: its descriptor is read and checked, its bands are claimed, its bank and seed are fixed (R247, R249). -/
def State.startDrain (s : State) (o : LatheOp) : State :=
  if 2 ^ 32 ≤ o.bdesc.toNat then s.drainFault o (mx .sprange) []
  else
    match s.ownRecord o.core o.wg o.ctx o.bdesc.toNat with
    | none => s.drainFault o (mx .sprange) []
    | some d =>
      if s.recordMarked o.core o.wg o.ctx o.bdesc.toNat then s.drainUE o else
      let o := { o with desc := d, bank := s.activeBank o.core, n1 := recN d 320 16, n2 := recN d 336 16 }
      match s.drainCheck o.job with
      | some r => s.drainFault o r (destsOf (s.drainPuts o.job).1)
      | none =>
        let (t, seed) := s.drainSeed o.gid o.fmt
        let t := if o.inStrip then t else t.claimBands o.core o.wg o.ctx (accCol o.acc) o.n2
        t.setLathe { o with started := true, seed := seed }

/-- LATHE_OP_START (R230): the operation that became ready first starts. -/
def execLatheOpStart (op : Nat) (s : State) : Out :=
  match s.latheOp? op with
  | none => go s
  | some o => if !s.mayStart o then go s else if o.kind.team then go (s.startTeam o) else go (s.startDrain o)

/-- The writes of a started drain are made, and it completes once they are acknowledged (R247). -/
def State.drainWrite (s : State) (o : LatheOp) (c : CopyOp) : State :=
  match s.makePuts c ((c.puts.getD []).drop c.made) with
  | (t, d, none) => if d.acks.isEmpty then (t.noteWritten d (c.puts.getD [])).latheDone o else t.setLathe { o with out := some d }
  | (t, d, some .waits) => t.setLathe { o with out := some d }
  | (t, d, some (.parks va _ wp)) =>
    (t.postFault (clusterOf o.core) o.ctx va 6 (copyWin va) 2 o.core (s.grp o.gid).slot wp).setLathe
      { o with out := some d, park := some va }
  | (t, _, some (.fault k a)) => t.drainFault o (k, a) (destsOf (c.puts.getD []))
  | (t, _, some .ue) => t.drainUE o

/-- A started drain reads its region, then makes its writes (R247, R249). -/
def State.finishDrain (s : State) (o : LatheOp) : State :=
  match o.failed, o.out with
  | some va, out => s.drainFault o (.pagef, va) (destsOf ((out.bind (·.puts)).getD []))
  | none, some c => if o.park.isSome then s else s.drainWrite o c
  | none, none =>
    let j := o.job
    if s.drainMarked j then (s.drainZero j).drainUE o else
    let s := if o.spoiled then s.drainBlur j [] else s
    let (t, ps) := s.drainRead j
    let t := if o.spoiled then t.drainBlur j [] else t
    t.drainWrite o { id := o.id, gid := o.gid, kind := .drain, ctx := o.ctx, core := o.core, wg := o.wg, puts := some ps }

/-- LATHE_OP_COMPLETE (R230, R243, R247): a started operation waits for the earlier-started ones that write its elements. -/
def execLatheOpComplete (op : Nat) (s : State) : Out :=
  match s.latheOp? op with
  | none => go s
  | some o =>
    if !o.started || s.behind o then go s
    else if o.kind.team then go (s.finishTeam o) else go (s.finishDrain o)

end Sys2Proof.Machine
end

