-- ==== Sys2Proof/Machine/Ring.lean ====
section
/-! DEFINITION. Queue mode: opcodes 0xC7 and 0xC8, and the events of a ring (R253 to R261). -/

namespace Sys2Proof.Machine

open Sys2Proof

/-! ### The ring and its status record (R260) -/

/-- The ring of a core. -/
def State.ring? (s : State) (core : Nat) : Option Ring := s.rings.find? (·.core == core)

/-- The state with a core's ring changed. -/
def State.setRing (s : State) (r : Ring) : State := { s with rings := s.rings.map fun x => if x.core = r.core then r else x }

/-- STATE of R260. -/
def RingState.num : RingState → Nat
  | .stopped => 0 | .running => 1 | .waiting => 2 | .faulted => 3

/-- SR_LQST (R260). -/
def lqstWord (st : RingState) (cause code : Nat) (done : W32) : W64 :=
  BitVec.ofNat 64 (st.num + cause * 2 ^ 8 + code * 2 ^ 16 + done.toNat * 2 ^ 32)

/-- The status record (R260). -/
def statusBytes (st : RingState) (cause code : Nat) (done : W32) (iter : W64) : List Byte :=
  bytesOf 64 (BitVec.ofNat 512 (done.toNat + st.num * 2 ^ 32 + cause * 2 ^ 40 + code * 2 ^ 48 + fldN iter 0 60 * 2 ^ 64))

/-- The owner's SR_LQST and SR_MXIT. -/
def State.ringRegs (s : State) (r : Ring) (cause code : Nat) : State :=
  s.modGroup r.owner fun g => { g with lqst := lqstWord r.state cause code r.num, mxit := BitVec.ofNat 64 (fldN r.iter 0 60) }

/-- The ring's state is kept, the status record is written and the owner's registers show the same (R260). -/
def State.ringStatus (s : State) (r : Ring) (cause code : Nat) : State :=
  let t := (s.setRing r).ringRegs r cause code
  match t.reach r.core r.wg r.ctx r.stat.toNat 64 64 with
  | some p => t.homeWrite (.spm p.1 p.2) (statusBytes r.state cause code r.num r.iter)
  | none => t

/-- The ring ends: its MTX count falls (R253). -/
def State.endRing (s : State) (r : Ring) : State :=
  { s.modGroup r.owner fun g => g.finish r.opId .mtx with rings := s.rings.filter (·.core != r.core) }

/-- The ring stops with STATE 0 (R258, R261). -/
def State.stopRing (s : State) (r : Ring) : State := (s.ringStatus { r with state := .stopped } 0 0).endRing r

/-- The ring faults with STATE 3, and reports through R244 (R261). -/
def State.faultRing (s : State) (r : Ring) (p : Report) : State :=
  let code := if p.1 = .mxflt then p.2.toNat % 256 else 0
  ((s.ringStatus { r with state := .faulted } p.1.code code).latheFault r.owner p.1 p.2 false).endRing r

/-- The ring consumes an uncorrectable error: it stops with STATE 3 and CAUSE 08, and its owner restarts (R336). -/
def State.ringUE (s : State) (r : Ring) : State :=
  ((s.ringStatus { r with state := .faulted } Cause.ue.code 0).endRing r).opUE r.owner r.pc

/-- The command in progress is done (R255, R260). -/
def State.nextCommand (s : State) (r : Ring) : State :=
  let r := { r with num := r.num + 1, iter := 0, cmd := none, out := none, bank := none, state := .running
                    rewritten := r.rewritten.filter fun e => decide (r.num.toNat < e.1) }
  if r.stopAsked then s.stopRing r else s.ringStatus r 0 0

/-- The ring waits on PROD or a WAITCNT (R260). -/
def State.ringWaits (s : State) (r : Ring) : State := if r.state = .waiting then s else s.ringStatus { r with state := .waiting } 0 0

/-! ### LQSTART and LQSTOP (R253, R254, R261) -/

/-- The operands of LQSTART as checked at issue: the header's number, or the report (R254). -/
def State.ringHeader (s : State) (a : W64) : Except Report Nat :=
  let g := s.G
  let sp (x n al : Nat) : Option (Nat × Nat) := s.reach g.core g.wg g.ctx x n al
  match sp a.toNat 64 64 with
  | none => .error (mx .sprange)
  | some p =>
    let h := s.spm.num (spmKey p.1 p.2) 64
    let logn := recN h 32 4
    if (logn ≤ 12 ∧ (sp (recN h 0 32) (64 * 2 ^ logn) 64).isNone) ∨ (sp (recN h 64 32) 4 4).isNone ∨ (sp (recN h 96 32) 64 64).isNone then
      .error (mx .sprange)
    else if s.ringOn g.core ∨ 12 < logn ∨ recN h 36 28 ≠ 0 ∨ recN h 220 292 ≠ 0 then .error (mx .ring)
    else .ok h

/-- LQSTART (R253, R254): the ring starts, and the group becomes its owner. -/
def execLqstart (f : VForm) (s : State) : Out :=
  let m := selV f s
  let g := s.G
  if m = 0 then go s.retire
  else
    match s.deliverLathe with
    | some t => go t
    | none =>
      if hndmx s false then go (s.trap .hndmx m 0)
      else if 63 ≤ g.count .mtx then go s.stall
      else
        if (s.reach g.core g.wg g.ctx (aUni f s).toNat 64 64).any fun p => s.poisoned (.spm p.1 p.2) 64 then go s.consumeHere else
        match s.ringHeader (aUni f s) with
        | .error r => go (s.trap r.1 m r.2)
        | .ok h =>
          let r : Ring := { core := g.core, owner := s.cur.1, wg := g.wg, ctx := g.ctx, opId := s.nextId, rbase := BitVec.ofNat 32 (recN h 0 32)
                            logn := recN h 32 4, prod := BitVec.ofNat 32 (recN h 64 32), stat := BitVec.ofNat 32 (recN h 96 32)
                            num := BitVec.ofNat 32 (recN h 128 32), iter := BitVec.ofNat 64 (recN h 160 60), pc := s.S.pc }
          let t : State := { s.fresh with rings := s.rings ++ [r] }
          go ((t.modG fun x => x.raise r.opId .mtx).ringRegs r 0 0).retire

/-- LQSTOP (R261): the owner's ring stops once the iteration in progress is complete. -/
def execLqstop (f : VForm) (s : State) : Out :=
  let m := selV f s
  if m = 0 then go s.retire
  else
    match s.deliverLathe with
    | some t => go t
    | none =>
      if hndmx s false then go (s.trap .hndmx m 0)
      else
        match s.ring? s.G.core with
        | none => go s.retire
        | some r =>
          if r.owner ≠ s.cur.1 then let p := mx .ring; go (s.trap p.1 m p.2)
          else if r.out.isNone then go (s.stopRing r).retire
          else go (s.setRing { r with stopAsked := true }).retire

/-! ### Fetching a command (R255) -/

/-- A 4-byte word at a scratchpad address, read at its bank. -/
def State.ringWord (s : State) (r : Ring) (a : Nat) : Option Nat :=
  (s.reach r.core r.wg r.ctx a 4 4).map fun p => s.spm.num (spmKey p.1 p.2) 4

/-- Whether the word at a scratchpad address carries a poison mark. -/
def State.ringWordMarked (s : State) (r : Ring) (a : Nat) : Bool := (s.reach r.core r.wg r.ctx a 4 4).any fun p => s.poisoned (.spm p.1 p.2) 4

/-- OP of a command (R256). -/
abbrev cmdOp (c : BitVec 512) : Nat := fldN c 0 8

/-- The local offset of the entry of command i (R255). -/
def State.ringEntry (s : State) (r : Ring) (i : Nat) : Option (Nat × Nat) :=
  s.reach r.core r.wg r.ctx (r.rbase.toNat + 64 * (i % 2 ^ r.logn)) 64 64

/-- Published entries that have changed since the state before are noted with what they held (R255). -/
def State.noteRewrites (before s : State) : State :=
  let was (r : Ring) (i : Nat) : Option (Nat × BitVec 512) := (before.ringEntry r i).bind fun p =>
    let old := before.spm.num (spmKey p.1 p.2) 64
    if old = s.spm.num (spmKey p.1 p.2) 64 then none else some (i, BitVec.ofNat 512 old)
  let one (r : Ring) : Ring :=
    let n := min ((before.ringWord r r.prod.toNat).getD 0 - r.num.toNat) (2 ^ r.logn)
    { r with rewritten := r.rewritten ++ (List.range n).filterMap fun k => was r (r.num.toNat + k) }
  { s with rings := s.rings.map one }

/-- The command that the ring fetches at an entry: what it holds, or, where it was rewritten too early, an unspecified choice of that and
what it held before (R255). -/
def State.ringCommand (s : State) (r : Ring) (p : Nat × Nat) : BitVec 512 :=
  let held := BitVec.ofNat 512 (s.spm.num (spmKey p.1 p.2) 64)
  let olds := (r.rewritten.filter (·.1 == r.num.toNat)).map (·.2)
  (held :: olds).getD (Config.choose s.tick (800 + r.core) % (olds.length + 1)) held

/-- RING_COMMAND_FETCH (R255): the next command is fetched once PROD allows it; the fetch is an acquire at device scope. A fetched command with a reserved OP faults (R259). -/
def execRingCommandFetch (core : Nat) (s : State) : Out :=
  match s.ring? core with
  | none => go s
  | some r =>
    if (r.cmd.any fun c => cmdOp c == 0 || decide (6 < cmdOp c)) then go (s.faultRing r (mx .ring))
    else if r.cmd.isSome then go s
    else if s.ringWordMarked r r.prod.toNat then go (s.ringUE r)
    else if r.num.toNat + 1 ≤ (s.ringWord r r.prod.toNat).getD 0 then
      match s.ringEntry r r.num.toNat with
      | none => go (s.faultRing r (mx .sprange))
      | some p =>
        if s.poisoned (.spm p.1 p.2) 64 then go (s.ringUE r) else
        let q := { r with cmd := some (s.ringCommand r p), state := .running }
        go (if r.state = .waiting then (s.l1Flush core).ringStatus q 0 0 else (s.l1Flush core).setRing q)
    else go (s.ringWaits r)

/-! ### Iterations (R259) -/

/-- Index k of an iteration vector. -/
abbrev iterAt (v : W64) (k : Nat) : Nat := fldN v (12 * k) 12

/-- The bound of level k: 0 at or above NLOOP. -/
def boundAt (c : BitVec 512) (k : Nat) : Nat := if k < fldN c 8 3 then fldN c (224 + 12 * k) 12 else 0

/-- A signed 14-bit stride of level k in the group of five that starts at bit b. -/
def strideAt (c : BitVec 512) (b k : Nat) : Int := (fld c (b + 14 * k) 14).toInt

/-- The displacement by the strides at bit b. -/
def displace (c : BitVec 512) (v : W64) (b : Nat) : Int :=
  (List.range 5).foldl (fun x k => x + iterAt v k * strideAt c b k) 0

/-- The iteration vector after v, i0 innermost; none after the last (R259). -/
def nextIter (c : BitVec 512) (v : W64) : Option W64 :=
  ((List.range 5).find? fun k => decide (iterAt v k < boundAt c k)).map fun k =>
    BitVec.ofNat 64 ((List.range 5).foldl (fun x j =>
      x + (if j < k then 0 else if j = k then iterAt v j + 1 else iterAt v j) * 2 ^ (12 * j)) 0)

/-- An iteration is complete: the next one, the next command, or the stop that was asked for (R259, R261). -/
def State.nextIteration (s : State) (r : Ring) (c : BitVec 512) : State :=
  match nextIter c r.iter with
  | none => s.nextCommand r
  | some v =>
    let r := { r with iter := v, out := none }
    if r.stopAsked then s.stopRing r else s.setRing r

/-- Whether an iteration waits: a PMMA has the core as follower, an accumulator move of the owner came before the ring, or an earlier-started operation writes an element of the region (R230, R245). -/
def State.ringBehind (s : State) (r : Ring) (region : Nat × Nat × Nat × Nat) : Bool :=
  (s.lathe.any fun x => x.kind == .pmma && x.core + 1 == r.core && x.order.isSome)
    || (s.lathe.any fun x => (x.kind == .accld || x.kind == .accst || x.kind == .accz) && x.gid == r.owner && decide (x.id < r.opId))
    || s.lathe.any fun x => x.started && x.writes && (s.regionOn x r.core).any (regionsMeet region)

/-- The reserved bits and loop levels of a command, by OP (R256 to R258). -/
def cmdBad (c : BitVec 512) : Bool :=
  let z (lo len : Nat) : Bool := fldN c lo len != 0
  match cmdOp c with
  | 1 | 2 => z 11 5 || z 30 2 || z 51 13 || z 183 1 || z 284 4 || z 498 14 || decide (5 < fldN c 8 3)
  | 3 => z 11 21 || z 51 13 || z 160 64 || z 284 4 || z 498 14 || decide (5 < fldN c 8 3)
  | 4 | 5 => z 96 416
  | 6 => z 8 504
  | _ => true

/-! ### Ring MMA and SMMA (R256) -/

/-- The fields of a ring MMA (R256), with its displacements in blocks and columns. -/
structure RingMma where
  f : Fw
  row : Nat
  col : Int
  m : Nat
  n : Nat
  k : Nat
  aoff : Nat
  apitch : Nat
  asc : Nat
  boff : Nat
  bpitch : Nat
  bsc : Nat
  mdo : Nat
  da : Int
  db : Int
  init : Bool
  deriving DecidableEq, Repr

/-- A command's fields in an iteration. -/
def ringMma (c : BitVec 512) (v : W64) : RingMma :=
  let acc : W64 := BitVec.ofNat 64 (fldN c 32 19)
  { f := fmtOf (BitVec.ofNat 64 (fldN c 16 14)), row := accRow acc, col := accCol acc + displace c v 428
    m := fldN c 100 8 + 1, n := fldN c 164 8 + 1, k := fldN c 172 11, aoff := fldN c 64 20, apitch := fldN c 84 16, asc := fldN c 108 20
    boff := fldN c 128 20, bpitch := fldN c 148 16, bsc := fldN c 184 20, mdo := fldN c 204 20
    da := displace c v 288, db := displace c v 358
    init := accInit acc && (List.range 5).all fun k => strideAt c 428 k != 0 || iterAt v k == 0 }

/-- The iteration's region, as far as there is an accumulator store, receives unspecified values (R261). -/
def State.ringBlur (s : State) (r : Ring) (q : RingMma) : State :=
  s.blurRegion r.core q.row (min q.m (256 - q.row)) q.col.toNat (min (q.col + q.n) 576 - q.col.toNat).toNat

/-- The job of an iteration of a ring DRAIN. -/
def ringJob (old : SMap Byte) (r : Ring) (c : BitVec 512) (desc : Nat) : Job :=
  let acc : W64 := BitVec.ofNat 64 (fldN c 32 19)
  let dcol := displace c r.iter 288
  { core := r.core, wg := r.wg, ctx := r.ctx, gid := r.owner, old := old, row := accRow acc, col := accCol acc + dcol, init := accInit acc
    cw := fld c 64 64, desc := desc, dcol := dcol, dout := displace c r.iter 358, dtout := displace c r.iter 428 }

/-- The region, and of a DRAIN the outputs, of the iteration at which a bad command faults receive unspecified values (R244, R261). -/
def State.blurCommand (s : State) (r : Ring) (c : BitVec 512) : State :=
  match cmdOp c with
  | 1 | 2 => s.ringBlur r (ringMma c r.iter)
  | 3 =>
    match s.ownRecord r.core r.wg r.ctx (fldN c 128 32) with
    | some d =>
      let j : Job := { ringJob (s.grp r.owner).unfencedSpm r c d with bank := s.activeBank r.core }
      s.drainBlur j (destsOf (s.drainPuts j).1)
    | none => s
  | _ => s

/-- A command with a given OP that is ready to go on. -/
def State.ringAt (s : State) (core op : Nat) (f : Ring → BitVec 512 → State) : Out :=
  match s.ring? core with
  | none => go s
  | some r =>
    match r.cmd with
    | none => go s
    | some c => if cmdOp c ≠ op ∨ r.park.isSome then go s else if cmdBad c then go ((s.blurCommand r c).faultRing r (mx .ring)) else go (f r c)

/-- Whether a range of an operand, given by its first byte and length, leaves the allotment. -/
def rangeBad (size : Nat) (a : Int) (len : Nat) : Bool := decide (a < 0) || decide ((size : Int) < a + len)

/-- The checks of an iteration in the order of R240. -/
def State.ringMmaCheck (s : State) (r : Ring) (smma : Bool) (q : RingMma) (fw : W64) : Option Report :=
  let size := (s.wgOf r.wg).size
  let chunks := q.k / q.f.len
  let aB := q.f.aBytes
  let bB := q.f.bBytes
  let aIdx := (q.m - 1) * (q.apitch / aB) + chunks
  let bIdx := (q.n - 1) * (q.bpitch / bB) + chunks
  let reach : Bool := q.aoff % 64 != 0 || q.boff % 64 != 0 || (q.f.spar != 0 && q.mdo % 8 != 0)
    || rangeBad size (q.aoff + q.da * aB) ((q.m - 1) * q.apitch + chunks * aB)
    || rangeBad size (q.boff + q.db * bB) ((q.n - 1) * q.bpitch + chunks * bB)
    || (q.asc != 0 && scaled q.f.afmt && rangeBad size (q.asc + q.da) aIdx)
    || (q.bsc != 0 && scaled q.f.bfmt && rangeBad size (q.bsc + q.db) bIdx)
    || (q.f.spar != 0 && rangeBad size (q.mdo + 8 * q.da) (8 * aIdx))
  firstFail ([(fmtBad smma fw || q.f.bt, mx .badfmt),
      (decide (192 < q.n) || q.k == 0 || q.k % q.f.len != 0 || q.bpitch % 16 != 0 || q.bpitch % bB != 0 || q.apitch % aB != 0, mx .shape),
      (decide (q.col < 0), mx .accrange)]
    ++ s.regionChecks false r.core r.wg q.row q.m q.col.toNat q.n ++ [(reach, mx .sprange)])

/-- The operands of an iteration: blocks, scales and metadata by R238, displaced (R256, R259). -/
def State.ringSrc (s : State) (r : Ring) (q : RingMma) : MatSrc :=
  let base := (s.wgOf r.wg).base
  let aB := q.f.aBytes
  let bB := q.f.bBytes
  let at' (off : Int) (n : Nat) : Nat := s.operand (s.grp r.owner).unfencedSpm r.core base off.toNat n
  let bad (off : Int) (n : Nat) : Bool := s.poisoned (.spm r.core (base + off.toNat)) n
  let ax (row c : Nat) : Int := q.da + row * (q.apitch / aB) + c
  let bx (n c : Nat) : Int := q.db + n * (q.bpitch / bB) + c
  { f := q.f, k := q.k
    aBlock := fun row c => at' (q.aoff + ax row c * aB) aB
    aScale := fun row c => if !scaled q.f.afmt then 127 else if q.asc = 0 then 0x7F else at' (q.asc + ax row c) 1
    meta' := fun row c => at' (q.mdo + 8 * ax row c) 8
    bElt := fun n j => blockElt (eltWidth q.f.bfmt) q.f.len (j % q.f.len) (at' (q.boff + bx n (j / q.f.len) * bB) bB)
    bScale := fun n c => if !scaled q.f.bfmt then 127 else if q.bsc = 0 then 0x7F else at' (q.bsc + bx n c) 1
    aBad := fun row => (List.range (q.k / q.f.len)).any fun c =>
      bad (q.aoff + ax row c * aB) aB || (scaled q.f.afmt && q.asc != 0 && bad (q.asc + ax row c) 1) || (q.f.spar != 0 && bad (q.mdo + 8 * ax row c) 8)
    bBad := fun n => (List.range (q.k / q.f.len)).any fun c =>
      bad (q.boff + bx n c * bB) bB || (scaled q.f.bfmt && q.bsc != 0 && bad (q.bsc + bx n c) 1) }

/-- The bad metadata word that SPARSEF names: its scratchpad offset (R241). Of several the first by row, then by K-group; the spec does not say which
(log 82). -/
def State.ringBadMeta (s : State) (r : Ring) (q : RingMma) : Option Nat :=
  if q.f.spar = 0 then none
  else
    let src := s.ringSrc r q
    ((List.range q.m).map fun row => (List.range (q.k / 48)).filterMap fun c =>
      if metaBad q.f (src.meta' row c) then some ((q.mdo : Int) + 8 * (q.da + row * (q.apitch / q.f.aBytes) + c)).toNat else none).flatten.head?

/-- The results of an iteration (R241, R256). -/
def State.ringResult (s : State) (r : Ring) (q : RingMma) : State :=
  let src := s.ringSrc r q
  let col := q.col.toNat
  (List.range q.m).foldl (fun t row => (List.range q.n).foldl (fun t n =>
    let x := if q.init then 0 else (s.accWord r.core (q.row + row) (col + n)).toNat
    t.setAcc r.core (q.row + row) (col + n) (BitVec.ofNat 32 (src.elem row n x))) t) s

/-- The elements of an iteration that a poisoned word reaches. -/
def State.ringBad (s : State) (r : Ring) (q : RingMma) : List (Nat × Nat × Nat) :=
  s.reached (s.ringSrc r q) q.init r.core q.row q.col.toNat (List.range q.m) q.n

/-- An iteration consumes an uncorrectable error: before the owner restarts its region is +0; where it does not, the elements reached are marked (R336, R338). -/
def State.iterUE (s : State) (r : Ring) (q : RingMma) (bad : List (Nat × Nat × Nat)) : State :=
  let t := if (s.grp r.owner).restartable then s.zeroRegion r.core q.row q.m q.col.toNat q.n
    else bad.foldl (fun t b => t.markAcc b.1 b.2.1 b.2.2) (s.ringBlur r q)
  t.ringUE r

/-- One iteration of a ring MMA or SMMA: checked, its bands claimed, computed (R256, R259, R261). -/
def State.ringMatrix (s : State) (smma : Bool) (r : Ring) (c : BitVec 512) : State :=
  let q := ringMma c r.iter
  match s.ringMmaCheck r smma q (BitVec.ofNat 64 (fldN c 16 14)) with
  | some p => (s.ringBlur r q).faultRing r p
  | none =>
    if s.ringBehind r (q.row, q.m, q.col.toNat, q.n) then s
    else
      let t := s.claimBands r.core r.wg r.ctx q.col.toNat q.n
      let t : State := { t with collectors := t.collectors.filter (·.core != r.core) }
      if !(t.ringBad r q).isEmpty then t.iterUE r q (t.ringBad r q) else
      match t.ringBadMeta r q with
      | some off => (t.ringBlur r q).faultRing r (.sparsef, BitVec.ofNat 64 off)
      | none =>
        let span : AccSpan := { core := r.core, row := q.row, rows := q.m, col := q.col.toNat, cols := q.n }
        ((t.ringResult r q).modGroup r.owner fun g => g.accumulates span q.init).nextIteration r c

/-- R256. -/
def execRingMma (core : Nat) (s : State) : Out := s.ringAt core 1 (s.ringMatrix false)
/-- R256. -/
def execRingSmma (core : Nat) (s : State) : Out := s.ringAt core 2 (s.ringMatrix true)

/-! ### Ring DRAIN (R257) -/

/-- An iteration of a drain faults (R247, R261). -/
def State.ringDrainFault (s : State) (r : Ring) (j : Job) (p : Report) (dests : List (W64 × Nat)) : State :=
  (s.drainBlur j dests).faultRing { r with out := none } p

/-- The writes of an iteration are made; it is complete once they are acknowledged. -/
def State.ringWrite (s : State) (r : Ring) (c : BitVec 512) (j : Job) (w : CopyOp) : State :=
  match s.makePuts w ((w.puts.getD []).drop w.made) with
  | (t, d, none) => if d.acks.isEmpty then (t.noteWritten d (w.puts.getD [])).nextIteration r c else t.setRing { r with out := some d }
  | (t, d, some .waits) => t.setRing { r with out := some d }
  | (t, d, some (.parks va _ wp)) =>
    (t.postFault (clusterOf r.core) r.ctx va 6 (copyWin va) 2 r.core (s.grp r.owner).slot wp).setRing { r with out := some d, park := some va }
  | (t, _, some (.fault k a)) => t.ringDrainFault r j (k, a) (destsOf (w.puts.getD []))
  | (t, _, some .ue) => t.ringUE r

/-- One iteration of a ring DRAIN: descriptor and control word checked, bands claimed, region read, outputs written (R249, R257). The command
takes its activation bank when it starts and keeps it (R230, R252). -/
def State.ringDrainStep (s : State) (r : Ring) (c : BitVec 512) : State :=
  let r := { r with bank := some (r.bank.getD (s.activeBank r.core)) }
  let job (d : Nat) : Job := { ringJob (s.grp r.owner).unfencedSpm r c d with bank := r.bank.getD 0 }
  match r.failed, r.out with
  | some va, out => s.ringDrainFault { r with failed := none } (job r.desc) (.pagef, va) (destsOf ((out.bind (·.puts)).getD []))
  | none, some w => s.ringWrite r c (job r.desc) w
  | none, none =>
    match s.ownRecord r.core r.wg r.ctx (fldN c 128 32) with
    | none => s.faultRing r (mx .sprange)
    | some d =>
      if s.recordMarked r.core r.wg r.ctx (fldN c 128 32) then s.ringUE r else
      let r := { r with desc := d }
      let j := job d
      match s.drainCheck j with
      | some p => s.ringDrainFault r j p (destsOf (s.drainPuts j).1)
      | none =>
        if s.ringBehind r (j.row, j.rows, j.col.toNat, j.cols) then s.setRing r
        else if s.drainMarked j then (s.drainZero j).ringUE r
        else
          let (t, seed) := s.drainSeed r.owner j.cw
          let t := t.claimBands r.core r.wg r.ctx j.col.toNat j.cols
          let (t, ps) := t.drainRead { j with seed := seed }
          t.ringWrite r c j { id := r.opId, gid := r.owner, kind := .drain, ctx := r.ctx, core := r.core, wg := r.wg, puts := some ps }

/-- R257. -/
def execRingDrain (core : Nat) (s : State) : Out := s.ringAt core 3 s.ringDrainStep

/-! ### WAITCNT, SIGNAL and STOP (R258) -/

/-- R258: the wait ends with an acquire at device scope. -/
def execWaitcnt (core : Nat) (s : State) : Out :=
  s.ringAt core 4 fun r c =>
    match s.ringWord r (fldN c 32 32 % 2 ^ 28) with
    | none => s.faultRing r (mx .sprange)
    | some v => if s.ringWordMarked r (fldN c 32 32 % 2 ^ 28) then s.ringUE r else if fldN c 64 32 ≤ v then (s.l1Flush core).nextCommand r else s.ringWaits r

/-- R258: the value is added through ADDI. -/
def execLatheSignal (core : Nat) (s : State) : Out :=
  s.ringAt core 5 fun r c =>
    match s.reach core r.wg r.ctx (fldN c 32 32 % 2 ^ 28) 4 4 with
    | none => s.faultRing r (mx .sprange)
    | some p =>
      let old := s.spm.num (spmKey p.1 p.2) 4
      let new : W32 := BitVec.ofNat 32 (old + fldN c 64 32)
      ((s.writeLoc (.spm p.1 p.2) (bytesOf 4 new)).release (.spm p.1 p.2) 4).nextCommand r

/-- R258: the ring stops. -/
def execLatheStop (core : Nat) (s : State) : Out :=
  s.ringAt core 6 fun r _ => s.stopRing { r with num := r.num + 1, iter := 0, cmd := none }

end Sys2Proof.Machine
end

