-- ==== Sys2Proof/Machine/Spindle.lean ====
section
/-! DEFINITION. The Spindle units: launch descriptors, acceptance, dispatch of workgroups, tasks and shadows, and opcodes 0xD0 to 0xD3 (R16 to R24, R30, R37, R272 to R287, R340). -/

namespace Sys2Proof.Machine

open Sys2Proof

/-! ### Launch descriptors (R272, R273) -/

/-- The fields of a descriptor. -/
def descOf (d : Nat) : Desc :=
  let n (lo len : Nat) : Nat := recN d lo len
  let b (i : Nat) : Bool := recN d i 1 == 1
  { entry := BitVec.ofNat 64 (n 0 64), arg := BitVec.ofNat 64 (n 64 64), gx := n 128 16, gy := n 144 16, gz := n 160 16
    g := n 176 5, t := n 184 4, nblk := n 192 5, skib := n 200 11, prio := n 224 2, qos := BitVec.ofNat 16 (n 232 16)
    coop := b 248, drift := b 249, screen := b 250, svc := b 251, late := b 252, pair := b 253
    tx := n 256 16, ty := n 272 16, tz := n 288 16, tord := n 304 2, segmap := BitVec.ofNat 64 (n 320 64), nseg := n 384 8
    compl := BitVec.ofNat 64 (n 448 64)
    reserved := [(181, 3), (188, 4), (197, 3), (211, 13), (226, 6), (254, 2), (306, 14), (392, 56), (580, 4), (586, 438)].any fun f =>
      n f.1 f.2 != 0 }

/-- Bytes at a context's address as the device reads them, on a page of any tier; none where the page refuses RD or nothing translates (R273). -/
def State.deviceRead (s : State) (ctx : Nat) (va : W64) (n : Nat) : Option Nat :=
  let off := va.toNat % 2 ^ 56
  if 2 ^ 60 ≤ va.toNat then none
  else match s.walk ctx (BitVec.ofNat 64 off) with
    | .leaf p _ => if bitAt p 1 then some (natOfBytes (s.readLoc (leafLoc p off) n)) else none
    | _ => none

/-- Segment k of a map; with it, whether a reserved field or a bound is broken, and the bytes of its used replica fields (R288). -/
def State.segment (s : State) (ctx : Nat) (map : W64) (k : Nat) : Option (Segment × Bool) :=
  (s.deviceRead ctx (map + BitVec.ofNat 64 (32 * k)) 32).map fun r =>
    let base := recN r 0 64
    let len := recN r 64 32
    let reps := (List.range (recN r 128 2 + 1)).map fun i => recN r (96 + 8 * i) 8
    ({ base := BitVec.ofNat 64 base, len := len, reps := reps },
      base % 256 != 0 || len % 256 != 0 || len == 0 || decide (262144 < len) || recN r 130 126 != 0 || reps.any fun c => decide (191 < c))

/-- The segments of a drift launch; none where the map is bad (R288). -/
def State.segments (s : State) (ctx : Nat) (d : Desc) : Option (List Segment) :=
  let rs := (List.range (d.nseg + 1)).map (s.segment ctx d.segmap)
  if d.segmap.toNat % 32 ≠ 0 ∨ rs.any (fun r => r.elim true (·.2)) then none
  else
    let segs := rs.filterMap fun r => r.map (·.1)
    let cores := (segs.map (·.reps)).flatten
    let meets (a b : Segment) : Bool := decide (a.base.toNat < b.base.toNat + b.len) && decide (b.base.toNat < a.base.toNat + a.len)
    let overlap := (segs.zipIdx).any fun a => (segs.drop (a.2 + 1)).any (meets a.1)
    if overlap ∨ cores.eraseDups.length ≠ cores.length ∨ !(segs.head?.any fun z => inSegment z d.entry) then none else some segs

/-- Whether a context serves another (R273, R379). -/
def State.serves (s : State) (ctx : Nat) : Bool := s.ctxs.any fun c => c.service.any (·.1 == ctx)

/-- Whether a descriptor is bad in another way than by its team size (R17, R273, R379). -/
def State.descBad (s : State) (ctx : Nat) (d : Desc) : Bool :=
  let feats := ((s.ctx? ctx).map (·.feats)).getD 0
  d.reserved || d.gx == 0 || d.gy == 0 || d.gz == 0 || d.g == 0 || decide (16 < d.g) || d.nblk == 0 || decide (16 < d.nblk)
    || decide (128 < d.g * d.nblk) || decide (1024 < d.skib) || d.t == 0 || d.tord == 3
    || (d.tx == 0 && (d.ty != 0 || d.tz != 0)) || (d.tx != 0 && (d.ty == 0 || d.tz == 0))
    || (d.drift && (d.coop || d.pair || d.segmap == 0 || d.g != 1 || d.t != 1 || d.skib != 0 || (s.segments ctx d).isNone))
    || (!d.drift && d.segmap != 0) || (d.svc && !s.serves ctx)
    || (d.drift && !bitAt feats 2) || (d.screen && !bitAt feats 3) || (d.pair && !bitAt feats 4)

/-- The status with which a descriptor is refused: BADDESC or TEAMSIZE (R17, R273). -/
def State.descStatus (s : State) (ctx : Nat) (d : Desc) : Option Nat :=
  if s.descBad ctx d then some 4
  else if 4 < d.t ∨ d.g % d.t ≠ 0 then some 5 else none

/-! ### Placement (R18, R19, R21) -/

/-- Free group slots of a core. -/
def State.freeSlots (s : State) (core : Nat) : List Nat :=
  (List.range 32).filter fun k => !(s.groups.any fun g => g.core == core && g.slot == k)

/-- Register blocks of a core in use: of groups, surrendered, and of ended groups of workgroups that go on (R23). -/
def State.blocksUsed (s : State) (core : Nat) : Nat :=
  ((s.groups.filter (·.core == core)).map fun g => g.nblk + g.owed).foldl (· + ·) 0
    + ((s.wgs.filter (·.core == core)).map fun w => w.pool + w.spent).foldl (· + ·) 0

/-- Whether no workgroup holds a byte of a run of scratchpad. -/
def State.spmFree (s : State) (core base size : Nat) : Bool :=
  !(s.wgs.any fun w => (w.core == core || (w.pair && w.core + 1 == core)) && decide (w.base < base + size) && decide (base < w.base + w.size))

/-- The places where a run of scratchpad fits. -/
def State.spmPlaces (s : State) (core size : Nat) (pair : Bool) : List Nat :=
  if size = 0 then [0]
  else ((List.range (1025 - size / 1024)).map (1024 * ·)).filter fun b => s.spmFree core b size && (!pair || s.spmFree (core + 1) b size)

/-- Whether a core meets the conditions for a workgroup (R18, R19, R30, R289). -/
def State.fits (s : State) (p : Placing) (core : Nat) : Bool :=
  decide (core < Config.cores) && decide (p.g ≤ (s.freeSlots core).length) && decide (s.blocksUsed core + p.g * p.nblk ≤ Config.blocks)
    && !(s.spmPlaces core p.size p.pair).isEmpty && (!p.pair || core % 2 == 0) && SMap.get (0, 0) s.segid core == (0, 0)
    && (!p.pair || SMap.get (0, 0) s.segid (core + 1) == (0, 0))

/-- Cores of a cluster. -/
def coresOf (cluster : Nat) : List Nat := (List.range 8).map (8 * cluster + ·)

/-- An allotment is zero where another context, or none since reset, held any of its bytes last (R21). -/
def State.allot (s : State) (core ctx base size : Nat) : State :=
  let ks := (List.range (size / 1024)).map fun i => 1024 * core + base / 1024 + i
  let clean := ks.all fun k => SMap.get 0 s.spmCtx k == ctx + 1
  let lo := spmKey core base
  { s with spm := if clean then s.spm else s.spm.filter fun e => !(decide (lo ≤ e.1) && decide (e.1 < lo + size))
           spmPoison := if clean then s.spmPoison else s.spmPoison.filter fun e => !(decide (lo ≤ e.1) && decide (e.1 < lo + size))
           spmCtx := ks.foldl (fun m k => SMap.set 0 m k (ctx + 1)) s.spmCtx }

/-- The group state of creation (R20, R103). -/
def newGroup (p : Placing) (gid wg core slot ginwg : Nat) : Group :=
  let seed : W64 := if p.grid = 0 then p.task ^^^ ((p.evc &&& 0xFFFF) <<< 48)
    else (BitVec.ofNat 64 p.grid <<< 32) ^^^ (BitVec.ofNat 64 p.lin <<< 4) ^^^ BitVec.ofNat 64 ginwg
  { gid := gid, core := core, slot := slot, ctx := p.ctx, wg := wg, grid := p.grid, wgx := p.wgx, wgy := p.wgy, wgz := p.wgz, lin := p.lin
    ginwg := ginwg, teamSize := p.t, teamIdx := ginwg % p.t, depth := p.depth, task := p.task, evc := p.evc, svc := p.svc, late := p.late
    drift := p.drift, pair := p.pair, succ := p.succ, shadow := p.shadowOf.isSome, screened := p.screened, badTask := p.badTask, nblk := p.nblk
    s := SMap.set 0 [] 0 p.arg, splits := [{ idx := 0, mask := BitVec.allOnes 64, pc := p.entry }], seed := seed ||| 1, qos := p.qos }

/-- A group takes what its context sets for new groups (R38, R322). -/
def State.forContext (s : State) (g : Group) : Group :=
  match s.ctx? g.ctx with
  | some c => { g with wdlim := c.wdlim, order := s.tick }
  | none => { g with order := s.tick }

/-- The groups of a workgroup are created in the slots given; their creation acquires at domain scope (R20, R268). -/
def State.createGroups (s : State) (p : Placing) (wg core : Nat) : Nat → List Nat → State
  | _, [] => s.l1Flush core
  | k, slot :: rest =>
    let g := s.forContext (newGroup p s.nextId wg core slot k)
    ({ s.fresh with groups := s.groups ++ [g] } : State).createGroups p wg core (k + 1) rest

/-- A workgroup is placed on a core: which free slots and which free run of scratchpad is an unspecified choice (R18, R19); those of a cooperative
grid lie as low as they can, so that every one that R37 counts finds room. It keeps memory as it stood at the dispatch of its grid, or at its own (R57). -/
def State.placeWg (s : State) (p : Placing) (core : Nat) : State :=
  let slots := s.freeSlots core
  let r := Config.choose s.tick 5000 % slots.length
  let bases := s.spmPlaces core p.size p.pair
  let base := if p.coop then bases.headD 0 else bases.getD (Config.choose s.tick 5001 % bases.length) 0
  let wg : Workgroup := { id := s.nextId, grid := p.grid, ctx := p.ctx, core := core, base := base, size := p.size, pair := p.pair, live := p.g
                          task := p.task, lin := p.lin, shadowOf := p.shadowOf, code := (s.grid? p.grid).elim (some s.mem) (·.code) }
  let t := s.allot core p.ctx base p.size
  let t := if p.pair then t.allot (core + 1) p.ctx base p.size else t
  ({ t.fresh with wgs := t.wgs ++ [wg] } : State).createGroups p wg.id core 0 ((slots.drop r ++ slots.take r).take p.g)

/-- The placing of a grid's workgroup with a linear index (R18). -/
def Grid.placing (g : Grid) (lin : Nat) : Placing :=
  let d := g.desc
  { ctx := g.ctx, grid := g.id, depth := g.depth, lin := lin, wgx := lin % d.gx, wgy := lin / d.gx % d.gy, wgz := lin / (d.gx * d.gy)
    g := d.g, t := d.t, nblk := d.nblk, size := 1024 * d.skib, entry := d.entry, arg := d.arg, qos := d.qos, svc := d.svc, late := d.late
    pair := d.pair, drift := d.drift, coop := d.coop }

/-- Workgroups of a grid. -/
def Grid.total (g : Grid) : Nat := g.desc.gx * g.desc.gy * g.desc.gz

/-- One step of a context's Galois LFSR (R340). -/
def lfsrStep (x : W32) : W32 := let y := x >>> 1; if bitAt x 0 then y ^^^ 0x80200003 else y

/-- N of a context's screening at the operating point (R340, R385). -/
def State.screenN (s : State) (c : Context) : Nat := if s.point = .screen then min c.screenN 16 else c.screenN

/-- A dispatch of a workgroup of a grid advances its context's LFSR under SCREEN; with it, whether the workgroup is screened (R340). -/
def State.stepScreen (s : State) (g : Grid) : State × Bool :=
  match s.ctx? g.ctx with
  | none => (s, false)
  | some c =>
    if !g.desc.screen then (s, false)
    else
      let st := lfsrStep c.lfsr
      (s.modCtx g.ctx fun x => { x with lfsr := st }, st.toNat % s.screenN c == 0)

/-- The shadow of a workgroup dispatched on a core waits for a place on another cluster (R340). -/
def State.askShadow (s : State) (wg core : Nat) (p : Placing) : State :=
  { s.fresh with shadowReqs := s.shadowReqs ++ [{ id := s.nextId, wg := wg, since := s.clk, cluster := clusterOf core
                                                  spec := { p with screened := true, coop := false, shadowOf := some wg } }] }

/-- A workgroup of a grid is dispatched; one that is screened is marked, and its shadow waits for a place (R18, R340). -/
def State.dispatchWg (s : State) (g : Grid) (core : Nat) : State :=
  let p := g.placing g.next
  let (t, screened) := (s.modGrid g.id fun x => { x with next := x.next + 1 }).stepScreen g
  if screened then (t.placeWg { p with screened := true } core).askShadow t.nextId core p else t.placeWg p core

/-! ### Acceptance (R37, R274) -/

/-- An unspecified grid id, nonzero and unlike those of the grids in being (R272). -/
def State.freeGrid (s : State) : Nat :=
  let used (i : Nat) : Bool := s.grids.any (·.id == i)
  let c := Config.choose s.tick 5002 % 0xFFFFFFFF + 1
  if used c then ((List.range (s.grids.length + 2)).find? fun i => i != 0 && !used i).getD 1 else c

/-- Grids that are open: their last workgroup has not been dispatched (R274), or a creation has not been admitted (R289). -/
def State.openGrids (s : State) : List Grid :=
  s.grids.filter fun g => decide (g.next < g.total) || s.xfers.any fun x => x.creation && x.image.grid == g.id

/-- n workgroups of a cooperative grid are placed, each on a core where it fits, chosen freely (R18); none where one then finds no room. -/
def State.scatterWgs (s : State) (id : Nat) : Nat → Option State
  | 0 => some s
  | n + 1 =>
    (s.grid? id).bind fun g =>
      let r := Config.choose s.tick (5100 + n) % Config.cores
      (((List.range Config.cores).map fun i => (r + i) % Config.cores).find? (s.fits (g.placing g.next))).bind fun core =>
        (s.dispatchWg g core).scatterWgs id n

/-- Every workgroup of a cooperative grid is placed, the lowest cores first; none where one does not fit (R37). -/
def State.placeAllWgs (s : State) (id : Nat) : Nat → List Nat → Option State
  | 0, _ => some s
  | _ + 1, [] => none
  | n + 1, core :: rest =>
    let fill := (List.range (n + 1)).foldl (fun (t : State × Nat) _ =>
      match t.1.grid? id with
      | some g => if t.2 ≤ n ∧ t.1.fits (g.placing g.next) core then (t.1.dispatchWg g core, t.2 + 1) else t
      | none => t) (s, 0)
    fill.1.placeAllWgs id (n + 1 - fill.2) rest

/-- The entry leaves its queue. -/
def State.dropLaunch (s : State) (l : Launch) : State := { s with launches := s.launches.erase l }

/-- A launch is refused: its command completes with the status, or its issuer traps with LAUNCHF (R273, R286). -/
def State.refuseLaunch (s : State) (l : Launch) (status : Nat) : State :=
  let t := (s.dropLaunch l).completeCmd l.cmd status
  match l.issuer with
  | none => t
  | some (g, i) =>
    let p := (t.grp g).split i
    if (t.group? g).isNone then t
    else (t.modGroup g fun x => { x with wdog := 0 }).trapGroup g { split := i, cause := .launchf, pc := p.pc, mask := l.mask, addr := l.va }

/-- The Spindle unit writes GRID, PARENT, DEPTH and STATE into a descriptor (R274). -/
def State.writeAccepted (s : State) (g : Grid) : State :=
  let t := s.deviceWrite g.ctx (g.va + 64) (bytesOf 4 (BitVec.ofNat 32 g.id))
  let t := t.deviceWrite g.ctx (g.va + 68) (bytesOf 4 (BitVec.ofNat 32 g.parent))
  (t.deviceWrite g.ctx (g.va + 72) [BitVec.ofNat 8 g.depth]).setGridState g 1

/-- The replica cores of a drift grid are free of other work (R274). -/
def State.coresFree (s : State) (segs : List Segment) : Bool :=
  ((segs.map (·.reps)).flatten).all fun c => !(s.groups.any (·.core == c)) && !(s.wgs.any fun w => w.core == c || (w.pair && w.core + 1 == c))
    && SMap.get (0, 0) s.segid c == (0, 0)

/-- Each replica core pins its segment (R289). -/
def State.pin (s : State) (id : Nat) (segs : List Segment) : State :=
  { s with segid := (segs.zipIdx).foldl (fun m z => z.1.reps.foldl (fun m c => SMap.set (0, 0) m c (z.2 + 1, id)) m) s.segid }

/-- Whether a word of an instruction store belongs to a segment that a running drift grid of its context pins on the core (R57, R289). -/
def State.pinnedWord (s : State) (e : Nat × Nat × Nat × Nat × W64) : Bool :=
  let z := SMap.get (0, 0) s.segid e.1
  z != (0, 0) && (s.grid? z.2).any fun g => g.ctx == e.2.1 && (g.segs[z.1 - 1]?).any fun x => inSegment x (BitVec.ofNat 64 e.2.2.2.1)

/-- A launch is accepted: the grid opens, the entry leaves, instruction stores of the context are invalid, and a GLAUNCH that waits retires (R57, R274,
R286, R289). The dispatch of a grid at which R57 invalidates them is taken to be its acceptance (log 71). -/
def State.acceptLaunch (s : State) (l : Launch) (d : Desc) : State :=
  let iss := l.issuer.map fun gi => s.grp gi.1
  let grid : Grid := { id := s.freeGrid, ctx := l.ctx, va := l.va &&& 0x00FFFFFFFFFFFFFF, desc := d, parent := (iss.map (·.grid)).getD 0
                       depth := (iss.map fun g => g.depth + 1).getD 0, cmd := l.cmd, code := some s.mem
                       segs := if d.drift then (s.segments l.ctx d).getD [] else [] }
  let t : State := { s.dropLaunch l with grids := s.grids ++ [grid]
                                         istore := s.istore.filter fun e => e.2.1 != l.ctx || (s.pinnedWord e && e.2.2.1 != grid.id) }
  let t? : Option State := if d.coop then (t.scatterWgs grid.id grid.total).or (t.placeAllWgs grid.id grid.total (List.range Config.cores)) else some (t.pin grid.id grid.segs)
  match t? with
  | none => s.refuseLaunch l 6
  | some t =>
    let t := t.writeAccepted grid
    match l.issuer with
    | some (g, i) => if (t.group? g).isSome then t.retireAt g i else t
    | none => t

/-- The head of a launch queue (R271). -/
def State.launchHead (s : State) (ctx prio : Nat) : Option Launch := s.launches.find? fun l => l.ctx == ctx && l.prio == prio

/-- Whether a context's new work is dispatched (R38). -/
def State.dispatches (s : State) (ctx : Nat) : Bool := (s.ctx? ctx).any fun c => !c.lost && !c.preempt

/-- Whether GLAUNCH may not launch a descriptor: a drift grid, or service privilege that its group lacks (R286). -/
def State.childBad (s : State) (l : Launch) (d : Desc) : Bool := l.issuer.any fun gi => d.drift || (d.svc && !(s.grp gi.1).svc)

/-- GRID_ACCEPT (R274): the head of a launch queue is checked and accepted, or refused; a drift grid waits for its cores. -/
def execGridAccept (ctx prio : Nat) (s : State) : Out :=
  match s.launchHead ctx prio with
  | none => go s
  | some l =>
    if !s.dispatches ctx || decide (1024 ≤ s.openGrids.length) then go s
    else
      match s.deviceRead ctx l.va 128 with
      | none => go (s.refuseLaunch l 4)
      | some n =>
        let d := descOf n
        let d := if l.issuer.isNone then { d with coop := l.coop } else d
        match s.descStatus ctx d with
        | some st => go (s.refuseLaunch l st)
        | none =>
          if s.childBad l d then go (s.refuseLaunch l 4)
          else if d.drift && !(s.coresFree ((s.segments ctx d).getD [])) then go s
          else go (s.acceptLaunch l d)

/-! ### Tasks (R30, R280, R281) -/

/-- Element k of a task queue, where it can be read. -/
def State.taskElem (s : State) (ctx : Nat) (l : Loc) (h : Header) (k : Nat) : Option Nat := (s.element ctx l h k).map fun e => s.num e 8

/-- The element of a task queue that is dispatched next, with its number: its head, or under PREEMPT the first evaluation (R38). -/
def State.taskNext (s : State) (ctx cluster prio : Nat) : Option (Nat × Nat) :=
  (s.taskQueueLoc ctx cluster prio).bind fun l => (s.header l 8).bind fun h =>
    if h.head = h.tail then none
    else if s.dispatches ctx then (s.taskElem ctx l h h.head).map fun e => (h.head, e)
    else if !(s.ctx? ctx).any (!·.lost) then none
    else (List.range ((h.tail + 2 ^ 64 - h.head) % 2 ^ 64)).findSome? fun j =>
      ((s.taskElem ctx l h (h.head + j)).filter (· % 2 == 1)).map fun e => (h.head + j, e)

/-- Element k leaves a task queue: those before it move up by one, and HEAD rises (R38; log 85). -/
def State.takeTask (s : State) (ctx : Nat) (l : Loc) (k : Nat) : State :=
  match s.header l 8 with
  | none => s
  | some h =>
    let t := (List.range (k - h.head)).foldl (fun t j =>
      match s.element ctx l h (k - j), s.taskElem ctx l h (k - j - 1) with
      | some e, some x => t.homePut e 8 x
      | _, _ => t) s
    t.homePut (l.add 16) 8 (h.head + 1)

/-- Why a record is not read (R281). -/
def State.recordFault (s : State) (ctx elem : Nat) : Option Cause :=
  if elem / 2 % 32 ≠ 0 then some .align
  else
    match s.walk ctx (BitVec.ofNat 64 (elem / 64 * 64 % 2 ^ 56)) with
    | .leaf p _ => if elem < 2 ^ 60 ∧ pteTier p ≠ 3 ∧ bitAt p 1 then none else if 2 ^ 60 ≤ elem then some .pagef else some .perm
    | _ => some .pagef

/-- The group that a record asks for (R280, R281): a bad record gives one register block. A record with NBLK 17 to 31, of which R281 says
nothing, is taken for one as bad as one with NBLK 0 (log 78). -/
def taskPlacing (ctx : Nat) (qos : W16) (elem r : Nat) : Placing :=
  let nblk := recN r 226 5
  let bad := nblk == 0 || decide (16 < nblk) || recN r 241 15 != 0
  let evc : W64 := if elem % 2 = 1 then BitVec.ofNat 64 (recN r 400 16 + recN r 384 16 * 2 ^ 16 + recN r 416 32 * 2 ^ 32) else 0
  { ctx := ctx, wgx := recN r 128 32, wgy := recN r 160 32, wgz := recN r 192 32, nblk := if bad then 1 else nblk, size := 1024 * recN r 231 10
    entry := BitVec.ofNat 64 (recN r 0 64), arg := BitVec.ofNat 64 (recN r 64 64), qos := qos, task := BitVec.ofNat 64 (elem / 64 * 64)
    succ := BitVec.ofNat 64 (recN r 256 64), evc := evc, badTask := bad }

/-- What dispatch would place for an element of a task queue; none where its record cannot be read. -/
def State.taskPlace (s : State) (ctx elem : Nat) : Option Placing :=
  if (s.recordFault ctx elem).isSome then none
  else (s.deviceRead ctx (BitVec.ofNat 64 (elem / 64 * 64)) 64).map (taskPlacing ctx (((s.ctx? ctx).map (·.qos)).getD 0) elem)

/-! ### The order of dispatch (R275) -/

/-- The candidates of a cluster's unit with the rank of each: tasks before grids, by priority, grids in order of acceptance; shadows last. Under PREEMPT
only evaluations of the context are (R38). -/
def State.candidates (s : State) (cluster : Nat) : List (Cand × Nat) :=
  let perPrio (p : Nat) : List (Cand × Nat) :=
    let r := (s.grids.length + 2) * (3 - p)
    let tasks := s.ctxs.filterMap fun c => (s.taskNext c.id cluster p).map fun e => (Cand.task c.id p e.1, r)
    let grids := (s.grids.zipIdx).filterMap fun g =>
      if g.1.desc.prio = p ∧ g.1.next < g.1.total ∧ ¬g.1.desc.drift ∧ s.dispatches g.1.ctx then some (Cand.grid g.1.id g.1.next, r + 1 + g.2) else none
    tasks ++ grids
  let shadows := (s.shadowReqs.zipIdx).filterMap fun q => if q.1.cluster ≠ cluster ∧ s.dispatches q.1.spec.ctx then some (Cand.shadow q.1.id, 4 * (s.grids.length + 2) + q.2) else none
  ([3, 2, 1, 0].map perPrio).flatten ++ shadows

/-- What a candidate places; none for a task whose record cannot be read. -/
def State.candPlacing (s : State) (cluster : Nat) : Cand → Option Placing
  | .task ctx prio _ => (s.taskNext ctx cluster prio).bind fun e => s.taskPlace ctx e.2
  | .grid id lin => (s.grid? id).map fun g => g.placing lin
  | .shadow id => (s.shadowReqs.find? (·.id == id)).map (·.spec)

/-- Whether a unit could place a candidate now. -/
def State.placeable (s : State) (cluster : Nat) (c : Cand) : Bool :=
  match s.candPlacing cluster c with
  | some p => (coresOf cluster).any (s.fits p)
  | none => true

/-- The candidates that a unit considers before one. -/
def State.before (s : State) (cluster : Nat) (c : Cand) : List Cand :=
  let all := s.candidates cluster
  match all.find? (·.1 == c) with
  | some x => (all.filter fun y => decide (y.2 < x.2)).map (·.1)
  | none => []

/-- Whether a candidate has been passed over by a unit for 65,536 clocks. -/
def State.overdue (s : State) (cluster : Nat) (c : Cand) : Bool :=
  s.passes.any fun p => p.cluster == cluster && p.cand == c && (p.blocks || decide (65536 ≤ (s.clk - p.since).toNat))

/-- Whether a candidate is the one that a unit places next (R275). -/
def State.turn (s : State) (cluster : Nat) (c : Cand) : Bool :=
  (s.candidates cluster).any (·.1 == c) && (s.before cluster c).all fun b => !s.placeable cluster b && !s.overdue cluster b

/-- A unit places a candidate: those before it have been passed over, and it has no longer been: by this unit a task, by any unit a workgroup
(R275). What is no candidate any more is forgotten. -/
def State.passOver (s : State) (cluster : Nat) (c : Cand) : State :=
  let new := ((s.before cluster c).filter fun b => !(s.passes.any fun p => p.cluster == cluster && p.cand == b)).map fun b =>
    Pass.mk cluster b s.clk false
  let here : Bool := match c with | .task _ _ _ => true | _ => false
  let old := s.passes.filter fun p => !(p.cand == c && (!here || p.cluster == cluster))
    && (p.cluster != cluster || (s.candidates cluster).any (·.1 == p.cand))
  { s with passes := old ++ new }

/-- DISPATCH_PASS_OVER_LIMIT (R275): a candidate passed over for 65,536 clocks blocks what comes after it. -/
def execDispatchPassOverLimit (cluster : Nat) (s : State) : Out :=
  go { s with passes := s.passes.map fun p =>
        if p.cluster = cluster ∧ 65536 ≤ (s.clk - p.since).toNat then { p with blocks := true } else p }

/-- WORKGROUP_DISPATCH (R18, R275, R340): the unit of a core's cluster places the workgroup, or the shadow, that is first in its order. -/
def execWorkgroupDispatch (core : Nat) (s : State) : Out :=
  let cl := clusterOf core
  let ok (c : Cand × Nat) : Bool := s.turn cl c.1 && (s.candPlacing cl c.1).any fun p => s.fits p core
  let isTask : Cand → Bool := fun c => match c with | .task _ _ _ => true | _ => false
  match (s.candidates cl).find? fun c => !isTask c.1 && ok c with
  | some (.grid id lin, _) =>
    match s.grid? id with
    | some g => go ((s.passOver cl (.grid id lin)).dispatchWg g core)
    | none => go s
  | some (.shadow id, _) =>
    match s.shadowReqs.find? (·.id == id) with
    | some q =>
      let t := (s.passOver cl (.shadow id)).placeWg q.spec core
      go { t with shadowReqs := t.shadowReqs.filter (·.id != id) }
    | none => go s
  | _ => go s

/-- TASK_DISPATCH (R30, R281): the head of a task queue of the core's cluster becomes a group; a record that cannot be read is dropped with an event. -/
def execTaskDispatch (ctx prio core : Nat) (s : State) : Out :=
  let cl := clusterOf core
  match s.taskNext ctx cl prio, s.taskQueueLoc ctx cl prio with
  | some (k, e), some l =>
    let c : Cand := .task ctx prio k
    if !s.turn cl c then go s
    else
      match s.recordFault ctx e, s.taskPlace ctx e with
      | some f, _ => go (((s.passOver cl c).takeTask ctx l k).post { type := 2, cause := f.code, ctx := ctx, addr := BitVec.ofNat 64 e })
      | none, some p => if s.fits p core then go (((s.passOver cl c).takeTask ctx l k).placeWg p core) else go s
      | none, none => go s
  | _, _ => go s

/-- SHADOW_ABANDON (R340): a shadow not placed within 65,536 clocks is abandoned uncounted. -/
def execShadowAbandon (sh : Nat) (s : State) : Out :=
  match s.shadowReqs.find? (·.id == sh) with
  | none => go s
  | some q =>
    if (s.clk - q.since).toNat < 65536 then go s
    else go { s with shadowReqs := s.shadowReqs.filter (·.id != sh)
                     screenEnds := s.screenEnds.filter (·.wg != q.wg), handouts := s.handouts.filter (·.1 != q.wg)
                     groups := s.groups.map fun g => if g.wg = q.wg then { g with screened := false } else g }

/-! ### TSPAWN (R283) -/

/-- Whether TSPAWN's selector breaks its table (R283). -/
def selectorBad (b : W64) : Bool :=
  fldN b 2 6 != 0 || fldN b 13 3 != 0 || fldN b 17 47 != 0 || decide (23 < fldN b 8 5) || (bitAt b 16 && fldN b 8 5 != 0)

/-- A group operation of a screened group that is no memory element enters the store hash (R341). -/
def State.hashStep (s : State) (opc sz : Nat) (a : W64) (data : List Byte) : State :=
  if s.G.screened then s.addHash s.cur.1 (digest opc sz a data) else s

/-- R283. -/
def execTspawn (f : VForm) (s : State) : Out :=
  let m := selV f s
  let a := aUni f s
  let b := bUni f s
  if m = 0 then go s.retire
  else if selectorBad b ∨ a = 0 ∨ fldN a 48 16 ≠ 0 then go (s.trap .range m a)
  else if a.toNat % 64 ≠ 0 then go (s.trap .align m a)
  else
    match s.releaseWait 5 m with
    | some t => go t
    | none =>
      let clu := if bitAt b 16 then clusterOf s.G.core else fldN b 8 5
      let h := s.hashStep 0xD0 3 a (bytesOf 8 b)
      if s.G.shadow then go h.retire
      else
        match s.taskQueueLoc s.G.ctx clu (fldN b 0 2) with
        | none => go (h.trap .perm m a)
        | some l =>
          match h.enqStore s.G.ctx l 8 a.toNat with
          | (t, .done _) => go t.retire
          | (_, .later) | (_, .reading _) => go s.stall
          | (t, .dropped _) => go (t.trap .qovf m a)
          | (t, .fault c) => go (t.trap c m a)

/-! ### WQRY (R284, R285) -/

/-- R285. -/
def execWqry (f : VForm) (s : State) : Out :=
  let m := selV f s
  let a := aUni f s
  let win := fldN a 28 4
  let o : MemOp := { id := s.nextId, owner := .group s.cur.1 s.cur.2, kind := .store, ctx := s.G.ctx, core := s.G.core, toSpm := true, opc := 0x91 }
  if m = 0 then go s.retire
  else if 2 ^ 32 ≤ a.toNat then go (s.trap .range m a)
  else if ¬[0, 1, 12].contains win then go (s.trap .winf m a)
  else if a.toNat % 8 ≠ 0 then go (s.trap .align m a)
  else if 63 ≤ s.G.count .qry then go s.stall
  else
    match s.placeScratch o (s.wgOf s.G.wg) { va := a, size := 8 } with
    | .ok e =>
      let q : Query := { id := s.nextId, gid := s.cur.1, grid := s.G.grid, loc := e.loc, win := win }
      let t : State := { (s.hashStep 0xD1 3 a []).fresh with queries := s.queries ++ [q] }
      go (t.modG fun g => g.raise q.id .qry).retire
    | .fault c => go (s.trap c m a)
    | .parks _ => go s.stall

/-- The tile with index i of a tile space, as an answer of the n-th hand-out (R284). -/
def tileAnswer (d : Desc) (n : Nat) : W64 :=
  let i := n - 1
  if d.tx * d.ty * d.tz ≤ i then BitVec.allOnes 64
  else
    let z := i / (d.tx * d.ty)
    let (x, y) := if d.tord = 1 then (i / d.ty % d.tx, i % d.ty) else (i % d.tx, i / d.tx % d.ty)
    let x := if d.tord = 2 ∧ (y + z * d.ty) % 2 = 1 then d.tx - 1 - x else x
    BitVec.ofNat 64 (x + y * 2 ^ 16 + z * 2 ^ 32 + n % 2 ^ 16 * 2 ^ 48)

/-- The answer that a distributor gives to a group (R284, R285). -/
def State.distribute (s : State) (g : Group) : State × W64 :=
  match s.grid? g.grid with
  | none => (s, BitVec.allOnes 64)
  | some gr =>
    if gr.desc.tx = 0 ∨ gr.desc.tx * gr.desc.ty * gr.desc.tz ≤ gr.handed then (s, BitVec.allOnes 64)
    else (s.modGrid gr.id fun x => { x with handed := x.handed + 1 }, tileAnswer gr.desc (gr.handed + 1))

/-- The answer is written through the query's window, and QRY falls (R285). -/
def State.writeAnswer (s : State) (q : Query) (x : W64) : State :=
  { (s.homePut q.loc 8 x.toNat).modGroup q.gid fun g => g.finish q.id .qry with queries := s.queries.filter (·.id != q.id) }

/-- WQRY_ANSWER (R284): a group's queries are answered in order; a shadow takes its primary's hand-outs (R341). -/
def execWqryAnswer (op : Nat) (s : State) : Out :=
  match s.queries.find? (·.id == op) with
  | none => go s
  | some q =>
    let g := s.grp q.gid
    if s.queries.any fun x => x.gid == q.gid && decide (x.id < q.id) then go s
    else if g.shadow then
      let wg := (s.wgOf g.wg).shadowOf.getD 0
      match s.handouts.find? fun h => h.1 == wg && h.2.1 == g.ginwg with
      | none => go s
      | some h => go (({ s with handouts := s.handouts.erase h } : State).writeAnswer q h.2.2)
    else
      let (t, x) := s.distribute g
      let t : State := if g.screened then { t with handouts := t.handouts ++ [(g.wg, g.ginwg, x)] } else t
      go (t.writeAnswer q x)

/-! ### GLAUNCH and GWAIT (R286, R287) -/

/-- R286: after its checks the launch waits in its queue; the split waits until the Spindle unit has accepted it. -/
def execGlaunch (f : VForm) (s : State) : Out :=
  let m := selV f s
  let a := aUni f s
  let g := s.G
  if m = 0 then go s.retire
  else if s.launches.any (·.issuer == some s.cur) then go s.stall
  else if g.teamIdx ≠ 0 ∨ g.depth = 10 then go (s.trap .launchf m a)
  else if a.toNat % 128 ≠ 0 then go (s.trap .align m a)
  else
    match s.releaseWait 5 m with
    | some t => go t
    | none =>
      if 2 ^ 60 ≤ a.toNat then go (s.trap .range m a)
      else
        match s.translate g.core g.ctx a .load 0 with
        | (t, .unmapped) | (t, .protect) => go (t.parkIssue a 0 0 false)
        | (t, .perm) => go (t.trap .perm m a)
        | (t, .ok l _) =>
          let d := descOf (natOfBytes (t.readLoc l 128))
          if t.poisoned l 128 then go t.consumeHere
          else if (t.descStatus g.ctx d).isSome ∨ d.drift ∨ (d.svc ∧ ¬g.svc) then go (t.trap .launchf m a)
          else if g.shadow then go (t.hashStep 0xD2 0 a []).retire
          else if 64 ≤ (t.launches.filter fun x => x.ctx == g.ctx && x.prio == d.prio).length then go t.stall
          else
            let l : Launch := { ctx := g.ctx, prio := d.prio, va := a, issuer := some s.cur, mask := m }
            go ({ (t.hashStep 0xD2 0 a []) with launches := t.launches ++ [l] } : State).stall

/-- R287: STATE and GRID are read at home; the wait ends with an acquire at domain scope. -/
def execGwait (f : VForm) (s : State) : Out :=
  let m := selV f s
  let a := aUni f s
  let g := s.G
  if m = 0 then go s.retire
  else if 2 ^ 60 ≤ a.toNat then go (s.trap .range m a)
  else if a.toNat % 128 ≠ 0 then go (s.trap .align m a)
  else
    match s.translate g.core g.ctx a .load 0 with
    | (t, .unmapped) | (t, .protect) => go (t.parkIssue a 0 0 false)
    | (t, .perm) => go (t.trap .perm m a)
    | (t, .ok l _) =>
      if t.poisoned (l.add 64) 12 then go t.consumeHere else
      let st := t.num (l.add 73) 1 % 4
      let owner := match t.grid? (t.num (l.add 64) 4) with
        | some x => (x.ctx, x.parent)
        | none => (g.ctx, t.num (l.add 68) 4)
      if st = 0 ∨ owner ≠ (g.ctx, g.grid) then go (t.trap .launchf m a)
      else if st = 1 then go t.stall
      else go (t.l1Flush g.core).retire

end Sys2Proof.Machine
end

