-- ==== Sys2Proof/Machine/Drift.lean ====
section
/-! DEFINITION. Drift mode: opcode 0xD4, creations, transfers, arrival queues and overflow rings (R33, R270, R288 to R293). -/

namespace Sys2Proof.Machine

open Sys2Proof

/-- Transfers and creations that hold an arrival entry of a core, oldest first. -/
def State.arrivals (s : State) (core : Nat) : List Xfer := s.xfers.filter fun x => x.toward == core && x.stage == .arrival

/-- Images in a core's overflow ring, oldest first. -/
def State.ringImages (s : State) (core : Nat) : List Xfer := s.xfers.filter fun x => x.toward == core && x.stage == .ring

/-- The replica of a segment that receives a workgroup's transfer (R291). -/
def State.replica (s : State) (z : Segment) (lin grid : Nat) : Nat :=
  let c := z.reps.getD ((lin ^^^ grid) % z.reps.length) 0
  let depth (k : Nat) : Nat := (s.arrivals k).length
  if 12 < depth c then z.reps.foldl (fun b k => if depth k < depth b then k else b) (z.reps.headD 0) else c

/-- Whether an earlier scratchpad access, store or window operation of a group is not yet performed at home (R270). -/
def State.leavesBehind (s : State) (g : Nat) : Bool :=
  s.mops.any fun o => (match o.owner with | .group h _ => h == g | _ => false) && o.elems.any fun e =>
    (o.scratch || o.kind != .load || e.win == 11 || e.win == 14)
      && (match e.loc with | .peer _ _ => false | _ => true)
      && (match e.stage with | .performed _ | .done => false | _ => true)

/-- The issuing split branches to the target of a JMPX that leaves its segment; whether its group still runs after it (R160, R290, R339). -/
def State.leap (s : State) (target : W64) : State × Bool :=
  let t := s.jump target
  if (t.group? s.cur.1).isNone || t.G.restarting then (t, false)
  else ((t.modS fun q => { q with sigp := sigpStep q.sigp q.mask 1 }).modG fun g => { g with jmpxAt := none }, true)

/-- The transfer of the issuing group is made ready: it continues at the target once admitted (R290). A group whose SIGB check fails at the end of
the JMPX's clause goes nowhere (R339). -/
def State.depart (s : State) (f : CForm) (z : Segment) (target : W64) : State :=
  let (t, goes) := s.leap target
  if !goes then t
  else
    let x : Xfer := { id := s.cur.1, image := { ctx := s.G.ctx }, toward := t.replica z s.G.lin s.G.grid, need := f.live.toNat + 1
                      since := s.G.jmpxAt.getD s.clk, back := some s.S }
    { (t.modS fun q => { q with wait := .drift }) with xfers := t.xfers ++ [x] }

/-- The shadow of a drift group stands on one core: a JMPX that leaves its segment branches, and keeps LIVE + 1 blocks (R290, R340; log 30). -/
def State.leapInPlace (s : State) (f : CForm) (target : W64) : State :=
  let (t, goes) := s.leap target
  if goes then t.modG fun g => { g.cutBlocks (f.live.toNat + 1) with nblk := f.live.toNat + 1 } else t

/-- JMPX (R290): a group in trap mode, divided, or not of a drift grid may not leave. -/
def execJmpx (f : CForm) (s : State) : Out :=
  let t := selC f s
  let g := s.G
  let target := targetC f s
  if t = 0 then go s.retire
  else if !g.drift || g.trapm || g.splits.length != 1 || t != s.S.mask then go (s.trap .driftf t target)
  else
    let segs := ((s.grid? g.grid).map (·.segs)).getD []
    match segs.find? fun z => inSegment z target with
    | none => go (s.trap .driftf t target)
    | some z =>
      if (if g.shadow then inSegment z s.S.pc else z.reps.contains g.core) then go (s.branch f.hint.toNat t target)
      else if g.nblk ≤ f.live.toNat then go (s.trap .regown t (BitVec.ofNat 64 (16 * g.nblk)))
      else
        match s.deliverCopy with
        | some u => go u
        | none =>
          if s.leavesBehind s.cur.1 then go (s.modG fun g => { g with jmpxAt := some (g.jmpxAt.getD s.clk) }).stall
          else if g.shadow then go (s.leapInPlace f target)
          else go (s.depart f z target)

/-- DRIFT_CREATION (R289, R340): the next workgroup of a drift grid takes an arrival entry at the replica of entry 0 chosen for it; its dispatch
steps the LFSR under SCREEN. -/
def execDriftCreation (grid : Nat) (s : State) : Out :=
  match s.grid? grid with
  | none => go s
  | some g =>
    match g.segs with
    | [] => go s
    | z :: _ =>
      let toward := s.replica z g.next g.id
      if g.total ≤ g.next ∨ ¬s.dispatches g.ctx ∨ 16 ≤ (s.arrivals toward).length then go s
      else
        let (t, screened) := (s.modGrid grid fun y => { y with next := y.next + 1 }).stepScreen g
        let p := { g.placing g.next with screened := screened }
        let image := newGroup p s.nextId (s.nextId + 1) toward 0 0
        let x : Xfer := { id := s.nextId, image := image, creation := true, toward := toward, need := p.nblk, since := s.clk, stage := .arrival }
        let u : State := { t with nextId := s.nextId + 2, xfers := s.xfers ++ [x] }
        go (if screened then u.askShadow (s.nextId + 1) toward p else u)

/-- DRIFT_ARRIVAL_ENTRY (R292): a transfer that waits at its sender takes a free entry. -/
def execDriftArrivalEntry (x : Nat) (s : State) : Out :=
  match s.xfers.find? (·.id == x) with
  | none => go s
  | some q =>
    if q.stage ≠ .sender ∨ 16 ≤ (s.arrivals q.toward).length then go s
    else go { s with xfers := (s.xfers.filter (·.id != x)) ++ [{ q with stage := .arrival }] }

/-- What a core admits next: from its arrival queue and its overflow ring alternately when both hold an image (R293). Under PREEMPT no creation
of the context is admitted (R38). -/
def State.nextAdmission (s : State) (core : Nat) : Option Xfer :=
  match (s.arrivals core).filter fun x => !x.creation || s.dispatches x.image.ctx, s.ringImages core with
  | a :: _, r :: _ => some (if SMap.get false s.ringLast core then a else r)
  | a :: _, [] => some a
  | [], r :: _ => some r
  | [], [] => none

/-- A group as it stands on the core that admits it (R292). -/
def admitted (g : Group) (core slot need order : Nat) : Group :=
  { (g.cutBlocks need).mapSplits (fun p => if p.wait = .drift then { p with wait := .none } else p) with
    core := core, slot := slot, nblk := need, active := false, order := order }

/-- The limit of a group's watchdog (R322). -/
def Group.limit (g : Group) : Nat := if g.wdlim = 0 then 2 ^ 40 else g.wdlim.toNat

/-- The image takes its slot, its accesses in flight go with it (R270), and the acquire of R292 is made (R289, R292); a group whose watchdog reached its limit on the way takes WDOG (R321). -/
def State.admitXfer (s : State) (x : Xfer) (slot : Nat) : State :=
  let image := if x.creation ∨ x.stage = .ring then x.image else s.grp x.id
  let image := if x.creation then s.forContext image else image
  let g := admitted image x.toward slot x.need s.tick
  let home : Workgroup := { id := image.wg, grid := image.grid, ctx := image.ctx, core := x.toward, live := 1, lin := image.lin
                            code := (s.grid? image.grid).bind (·.code) }
  let wgs := if x.creation then s.wgs ++ [home]
    else s.wgs.map fun w => if w.id = g.wg then { w with core := x.toward } else w
  let moved (o : MemOp) : MemOp := match o.owner with
    | .group h _ => if h = g.gid then { o with core := x.toward } else o
    | _ => o
  let t : State := { s with
    xfers := s.xfers.filter (·.id != x.id), groups := (s.groups.filter (·.gid != image.gid)) ++ [g], wgs := wgs
    ringLast := SMap.set false s.ringLast x.toward (x.stage == .ring)
    mops := s.mops.map moved }
  let t := t.l1Flush x.toward
  let t := match x.room with | some f => t.freeFrames (.mem (f * 0x10000)) | none => t
  match (sortOn (·.idx) g.splits).head? with
  | some p =>
    if x.creation ∨ g.wdog < g.limit then t
    else ((t.bump 0x51 0).modGroup g.gid fun y => { y with wdog := 0 }).trapGroup g.gid
      { split := p.idx, cause := .wdog, pc := p.pc, mask := p.mask }
  | none => t

/-- DRIFT_ADMISSION (R292): into a free slot, chosen freely, with enough free register blocks. -/
def execDriftAdmission (core : Nat) (s : State) : Out :=
  match s.nextAdmission core with
  | none => go s
  | some x =>
    let slots := s.freeSlots core
    if slots.isEmpty ∨ Config.blocks < s.blocksUsed core + x.need then go s
    else go (s.admitXfer x (slots.getD (Config.choose s.tick 6100 % slots.length) 0))

/-- Room of a core's overflow ring, in images: what it holds at first is unspecified (R293). -/
def State.overflowRoom (s : State) (core : Nat) : Nat :=
  (Config.free64 0 (6000 + core)).toNat % 65536 + SMap.get 0 s.overflowCap core

/-- Bytes of a spilled image: 2 KiB of opaque state, and 4 KiB for each block (R293). -/
abbrev imageBytes (need : Nat) : Nat := 2048 + 4096 * need

/-- The image goes to the overflow ring in HBM, into frames of the firmware that no page names; the sender's slot and the arrival entry are free
(R198, R293). How the image is coded is not given: its bytes are unspecified (log 108). Without free frames the ring has no room. -/
def State.spillXfer (s : State) (x : Xfer) : State :=
  match s.allocFrames 0 (if imageBytes x.need ≤ 0x10000 then 1 else 2) with
  | none => s
  | some (t, f) =>
    let g := s.grp x.id
    let image := { g.cutBlocks x.need with nblk := x.need, active := false }
    let bytes := (List.range (imageBytes x.need)).map fun i => (Config.free64 s.tick (50000 + i)).setWidth 8
    { t with
      groups := t.groups.filter (·.gid != x.id)
      mem := t.mem.fill (f * 0x10000) bytes
      xfers := (t.xfers.filter (·.id != x.id)) ++ [{ x with image := image, stage := .ring, overflow := false, room := some f, back := none }] }

/-- DRIFT_SPILL (R293): a transfer not admitted within 4,096 clocks of its JMPX spills; one that finds the ring full raises DRIFTOVF and waits. -/
def execDriftSpill (x : Nat) (s : State) : Out :=
  match s.xfers.find? (·.id == x) with
  | none => go s
  | some q =>
    if q.creation ∨ q.stage = .ring ∨ (s.clk - q.since).toNat < 4096 ∨ (s.group? x).isNone then go s
    else if (s.ringImages q.toward).length < s.overflowRoom q.toward then go (s.spillXfer q)
    else if q.overflow then go s
    else
      let g := s.grp x
      let t : State := { s with xfers := s.xfers.map fun y => if y.id = x then { y with overflow := true } else y }
      go (t.post { type := 3, ctx := g.ctx, core := q.toward, slot := g.slot })

/-- OVERFLOW_RING_GROW (R293): firmware makes room for the transfers that wait, and their spills complete. -/
def execOverflowRingGrow (core : Nat) (s : State) : Out :=
  let waiting := s.xfers.filter fun x => x.toward == core && x.overflow && x.stage != .ring
  let t : State := { s with overflowCap := SMap.set 0 s.overflowCap core (SMap.get 0 s.overflowCap core + waiting.length) }
  go (waiting.foldl State.spillXfer t)

end Sys2Proof.Machine
end

