-- ==== Sys2Proof/Machine/Units.lean ====
section
/-! DEFINITION. Starting a clause, swap events, the watchdog, the end of groups, workgroups and grids, screening and scrubbing (R22 to R24, R52, R276 to R282, R294, R321, R330, R341, R347). -/

namespace Sys2Proof.Machine

open Sys2Proof

/-! ### CLAUSE_ISSUE (R48 to R56) -/

/-- Whether a split may start a clause, its path waits and its turn apart (R48, R153, R158, R277, R326, R331, R337). A group that a swap event has
named starts none until it has left, but where a sibling waits in mid-clause (R279). -/
def State.mayClause (s : State) (g : Group) (p : Split) : Bool :=
  g.splits.any (·.idx == p.idx) && p.left == 0 && p.wait == .none && p.bars.isEmpty && p.claim.isNone && g.active && !g.ended && !g.restarting
    && (!g.leaving || g.splits.any fun q => q.left != 0 && q.wait != .none)
    && (g.pending.isEmpty || g.saved.isSome) && g.saved.all (·.trapper == p.idx) && (s.wgOf g.wg).claims.all (·.1 != g.gid)

/-- Whether a split's next clause is issuable: it may start, its path waits are met, and no sibling that the branch's hint puts before it could
start too (R40, R52, R148). -/
def State.issuable (s : State) (g : Group) (p : Split) : Bool :=
  let free (q : Split) : Bool := s.mayClause g q && pathsMet g (s.peekHeader g q)
  free p && p.after.all fun i => !(g.splits.any fun q => q.idx == i && free q)

/-- The pipe class that serves a clause: 0 the vector pipes, 1 the memory pipe, 2 the scalar/control pipe (R277). -/
def pipeClass (h : W64) : Nat := if bitAt h 63 then 0 else if bitAt h 62 then 1 else 2

/-- The issuable splits of a core whose next clause a pipe class serves, with the step of each one's last clause start. -/
def State.readyFor (s : State) (core cls : Nat) : List (Nat × Nat × Nat) :=
  ((s.groups.filter (·.core == core)).map fun g =>
    (g.splits.filter fun p => s.issuable g p && pipeClass (s.peekHeader g p) == cls).map fun p => (g.gid, p.idx, p.started)).flatten

/-- The splits that may start the next clause on a pipe of a class: those that started one least recently (R40, R277). -/
def State.firstFor (s : State) (core cls : Nat) : List (Nat × Nat) :=
  let all := s.readyFor core cls
  (all.filter fun x => all.all fun y => decide (x.2.2 ≤ y.2.2)).map fun x => (x.1, x.2.1)

/-- A trap at the clause header of the issuing split: SR_TPC and SR_TADDR hold its address (R56, R294). -/
def State.headerTrap (s : State) (c : Cause) : State := s.trap c s.S.mask s.S.pc

/-- The words of a code block as a fetch takes them, by byte offset in the block (R49, R57). -/
def State.codeBlock (s : State) (g : Group) (va : W64) (l : Loc) (off : Nat) : W64 :=
  let back := va.toNat % 256
  let at' : Loc := match l with
    | .mem a => .mem (a - back + off)
    | .peer p a => .peer p (a - back + off)
    | .host a => .host (a - back + off)
    | .cmd a => .cmd (a - back + off)
    | .spm c a => .spm c (a - back + off)
  s.codeWord g (va - BitVec.ofNat 64 back + BitVec.ofNat 64 off) at'

/-- Words of an instruction store (R5). -/
abbrev istoreWords : Nat := 32768

/-- Whether a word belongs to a clause in progress on its core. -/
def State.inClause (s : State) (e : Nat × Nat × Nat × Nat × W64) : Bool :=
  s.groups.any fun g => g.core == e.1 && g.ctx == e.2.1 && g.grid == e.2.2.1 && g.splits.any fun p =>
    p.left != 0 && decide (p.hdrPc.toNat ≤ e.2.2.2.1) && decide (e.2.2.2.1 < p.hdrPc.toNat + 144)

/-- The instruction stores, bounded: past 256 KiB a core's oldest words leave, but none of a pinned segment or of a clause in progress (R5, R289).
The spec gives no order of replacement (log 97). -/
def State.boundStore (s : State) (core : Nat) : State :=
  let mine := s.istore.filter (·.1 == core)
  if mine.length ≤ istoreWords then s
  else
    let (kept, rest) := mine.partition fun e => s.pinnedWord e || s.inClause e
    { s with istore := kept ++ rest.take (istoreWords - kept.length) ++ s.istore.filter (·.1 != core) }

/-- The words of the clause are in the instruction store (R57). -/
def State.keepWords (s : State) (g : Group) (va : W64) (w : Nat → W64) (n : Nat) : State :=
  let off := va.toNat % 256
  let entry (i : Nat) : Nat × Nat × Nat × Nat × W64 := (g.core, g.ctx, g.grid, va.toNat + 8 * i, w (off + 8 * i))
  let new := (List.range (n + 2)).map entry
  ({ s with istore := new ++ s.istore.filter fun e => !(new.any fun x => x.1 == e.1 && x.2.1 == e.2.1 && x.2.2.1 == e.2.2.1 && x.2.2.2.1 == e.2.2.2.1) } : State).boundStore g.core

/-- The clause at the pc of the issuing split, whose code block's words are given, starts: its header is checked, pending faults are delivered, its
words are fetched (R52, R56, R220, R244); t is the state once its address is translated. -/
def State.beginClause (s t : State) (l : Loc) (w : Nat → W64) : State :=
  let g := s.G
  let p := s.S
  let off := p.pc.toNat % 256
  if clauseBad w off then t.headerTrap .illcls
  else
    let h := w off
    let n := fldN h 56 4
    if t.poisoned l (8 * (n + 2)) then t.consumeUE s.cur.1 .ue p.pc
    else if !pathsMet g h then s
    else
      match (if bitAt h 53 then t.deliverCopy else none).or (if bitAt h 54 then t.deliverLathe else none) with
      | some u => u
      | none =>
        let u := (t.keepWords g p.pc w n).perf g.core 2
        u.modG fun x =>
          let y := x.everySplit fun q => if q.after = some s.cur.2 then { q with after := none } else q
          { (y.modSplit s.cur.2 fun q =>
              { q with pc := q.pc + 8, hdrPc := p.pc, hdr := h, left := n + 1, old := [], yielded := false, after := none, started := s.tick + 1 }) with
            latch := x.latch.filter fun e => e.1 / 256 != s.cur.2 }

/-- A fetch from a peer completes with a status, and its words are unspecified (R345). -/
def State.fetchFails (s : State) (peer stat : Nat) (l : Loc) : State :=
  let t := s.modG fun g => g.recordFailure peer stat s.S.pc
  t.beginClause t l fun off => Config.free64 s.tick (3600 + off)

/-- The peer from whose memory a location is fetched. -/
def State.fetchPeer (s : State) (l : Loc) : Option Nat := match s.selfLoc l with | .peer p _ => some p | _ => none

/-- The clause at the pc of the issuing split starts, unless its fetch faults or parks (R52, R56, R294, R303, R330, R345). -/
def State.startClause (s : State) : State :=
  let g := s.G
  let p := s.S
  if g.badTask then s.headerTrap .illcls
  else if s.outsideSegment g p.pc then s.headerTrap .driftf
  else
    match g.lateDue with
    | some va => (s.modG fun x => { x with lateDue := none }).trap .late p.mask va
    | none =>
      match s.fetchLoc g p.pc with
      | (t, .fault c) => t.headerTrap c
      | (t, .parks) =>
        (t.postFault (clusterOf g.core) g.ctx p.pc 3 0 0 g.core g.slot false).setWait s.cur.1 s.cur.2 (.fetch p.pc)
      | (t, .ok l) =>
        match (t.fetchPeer l).map fun d => (d, SMap.get .absent t.peers d) with
        | some (d, .recovering) => t.setWait s.cur.1 s.cur.2 (.remote d s.clk)
        | some (d, .fenced) | some (d, .absent) => t.fetchFails d 2 l
        | _ => s.beginClause t l (t.codeBlock g p.pc l)

/-- CLAUSE_ISSUE (R52): a clause whose path waits are met starts issue on a free pipe. -/
def execClauseIssue (g sp : Nat) (s : State) : Out :=
  match s.groups.find? (·.gid == g) with
  | none => go s
  | some x =>
    if !s.mayClause x (x.split sp) then go s
    else go { s with cur := (g, sp) }.startClause

/-! ### SWAP_EVENT (R279) -/

/-- SWAP_EVENT: the k active groups admitted longest ago leave at their next clause boundary; the oldest ready pending groups take their positions. -/
def execSwapEvent (core : Nat) (s : State) : Out :=
  let ready := s.readyGroups core
  if ready.isEmpty ∨ s.clk.toNat < SMap.get 0 s.lastSwap core + 256 then go s
  else
    let k := min 8 ready.length
    let out := ((sortOn (·.order) (s.groups.filter fun g => g.core == core && g.active)).take k).map (·.gid)
    let t : State := { s with
      lastSwap := SMap.set 0 s.lastSwap core s.clk.toNat
      groups := s.groups.map fun g => if out.contains g.gid then { g with leaving := true } else g }
    go ((t.perf core 9).reschedule)

/-! ### The watchdog (R321, R322) -/

/-- Whether a split waits (R321). -/
def State.waits (s : State) (g : Group) (p : Split) : Bool :=
  (match p.wait with
    | .none => p.left == 0 && (!p.bars.isEmpty || p.claim.isSome || !(s.wgOf g.wg).claims.all (·.1 != g.gid) || !pathsMet g (s.peekHeader g p))
    | .trapped => false
    | _ => true)

/-- Accesses of a group still parked in a waiter table are withdrawn, and count as complete (R202, R321). -/
def State.withdraw (s : State) (g : Nat) : State :=
  let parked (e : Elem) : Bool := match e.stage with | .waiting _ => true | _ => false
  let mine := s.mops.filter fun o => (match o.owner with | .group h _ => h == g | _ => false) && o.elems.any parked
  mine.foldl (fun t o =>
    let u := t.modOp o.id fun q => { q with elems := q.elems.map fun e => if parked e then { e with stage := .withdrawn } else e }
    match u.mop? o.id with
    | none => u
    | some q =>
      let past := q.paths.filter fun p => q.elems.all fun e => Elem.path q e != p || e.stage == .withdrawn || e.stage == .done
      u.modGroup g fun x => past.foldl (fun x p => x.finish o.id p) x) s

/-- The instruction at which a split waits for its lanes is given up: TRET.RPL issues it again (R202, R321). -/
def State.giveUp (s : State) (id : Nat) : State :=
  let parked (e : Elem) : Bool := match e.stage with | .waiting _ | .pageFault | .writeProtect | .remoteWait | .withdrawn => true | _ => false
  (s.modOp id fun o => { o with hold := false, faults := [], elems := o.elems.map fun e => if parked e then { e with stage := .done } else e }).retireOp id

/-- A split's arrival at its join record is withdrawn, and its JOIN is to be issued again (R321). -/
def Group.unjoin (g : Group) (i : Nat) (before : W16) : Group :=
  let p := g.split i
  let undo : StackEntry → StackEntry
    | .joinRec x e q acc w k past =>
      if w.contains i then .joinRec x e (q &&& ~~~p.mask) (acc ^^^ p.sigp) (w.filter (· != i)) k past else .joinRec x e q acc w k past
    | d => d
  { g.modSplit i fun q => { q with wait := .none, pc := q.pc - 8, left := 1, sigb := before } with stack := g.stack.map undo }

/-- The group as WDOG finds it for a split: what the split waits for is given up (R321). A transfer not yet spilled is withdrawn at its sender, and
the JMPX is to be issued again (log 109). -/
def State.quitWait (s : State) (g : Nat) (p : Split) : State :=
  let idle (t : State) : State := t.setWait g p.idx .none
  match p.wait with
  | .memop id => idle (s.giveUp id)
  | .join before => s.modGroup g fun x => x.unjoin p.idx before
  | .none =>
    match p.claim with
    | some (pc, left, sigb) =>
      (s.modGroup g fun x => x.modSplit p.idx fun q => { q with pc := pc, left := left, sigb := sigb, claim := none }).modWg (s.grp g).wg fun w =>
        { w with claims := w.claims.filter (·.1 != g) }
    | none => s
  | .stall => idle { s with launches := s.launches.filter (·.issuer != some (g, p.idx)) }
  | .drift =>
    match (s.xfers.find? (·.id == g)).bind (·.back) with
    | some q => { s.modGroup g fun x => x.modSplit p.idx fun _ => { q with wait := .none } with xfers := s.xfers.filter (·.id != g) }
    | none => idle s
  | _ => idle s

/-- WATCHDOG_EXPIRY (R321): the lowest-numbered split that waits takes WDOG; in trap mode it is a double fault. -/
def execWatchdogExpiry (g : Nat) (s : State) : Out :=
  match s.groups.find? (·.gid == g) with
  | none => go s
  | some x =>
    if x.ended ∨ x.wdog < x.limit then go s
    else
      match (sortOn (·.idx) (x.splits.filter (s.waits x))).head? with
      | none => go s
      | some p =>
        let t := ((s.bump 0x51 0).quitWait g p).withdraw g
        let t := t.modGroup g fun y => { y with wdog := 0 }
        if x.saved.isSome then go (t.fatalContext g Cause.wdog.code ((t.grp g).split p.idx).pc)
        else go (t.trapGroup g { split := p.idx, cause := .wdog, pc := ((t.grp g).split p.idx).pc, mask := p.mask })

/-! ### The end of a group (R22 to R24) -/

/-- An 8-byte field of a successor counter as its home reads it, each half translated by itself (R282, R408). -/
def State.counterField (s : State) (ctx : Nat) (va : W64) : Option W64 :=
  match s.deviceLoc ctx va, s.deviceLoc ctx (va + 4) with
  | some l, some h => some (BitVec.ofNat 64 (s.num l.1 4 + s.num h.1 4 * 2 ^ 32))
  | _, _ => none

/-- A successor counter's enqueue (R24, R282): a queue address of 0 names the task queue of the group's cluster at the record's priority. -/
def State.enqueueSuccessor (s : State) (ctx cluster : Nat) (succ : W64) : State :=
  let lost (a : W64) : State := s.post { type := 6, ctx := ctx, addr := a }
  match s.counterField ctx (succ + 8), s.counterField ctx (succ + 16) with
  | none, _ => lost (succ + 8)
  | _, none => lost (succ + 16)
  | some rec', some queue =>
    let q : Option Loc :=
      if queue = 0 then (s.deviceRead ctx rec' 64).bind fun r => s.taskQueueLoc ctx cluster (recN r 224 2)
      else (s.deviceLoc ctx queue).map (·.1)
    match q with
    | none => lost queue
    | some l => s.postSuccessor { ctx := ctx, cluster := cluster, record := rec', queue := some (l, queue) } l queue

/-- A task group that has ended adds −1 to its successor counter (R24, R282, R408). Where the counter lies at a peer its home there makes the add,
and the enqueue is its own (log 84). -/
def State.addSuccessor (s : State) (g : Group) : State :=
  if g.succ = 0 then s
  else
    match s.deviceLoc g.ctx g.succ with
    | none => s.post { type := 6, ctx := g.ctx, addr := g.succ }
    | some (l, _) =>
      if g.succ.toNat % 4 ≠ 0 then s.post { type := 6, ctx := g.ctx, addr := g.succ }
      else
        let r := s.deviceAdd g.ctx l 0xFFFFFFFF
        if r.2 then r.1.enqueueSuccessor g.ctx (clusterOf g.core) g.succ else r.1

/-- Everything that a group still had in progress is discarded, but for its posted stores (R22, R332): of its copies, Lathe operations, queries and
token operations the spec does not say (log 98). It has arrived at the team operations that it has issued, and supplies no rows (R234). -/
def State.dropGroupWork (s : State) (g : Nat) : State :=
  { s with
    mops := s.orphans (· == g) true
    copies := s.copies.filter (·.gid != g)
    lathe := (s.lathe.filter fun o => o.kind.team || o.gid != g).map fun o =>
      { o with members := o.members.map fun a => if a.gid = g then { a with mask := 0 } else a }
    rings := s.rings.filter (·.owner != g)
    queries := s.queries.filter (·.gid != g)
    tokOps := s.tokOps.filter (·.gid != g)
    xfers := s.xfers.filter (·.id != g)
    launches := s.launches.filter fun l => l.issuer.all (·.1 != g)
    wgs := s.wgs.map fun w => { w with claims := w.claims.filter (·.1 != g) } }

/-- A comparison of a screened workgroup: its shadow's first raises counter 0x20, and the first that fails 0x21, with the event (R323, R341; log 28). -/
def State.noteScreen (s : State) (g : Group) (wg : Nat) (good : Bool) : State :=
  let old := s.screens.find? (·.1 == wg)
  let t := if old.isSome then s else s.bump 0x20 0
  let t : State := { t with screens := (wg, !good || old.any (·.2)) :: t.screens.filter (·.1 != wg) }
  if good || old.any (·.2) then t
  else (t.bump 0x21 0).post { type := 7, ctx := g.ctx, core := g.core, slot := g.slot, addr := BitVec.ofNat 64 g.lin }

/-- A screened group has ended: its pair is kept, or compared with that of the other side (R341); after what R342 forbids, a comparison is an
unspecified choice of match and mismatch. -/
def State.compareScreen (s : State) (g : Group) : State :=
  if !g.screened then s
  else
    let wg := if g.shadow then ((s.wgOf g.wg).shadowOf).getD 0 else g.wg
    let mine : ScreenEnd := { wg := wg, shadow := g.shadow, ginwg := g.ginwg, hash := g.hash, sigp := g.endSigp, bad := g.trapped || g.fatal
                              strays := !g.shadow && (s.wgOf g.wg).strays }
    match s.screenEnds.find? fun e => e.wg == wg && e.ginwg == g.ginwg && e.shadow != g.shadow with
    | none => { s with screenEnds := s.screenEnds ++ [mine] }
    | some e =>
      let t : State := { s with screenEnds := s.screenEnds.erase e }
      let same : Bool := if mine.strays || e.strays then Config.choose s.tick (8900 + g.gid) % 2 == 1 else e.hash == mine.hash && e.sigp == mine.sigp
      t.noteScreen g wg (same && !(if g.shadow then mine.bad else e.bad))

/-- A grid retires: STATE becomes 2, its completion counter rises, its command completes, its cores are unpinned (R23, R276, R289). -/
def State.retireGrid (s : State) (g : Grid) : State :=
  let t := s.setGridState g 2
  let c := g.desc.compl
  let t := if c = 0 then t else
    match t.deviceLoc g.ctx c with
    | some (l, _) => if c.toNat % 4 = 0 then (t.deviceAdd g.ctx l 1).1 else t.post { type := 0x0E, ctx := g.ctx, addr := c }
    | none => t.post { type := 0x0E, ctx := g.ctx, addr := c }
  { t.completeCmd g.cmd 0 with grids := t.grids.filter (·.id != g.id), segid := t.segid.filter fun e => e.2.2 != g.id }

/-- Whether a grid retires now (R23, R29). -/
def State.retires (s : State) (g : Grid) : Bool := g.ended == g.total && g.next == g.total && !s.grids.any (·.parent == g.id)

/-- Every grid that may retire does; a parent may follow its last child. -/
def State.retireGrids : Nat → State → State
  | 0, s => s
  | n + 1, s =>
    match s.grids.find? s.retires with
    | some g => State.retireGrids n (s.retireGrid g)
    | none => s

/-- A workgroup's last group has ended: what it held returns to the core (R23, R233). -/
def State.endWg (s : State) (w : Workgroup) : State :=
  let t : State := { s with wgs := s.wgs.filter (·.id != w.id), bands := s.bands.filter (·.2 != w.id)
                            collectors := s.collectors.filter (·.wg != w.id) }
  let pair := w.shadowOf.getD w.id
  let t : State := if t.wgs.any fun x => x.id == pair || x.shadowOf == some pair then t
    else { t with screens := t.screens.filter (·.1 != pair) }
  let t := if w.shadowOf.isSome then { t with handouts := t.handouts.filter fun h => some h.1 != w.shadowOf }
    else t.modGrid w.grid fun x => { x with ended := x.ended + 1 }
  State.retireGrids t.grids.length t

/-- A group frees its slot (R22, R23, R24, R195, R341). -/
def State.freeGroup (s : State) (g : Group) : State :=
  let t := s.dropGroupWork g.gid
  let t := if g.task = 0 then t else
    let u := if g.evc = 0 then t else t.endEvals g.task g.evc
    if g.fatal || g.shadow then u else u.addSuccessor g
  let t := (t.compareScreen g).modWg g.wg fun w => { w with live := w.live - 1, spent := w.spent + g.nblk + g.owed }
  let t : State := { t with groups := t.groups.filter (·.gid != g.gid) }
  let w := t.wgOf g.wg
  if w.live = 0 then t.endWg w else t

/-- GROUP_END (R22): the slot is freed when every path counter is zero; a failed acknowledgement makes the EXIT raise RMTFLT. -/
def execGroupEnd (g : Nat) (s : State) : Out :=
  match s.groups.find? (·.gid == g) with
  | none => go s
  | some x =>
    if !x.ended || !(x.fatal || x.inflight.isEmpty) then go s
    else
      match x.lastSplit with
      | some p =>
        if !x.fatal && bitAt x.rflt 0 && fldN p.ir 56 8 == 0x86 then
          let t := s.modGroup g fun y =>
            { y with ended := false, lastSplit := none, splits := [{ p with wait := .none }], endSigp := y.endSigp ^^^ p.sigp }
          go (t.trapGroup g { split := p.idx, cause := .rmtflt, pc := p.pc, mask := p.mask })
        else go (s.freeGroup x)
      | none => go (s.freeGroup x)

/-! ### SCRUB_VISIT (R347) -/

/-- A row of a slice enters or stays in the history with its clean visits reset; a full table loses the row used longest ago (R316, R347). -/
def State.noteRow (s : State) (slice row : Nat) : State :=
  let is (h : History) : Bool := h.slice == slice && h.row == row
  let old := s.history.find? is
  let rest := s.history.filter fun h => !is h
  let new : History := { slice := slice, row := row, corrections := (old.map (·.corrections + 1)).getD 1, seen := SMap.get 0 s.patrol slice }
  if old.isNone && decide (4096 ≤ (rest.filter (·.slice == slice)).length) then
    let gone := rest.find? (·.slice == slice)
    { s.bump 0x13 slice with history := (rest.filter fun h => some h != gone) ++ [new] }
  else { s with history := rest ++ [new] }

/-- Rows of HBM that a slice patrols. The spec gives no size of a row: one is taken to be a line (log 110). -/
abbrev patrolRows : Nat := Config.hbmBytes / 8192

/-- The k-th row of a slice's range in address order: of the 64 lines of an aligned run, the one that the slice homes (R188, R347). -/
def patrolRow (slice k : Nat) : Nat :=
  let base := k % patrolRows * 8192
  base + 128 * (((List.range 64).find? fun i => sliceOf (base + 128 * i) == slice).getD 0)

/-- Whether a listed row has its turn: sixteen times in a patrol of its slice, where history weighting is set (R347, R379; log 110). -/
def State.rowDue (s : State) (h : History) : Bool :=
  s.scrubWeighted && decide (patrolRows / 16 ≤ SMap.get 0 s.patrol h.slice - h.seen)

/-- Whether a slice's patrol visits a row next: a listed row whose turn it is, or the next in address order where there is none (R347). -/
def State.patrols (s : State) (slice row : Nat) : Bool :=
  let due := s.history.filter fun h => h.slice == slice && s.rowDue h
  if due.isEmpty then row == patrolRow slice (SMap.get 0 s.patrol slice) else due.any (·.row == row)

/-- A visit of a row is over: the patrol goes on in address order, but for a visit of a listed row out of it (R347). -/
def State.stepPatrol (s : State) (slice row : Nat) : State :=
  let n := SMap.get 0 s.patrol slice
  let k := if row = patrolRow slice n then n + 1 else n
  { s with patrol := SMap.set 0 s.patrol slice k
           history := s.history.map fun h => if h.slice = slice ∧ h.row = row then { h with seen := k } else h }

/-- What a visit of a row does by what it finds (R347). -/
def State.visitRow (s : State) (slice row : Nat) : ScrubFound → State
  | .corrected => (s.bump 0x11 slice).noteRow slice row
  | .uncorrectable words =>
    ((words.foldl (fun t off => t.addPoison (.mem ((row + off) / 8 * 8)) 8) s).bump 0x12 slice).post { type := 8, addr := BitVec.ofNat 64 row }
  | .clean =>
    { s with history := (s.history.map fun h =>
        if h.slice = slice ∧ h.row = row then { h with cleanVisits := h.cleanVisits + 1 } else h).filter fun h => decide (h.cleanVisits < 8) }

/-- SCRUB_VISIT (R347): the slice's patrol visits the row that is next; a row is named by the local address of its first byte. -/
def execScrubVisit (slice row : Nat) (found : ScrubFound) (s : State) : Out :=
  if s.patrols slice row then go (((s.bump 0x10 slice).visitRow slice row found).stepPatrol slice row) else go s

end Sys2Proof.Machine
end

