-- ==== Sys2Proof/Machine/Fabric.lean ====
section
/-! DEFINITION. The Deljo fabric: links, flits, width, locks and SPDM of the ports, packets of peers and their answers, states of devices (R344 to R346, R352 to R370). -/

namespace Sys2Proof.Machine

open Sys2Proof

/-- A port by its number; an absent one is down. -/
def State.port (s : State) (n : Nat) : Port := (s.ports[n]?).getD {}

/-- The state with one port changed. -/
def State.modPort (s : State) (n : Nat) (f : Port → Port) : State := { s with ports := s.ports.modify n f }

/-! ### Packets as flits (R360, R362) -/

/-- Whether a type is that of a reply. -/
def isReply (t : BitVec 6) : Bool := t == 0x20 || t == 0x21

/-- Whether a packet of a type carries data flits. -/
def carriesData (t : BitVec 6) : Bool := t == 2 || t == 3 || t == 0x20 || t == 0x28 || (decide (0x10 ≤ t.toNat) && decide (t.toNat ≤ 0x1C))

/-- Byte enables of the 32 bytes of data flit j; a CAS packet places both halves at the byte positions of its half-line (R362). -/
def flitEnables (type : BitVec 6) (be : BitVec 128) (j : Nat) : Nat :=
  if type = 0x1A then fldN be (32 * (j % 2)) 32 ||| fldN be (64 + 32 * (j % 2)) 32 else fldN be (32 * j) 32

/-- The data flits of a packet, by their place in the line. -/
def dataFlits (p : Packet) : List Nat :=
  if carriesData p.type then (List.range 4).filter fun j => flitEnables p.type p.be j != 0 else []

/-- The header flit of a packet (R360). -/
def headerFlit (p : Packet) : BitVec 256 :=
  let low := p.type.toNat + (dataFlits p).length * 2 ^ 6 + p.src.toNat * 2 ^ 9 + p.dst.toNat * 2 ^ 18 + p.ctx.toNat * 2 ^ 28 + p.tag.toNat * 2 ^ 44
  let mid := if isReply p.type then p.stat.toNat * 2 ^ 55
    else p.win.toNat * 2 ^ 55 + p.sz.toNat * 2 ^ 59 + p.ord.toNat * 2 ^ 62 + p.scope.toNat * 2 ^ 64
  BitVec.ofNat 256 (low + mid + p.budget.toNat * 2 ^ 67 + p.line.toNat * 2 ^ 83 + p.be.toNat * 2 ^ 128)

/-- The flits of a packet: its header, then the data flits in ascending place (R360). -/
def packetFlits (p : Packet) : List (BitVec 256) :=
  headerFlit p :: (dataFlits p).map fun j => BitVec.ofNat 256 (natOfBytes ((p.data.drop (32 * j)).take 32))

/-- The packet that a header flit begins, its data aside. -/
def headerPacket (port : Nat) (h : BitVec 256) : Packet :=
  let n (lo len : Nat) : Nat := fldN h lo len
  let type := BitVec.ofNat 6 (n 0 6)
  { type := type, src := BitVec.ofNat 9 (n 9 9), dst := BitVec.ofNat 10 (n 18 10), ctx := BitVec.ofNat 16 (n 28 16), tag := BitVec.ofNat 11 (n 44 11)
    win := BitVec.ofNat 4 (if isReply type then 0 else n 55 4), sz := BitVec.ofNat 3 (if isReply type then 0 else n 59 3)
    ord := BitVec.ofNat 2 (if isReply type then 0 else n 62 2), scope := BitVec.ofNat 3 (if isReply type then 0 else n 64 3)
    stat := BitVec.ofNat 6 (if isReply type then n 55 6 else 0), budget := BitVec.ofNat 16 (n 67 16), line := BitVec.ofNat 45 (n 83 45)
    be := BitVec.ofNat 128 (n 128 128), port := port }

/-- A line with the bytes of the data flits at their places. -/
def placeFlits : List Nat → List (BitVec 256) → List Byte → List Byte
  | j :: js, f :: fs, ln => placeFlits js fs (ln.take (32 * j) ++ bytesOf 32 f ++ ln.drop (32 * j + 32))
  | _, _, ln => ln

/-- The first whole packet of the payloads that a port has accepted, and the payloads after it. -/
def parsePacket (port : Nat) : List (BitVec 256) → Option (Packet × List (BitVec 256))
  | [] => none
  | h :: fs =>
    let n := fldN h 6 3
    if fs.length < n then none
    else
      let p := headerPacket port h
      let odd : Bool := (dataFlits p).length != n || (isReply p.type && fldN h 61 6 != 0)
      some ({ p with bad := odd, data := placeFlits (if (dataFlits p).length = n then dataFlits p else List.range n) (fs.take n) (List.replicate 128 0) }, fs.drop n)

/-! ### Frames (R369) -/

/-- A payload as it is encrypted, or decrypted, in its place in a frame. -/
def cipher (key : W64) (iv : BitVec 96) (k : Nat) (x : BitVec 256) : BitVec 256 := x ^^^ Config.keystream key iv k

/-- The payload of a tag flit: the tag, then the flits of its frame (log 20). -/
def tagFlit (tag : BitVec 128) (n : Nat) : BitVec 256 := BitVec.ofNat 256 (tag.toNat + n * 2 ^ 128)

/-- The flits of a frame, its tag flit last. -/
def frameFlits (key : W64) (iv : BitVec 96) (xs : List (BitVec 256)) : List (BitVec 256 × Bool) :=
  let ct := xs.zipIdx.map fun x => cipher key iv x.2 x.1
  ct.map (fun x => (x, false)) ++ [(tagFlit (Config.tagOf key iv ct) ct.length, true)]

/-- Payloads wait for their turn in frames of up to 16 flits; after 2^32 frames the key changes. -/
def Port.frameUp (p : Port) : Nat → List (BitVec 256) → Port
  | 0, _ => p
  | n + 1, xs =>
    if xs.isEmpty then p
    else
      let q := if 2 ^ 32 ≤ p.iv.toNat then { p with txKey := Config.nextKey p.txKey, iv := 0 } else p
      Port.frameUp { q with outq := q.outq ++ frameFlits q.txKey q.iv (xs.take 16), iv := q.iv + 1 } n (xs.drop 16)

/-! ### Replay buffers (R357, R358) -/

/-- The CRC of a flit: CRC-32C over its payload and its number (R357). -/
def flitCrc (payload : BitVec 256) (sq : Byte) : W32 := crc32c (bytesOf 32 payload ++ [sq])

/-- Whether a flit's CRC is right (R357). -/
def flitGood (f : Flit) : Bool := f.crc == flitCrc f.payload f.sq

/-- Flits that wait enter the replay buffer as it has room, and are put on the lanes. -/
def Port.fill (p : Port) : Nat → Port
  | 0 => p
  | n + 1 =>
    match p.outq with
    | [] => p
    | x :: xs =>
      if 256 ≤ p.replay.length || p.retraining || !p.up then p
      else
        let f : Flit := { sq := p.txSeq, payload := x.1, crc := flitCrc x.1 p.txSeq, tag := x.2 }
        Port.fill { p with outq := xs, replay := p.replay ++ [f], wire := p.wire ++ [f], txSeq := p.txSeq + 1 } n

/-- A port narrowed for want of traffic returns to two lanes, with traffic or in another operating point (R385, R386). -/
def State.widen (s : State) (n : Nat) : State :=
  let p := s.port n
  if p.idleNarrow && p.lane0 && p.lane1 then
    (s.modPort n fun p => { p with width := 2, idleNarrow := false, retraining := true }).bump 0x32 n
  else s

/-- Packets sent in one step are handed to their port in frames of up to 16 flits (R369). -/
def State.emit (s : State) (n : Nat) (qs : List Packet) : State :=
  if qs.isEmpty || !(s.port n).up then s
  else
    let xs := (qs.map packetFlits).flatten
    (s.widen n).modPort n fun p =>
      let r := { p.frameUp xs.length xs with lastFlit := s.clk }
      r.fill r.outq.length

/-- The packets of a list that were not in an older one; both are in order of sending. -/
def newPackets : List Packet → List Packet → List Packet
  | [], new => new
  | _, [] => []
  | a :: old, b :: new => if a = b then newPackets old new else newPackets old (b :: new)

/-! ### The end of a request (R345, R355, R361, R363) -/

/-- One element of a request that its home has performed: its value; bytes that carry no poison mark enter L1 where a PLAIN load allocates, unless
the core has since changed or invalidated the line, and a non-PLAIN access leaves no line there (R186, R264); a group consumes a mark (R335). -/
def State.answerElem (s : State) (o : MemOp) (e : Elem) (stat : Nat) (data : List Byte) : State :=
  let x := valOf ((data.drop (e.loc.offset % 128)).take e.size)
  let posted : Bool := match o.kind with | .store | .fill _ => true | _ => false
  let t := s.modOp o.id fun p => p.modElem e fun y => { y with stage := .performed (if posted then 0 else x) }
  let t := if o.kind = .load ∧ e.win = 0 ∧ stat = 0 ∧ e.nofill = false ∧ t.caches e.loc e.nc then
      t.l1Merge o.core e.loc ((bytesOf e.size x).zipIdx.map fun b => (e.loc.offset % 128 + b.2, b.1)) else t
  let t := match o.l1Core with | some c => if e.win ≠ 0 ∨ o.opc = 0xA2 ∨ o.opc = 0xAB then t.l1Drop c e.loc else t | none => t
  match o.group with
  | some (g, _) => if stat = 0 ∨ posted = true ∨ o.opc = 0xAA then t else t.consumeElem o e g
  | none => t

/-- The elements that one packet carries are answered: performed, put into the remote-wait table, or failed together (R345, R363). -/
def State.answerElems (s : State) (o : MemOp) (es : List Elem) (src stat : Nat) (data : List Byte) : State :=
  let posted : Bool := match o.kind with | .store | .fill _ => true | _ => false
  if stat = 0 ∨ stat = 7 then es.foldl (fun t e => t.answerElem o e stat data) s
  else if stat = 1 ∧ posted = false ∧ o.opc ≠ 0xAA then
    s.fresh.modOp o.id fun p => { es.foldl (fun p e => p.modElem e fun y => { y with stage := .remoteWait, txAt := s.nextId }) p with since := s.clk }
  else s.failElems o es src stat

/-- A dequeue whose element a peer has sent, or an append whose element a peer has acknowledged: it is performed, and HEAD or TAIL rises. A
RECOVERING peer is asked again; any other refusal leaves the header as it is (R191, R363; log 86). -/
def State.finishDequeue (s : State) (r : EnqRead) (src stat : Nat) (data : List Byte) : State :=
  let hit (e : Elem) : Bool := e.stage == .sent r.code
  let good : Bool := stat == 0 || stat == 7
  let x := if r.append then 0 else valOf ((data.drop r.off).take r.size)
  let cell := r.header.add (if r.append then 24 else 16)
  let t : State := { s with enqReads := s.enqReads.filter (·.code != r.code) }
  let t := if good then t.homePut cell 8 (t.num cell 8 + 1) else t
  let one (t : State) (o : MemOp) (e : Elem) : State :=
    let u := t.modOp o.id fun p => p.modElem e fun y =>
      if good then { y with stage := .performed x, replyAt := s.tick + 1, mark := y.mark || stat == 7 } else { y with stage := .todo }
    match o.group with
    | some (g, _) => if stat = 7 then u.consumeElem o e g else u
    | none => u
  (t.mops.filter fun o => o.elems.any hit).foldl (fun t o =>
    let es := o.elems.filter hit
    (if good = true ∨ stat = 1 then es.foldl (fun t e => one t o e) t else t.failElems o es src stat).settleOp o.id) t

/-- What an engine's read of a peer has become (R218, R335, R345, R363): its bytes; parked on a RECOVERING peer; unspecified bytes, and a failure. -/
def State.finishReads (s : State) (code src stat : Nat) (data : List Byte) : State :=
  let answer (r : PeerRead) : PeerRead :=
    if r.code ≠ some code then r
    else if stat = 0 ∨ stat = 7 then { r with code := none, data := (data.drop (r.addr.toNat % 128)).take r.n, mark := stat == 7 }
    else if stat = 1 then { r with code := none, since := s.clk }
    else { r with code := none, data := (List.range r.n).map fun i => (Config.free64 s.tick (40000 + r.addr.toNat + i)).setWidth 8 }
  let mine := s.copies.filter fun c => c.reads.any (·.code == some code)
  let t : State := { s with copies := s.copies.map fun c => { c with reads := c.reads.map answer } }
  if stat = 0 ∨ stat = 1 ∨ stat = 7 then t
  else mine.foldl (fun t c => t.modGroup c.gid fun g =>
    g.recordFailure src stat (((c.reads.find? (·.code == some code)).map (·.addr)).getD 0)) t

/-- The acknowledgement of a write of a copy or Lathe operation: the group of each operation that it reaches, and the address. -/
def State.ackTargets (s : State) (code : Nat) : List (Nat × W64) :=
  let of (c : CopyOp) : List (Nat × W64) := (c.acks.filter (·.1 == code)).map fun a => (c.gid, a.2)
  (s.copies.map of).flatten ++ ((s.lathe.filterMap (·.out)).map of).flatten ++ ((s.rings.filterMap (·.out)).map of).flatten

/-- An acknowledged write is no longer waited for. -/
def State.dropAck (s : State) (code : Nat) : State :=
  let f (c : CopyOp) : CopyOp := { c with acks := c.acks.filter (·.1 != code) }
  { s with copies := s.copies.map f, lathe := s.lathe.map fun o => { o with out := o.out.map f }, rings := s.rings.map fun r => { r with out := r.out.map f } }

/-- A token operation on a region of a peer that is out of reach is over, with the failure in SR_RFLT; a query writes an unspecified status (R315, R345). -/
def State.failTok (s : State) (q : TokOp) (peer stat : Nat) : State :=
  let t := s.modGroup q.gid fun g => g.recordFailure peer stat (BitVec.ofNat 64 (q.region % 2 ^ 48 * 2 ^ 21))
  match q.kind with
  | 0 => t.finishAcq q.region
  | 1 => t.finishTok q
  | _ => t.answerQuery q.id (Config.free64 s.tick (8650 + q.id))

/-- A token request of this device ends with a status other than OK: its operation waits for a RECOVERING peer, or fails (R345, R355, R363). -/
def State.finishTokRequest (s : State) (q : Packet) (src stat : Nat) : State :=
  let region := (q.dst.toNat % 512 + 1) * 2 ^ 48 + q.line.toNat / 2 ^ 14
  match s.tokOps.find? fun x => x.region == region && x.kind == (if q.ord = 1 then 2 else 0) && x.since.isNone with
  | none => s
  | some x =>
    if stat = 1 then { s with tokOps := s.tokOps.map fun y => if y.id = x.id then { y with since := some s.clk } else y }
    else s.failTok x src stat

/-- A request of this device is answered by a status, with data for a load or an atomic. -/
def State.finishRequest (s : State) (q : Packet) (src stat : Nat) (data : List Byte) : State :=
  let code := 2048 * q.port + q.tag.toNat
  let t : State := { s with sent := s.sent.erase q }
  let hit (e : Elem) : Bool := e.stage == .sent code
  let t : State := match t.enqReads.find? (·.code == code) with
    | some r => t.finishDequeue r src stat data
    | none => (t.mops.filter fun o => o.elems.any hit).foldl (fun t o =>
        (t.answerElems o (o.elems.filter hit) src stat data).settleOp o.id) t
  let t := t.finishReads code src stat data
  let t := if q.type = 0x24 ∧ stat ≠ 0 then t.finishTokRequest q src stat else t
  let t := if stat = 0 then t else (t.ackTargets code).foldl (fun t a => t.modGroup a.1 fun g => g.recordFailure src stat a.2) t
  t.dropAck code

/-- The unanswered requests of this device for which a condition holds. -/
def State.requests (s : State) (f : Packet → Bool) : List Packet := s.sent.filter fun q => isRequest q.type && f q

/-- A port is down: its unanswered requests complete with LINKDOWN, and what its link held is gone (R355). -/
def State.portDown (s : State) (n : Nat) : State :=
  let t := (s.requests (·.port == n)).foldl (fun t q => t.finishRequest q (q.dst.toNat % 512) 3 []) s
  t.modPort n fun p => { p with up := false, outq := [], replay := [], accepted := [], frame := [], txSeq := 0, rxSeq := 0, frameSeq := 0, tagFails := 0 }

/-- A port in LOCKED or RUN enters ERROR (R367). -/
def State.portError (s : State) (n : Nat) : State :=
  match (s.port n).lock with
  | .locked | .run => (s.portDown n).modPort n fun p => { p with lock := .error }
  | _ => s

/-- A step of a port that exists. -/
def State.onPort (s : State) (n : Nat) (f : Port → State) : Out := go (if n < s.ports.length then f (s.port n) else s)

/-! ### SPDM (R367, R368) -/

/-- A message of the SPDM exchange, in UNLOCKED, in its order. -/
def State.spdmStep (s : State) (n : Nat) (before : List Spdm) (after : Spdm) : Out :=
  s.onPort n fun p => if p.lock = .unlocked ∧ before.contains p.spdm then s.modPort n fun q => { q with spdm := after } else s

/-- GET_VERSION (R368): begins the exchange anew. -/
def execGetVersion (port : Nat) (s : State) : Out :=
  s.onPort port fun p => if p.lock = .unlocked then s.modPort port fun q => { q with spdm := .version, keys := false } else s

/-- GET_CAPABILITIES (R368): the requester goes on in SPDM version 1.2 or 1.3 (0x12, 0x13); in no other. -/
def execGetCapabilities (h : Hello) (s : State) : Out :=
  s.onPort h.port fun p =>
    if p.lock = .unlocked ∧ p.spdm = .version then
      let known := h.version = 0x12 ∨ h.version = 0x13
      s.modPort h.port fun q => { q with spdm := if known then .capabilities else .idle, spdmVersion := if known then h.version else 0 }
    else s

/-- NEGOTIATE_ALGORITHMS (R368): without common algorithms the port stays in UNLOCKED, with no traffic. -/
def execNegotiateAlgorithms (port : Nat) (common : Bool) (s : State) : Out :=
  s.spdmStep port [.capabilities] (if common then .algorithms else .idle)

/-- GET_DIGESTS (R368). -/
def execGetDigests (port : Nat) (s : State) : Out := s.spdmStep port [.algorithms] .digests

/-- GET_CERTIFICATE (R368). -/
def execGetCertificate (port : Nat) (s : State) : Out := s.spdmStep port [.digests] .certificate

/-- CHALLENGE (R368). -/
def execChallenge (port : Nat) (s : State) : Out := s.spdmStep port [.certificate] .authenticated

/-- GET_MEASUREMENTS (R367, R368): the configuration digest of LOCK is among them. -/
def execGetMeasurements (port : Nat) (s : State) : Out :=
  s.onPort port fun p => s.modPort port fun q => { q with reported := p.digest }

/-- KEY_EXCHANGE (R368). -/
def execKeyExchange (port : Nat) (s : State) : Out := s.spdmStep port [.certificate, .authenticated] .exchanged

/-- FINISH (R368): the session is established, with its keys, once the requester too has proven its identity; else the port stays in UNLOCKED
without one. The keys come of the exchange and are unspecified. -/
def execFinish (h : Finish) (s : State) : Out :=
  s.onPort h.port fun p =>
    if p.lock = .unlocked ∧ p.spdm = .exchanged then
      if h.proven then
        s.modPort h.port fun q => { q with
          spdm := .session, keys := true, iv := 0, rxIv := 0, txKey := Config.free64 s.tick (5500 + h.port), rxKey := Config.free64 s.tick (5600 + h.port) }
      else s.modPort h.port fun q => { q with spdm := .idle }
    else s

/-- KEY_UPDATE (R368, R369): the IVs restart under new keys, in both directions (log 20). -/
def execKeyUpdate (port : Nat) (s : State) : Out :=
  s.onPort port fun p =>
    if p.spdm = .session then
      s.modPort port fun q => { q with iv := 0, rxIv := 0, txKey := Config.nextKey q.txKey, rxKey := Config.nextKey q.rxKey }
    else s

/-- END_SESSION (R367): the session and its keys end; a locked port enters ERROR. -/
def execEndSession (port : Nat) (s : State) : Out :=
  s.onPort port fun p =>
    if p.spdm = .session then (s.portError port).modPort port fun q => { q with spdm := .ended, keys := false } else s

/-- FRAME_LIMIT_KEY_UPDATE (R369): after 2^32 frames. -/
def execFrameLimitKeyUpdate (port : Nat) (s : State) : Out :=
  s.onPort port fun p =>
    if 2 ^ 32 ≤ p.iv.toNat then s.modPort port fun q => { q with iv := 0, txKey := Config.nextKey q.txKey } else s

/-- A frame whose tag fails is discarded, and asked for again from its first flit; a second failure of it is an ERROR (R367, R369). -/
def State.tagFail (s : State) (n : Nat) : State :=
  if (s.port n).tagFails = 0 then
    s.modPort n fun q => { q with tagFails := 1, rxSeq := q.frameSeq, frame := [], asks := q.asks ++ [q.frameSeq] }
  else s.portError n

/-- FRAME_TAG_FAIL (R369): the tag of the frame being received fails. -/
def execFrameTagFail (port : Nat) (s : State) : Out := s.onPort port fun p => if p.lock ≠ .run then s else s.tagFail port

/-! ### Flits and width (R357, R358, R365, R386) -/

/-- A port goes on with one of its two lanes: the link retrains, and the change is counted (R365). -/
def State.narrow (s : State) (n lane : Nat) : State :=
  (s.modPort n fun p => { p with width := 1, lane := lane, retraining := true, narrowAt := s.clk, idleNarrow := false
                                 replays0 := [], replays1 := [] }).bump 0x32 n

/-- LANE_LOSS_OF_LOCK (R365): which lane is an unspecified choice; a port that has lost both is down (R355, R367). -/
def execLaneLossOfLock (port : Nat) (s : State) : Out :=
  s.onPort port fun p =>
    if p.lane0 && p.lane1 then
      let lost := Config.choose s.tick 8100 % 2
      let t := s.modPort port fun q => { q with lane0 := lost != 0, lane1 := lost != 1 }
      if p.width = 2 then t.narrow port (1 - lost)
      else if p.lane ≠ lost then t.modPort port fun q => { q with idleNarrow := false }
      else t.modPort port fun q => { q with lane := 1 - lost, retraining := true, narrowAt := s.clk, idleNarrow := false }
    else
      let t := if p.lock = .unlocked ∨ p.lock = .error then s.portDown port else s.portError port
      t.modPort port fun q => { q with lane0 := false, lane1 := false, retraining := false }

/-- RETRAIN_COMPLETE (R365): every flit not acknowledged is sent again, from the oldest. -/
def execRetrainComplete (port : Nat) (s : State) : Out :=
  s.onPort port fun p =>
    if p.retraining then
      let t := p.replay.foldl (fun t _ => t.bump 0x31 port) s
      t.modPort port fun q =>
        let r := { q with retraining := false, wire := q.wire ++ q.replay }
        r.fill r.outq.length
    else s

/-- WIDTH_RESTORE (R365): a lane that has run clean for 100 ms is used again. -/
def execWidthRestore (port : Nat) (s : State) : Out :=
  s.onPort port fun p =>
    if p.width = 1 && !p.idleNarrow && (p.lane0 || p.lane1) && decide (70000000 ≤ (s.clk - p.narrowAt).toNat) then
      (s.modPort port fun q => { q with lane0 := true, lane1 := true, width := 2, retraining := true }).bump 0x32 port
    else s

/-- IDLE_PORT_NARROW (R386): in BAL, after 10 µs without a flit. -/
def execIdlePortNarrow (port : Nat) (s : State) : Out :=
  s.onPort port fun p =>
    if s.point = .bal ∧ p.width = 2 ∧ p.outq.isEmpty ∧ 7000 ≤ (s.clk - p.lastFlit).toNat then
      (s.modPort port fun q => { q with width := 1, lane := Config.choose s.tick 8110 % 2, retraining := true, narrowAt := s.clk, idleNarrow := true }).bump 0x32 port
    else s

/-- A port in RUN with a lane in lock carries traffic (R367); a line with unanswered requests on another port returns to it after them (R355). -/
def State.openPort (s : State) (n : Nat) : State :=
  let p := s.port n
  if p.up || p.lock != .run || !(p.lane0 || p.lane1) then s else s.modPort n fun q => { q with up := true }

/-- Every port that may carry traffic does. -/
def State.settlePorts (s : State) : State :=
  s.ports.zipIdx.foldl (fun t x => if x.1.up || x.1.lock != .run then t else t.openPort x.2) s

/-- PORT_UP (R355): the lanes are in lock; a port in RUN carries traffic again. -/
def execPortUp (port : Nat) (s : State) : Out :=
  s.onPort port fun _ => (s.modPort port fun q => { q with lane0 := true, lane1 := true, width := 2, retraining := false }).openPort port

/-- LINK_VERSION_OFFER (R367, R370): bit v of the offer names version v; the K9 offers version 2. The version belongs to the configuration, and a
write of it sends a port in LOCKED or RUN to ERROR. -/
def execLinkVersionOffer (port : Nat) (offer : Byte) (s : State) : Out :=
  s.onPort port fun p =>
    if p.lock = .unlocked then s.modPort port fun q => { q with version := if bitAt offer 2 then 2 else 0 } else s.portError port

/-- A replay is traced to a lane; more than 64 within 1 ms reduce the width (R365). -/
def State.traceReplay (s : State) (n lane : Nat) : State :=
  let late (l : List W64) : List W64 := (l.filter fun x => decide ((s.clk - x).toNat < 700000)) ++ [s.clk]
  let t := s.modPort n fun p => if lane = 0 then { p with replays0 := late p.replays0 } else { p with replays1 := late p.replays1 }
  let p := t.port n
  if p.width = 2 && (decide (64 < p.replays0.length) || decide (64 < p.replays1.length)) then t.narrow n (if lane = 0 then 1 else 0) else t

/-- The whole packets among the payloads that a port has accepted arrive. -/
def State.takePackets (s : State) (n : Nat) : Nat → State
  | 0 => s
  | k + 1 =>
    match parsePacket n (s.port n).accepted with
    | some (q, rest) => ({ s.modPort n fun p => { p with accepted := rest } with arrived := s.arrived ++ [q] } : State).takePackets n k
    | none => s

/-- A frame ends with its tag flit: where tag and count are right its flits are accepted, acknowledged, and their packets arrive (R358, R369; log 20). -/
def State.closeFrame (s : State) (n : Nat) (f : Flit) : State :=
  let p := s.port n
  if f.payload = tagFlit (Config.tagOf p.rxKey p.rxIv p.frame) p.frame.length then
    let plain := p.frame.zipIdx.map fun x => cipher p.rxKey p.rxIv x.2 x.1
    (s.modPort n fun q => { q with
      accepted := q.accepted ++ plain, frame := [], frameSeq := f.sq + 1, rxIv := q.rxIv + 1, tagFails := 0
      acks := q.acks ++ [f.sq] }).takePackets n (p.accepted.length + plain.length)
  else s.tagFail n

/-- FLIT_RECEIVE (R357, R358, R369): the expected flit enters its frame; any other is discarded and replay is asked for. Whether FEC corrected a
codeword of it is unspecified (log 4). -/
def execFlitReceive (port : Nat) (f : Flit) (s : State) : Out :=
  s.onPort port fun p =>
    if !p.up then s
    else
      let good := flitGood f
      let s := (if f.whole && !good then s.bump 0x30 port else s).widen port
      let s := if Config.choose s.tick 8120 % 2 = 1 then s.bump 0x33 port else s
      if f.whole && good && f.sq == p.rxSeq then
        let t := s.modPort port fun q => { q with rxSeq := q.rxSeq + 1, lastFlit := s.clk }
        if f.tag then t.closeFrame port f
        else if 16 ≤ p.frame.length then t.tagFail port
        else t.modPort port fun q => { q with frame := q.frame ++ [f.payload] }
      else
        let t := s.modPort port fun q => { q with asks := q.asks ++ [q.rxSeq] }
        if good then t else t.traceReplay port f.lane

/-- LINK_ACK_RECEIVE (R358): every flit up to the one named leaves the replay buffer, which takes in what waits. -/
def execLinkAckReceive (port : Nat) (sq : Byte) (s : State) : Out :=
  s.onPort port fun p =>
    match p.replay.findIdx? (·.sq == sq) with
    | none => s
    | some k => s.modPort port fun q =>
        let r := { q with replay := q.replay.drop (k + 1) }
        r.fill r.outq.length

/-- REPLAY_REQUEST (R358): every flit from the number named on is sent again, in order. -/
def execReplayRequest (port : Nat) (sq : Byte) (s : State) : Out :=
  s.onPort port fun p =>
    let again := p.replay.dropWhile (·.sq != sq)
    let t := again.foldl (fun t _ => t.bump 0x31 port) s
    t.modPort port fun q => { q with wire := q.wire ++ again }

/-! ### Packets that arrive (R361 to R366) -/

/-- The state with a packet sent. -/
def State.send (s : State) (p : Packet) : State := { s with sent := s.sent ++ [p] }

/-- An answer with a status and no data. -/
def State.refusal (s : State) (p : Packet) (type : BitVec 6) (stat : Nat) : Packet :=
  { type := type, src := BitVec.ofNat 9 (s.peer.getD 0), dst := p.src.setWidth 10, ctx := p.ctx, tag := p.tag
    stat := BitVec.ofNat 6 stat, budget := s.budget (s.restamp p.budget) (p.budget == 1), line := p.line, be := p.be, port := p.port }

/-- The line offsets of a packet's elements: every enabled byte lies in one of them. -/
def elemOffsets (p : Packet) : List Nat :=
  let n := 2 ^ p.sz.toNat
  (List.range (128 / n)).map (· * n) |>.filter fun o => fldN p.be o n != 0

/-- Whether the fields of a request are legal: its header, size, scope and enables, the sizes of an atomic, and the half-line of a CAS (R60, R360, R362, R363). -/
def packetGood (p : Packet) : Bool :=
  let n := 2 ^ p.sz.toNat
  !p.bad && (p.type != 0x1A || fldN p.be 0 64 == 0 || fldN p.be 64 64 == 0) && p.sz.toNat ≤ 5 && p.scope != 7 && p.be != 0 && (elemOffsets p).all (fun o => fldN p.be o n == 2 ^ n - 1)
    && (!(decide (0x10 ≤ p.type.toNat)) || p.sz == 2 || p.sz == 3)

/-- The operation of a peer's request, its deadline stamped afresh (R360). -/
def State.peerOp (s : State) (p : Packet) (kind : AccKind) (opc : Nat) : MemOp :=
  { id := s.nextId, owner := .peer p, kind := kind, ctx := p.ctx.toNat, opc := opc, sz := p.sz.toNat, scope := p.scope.toNat, ord := p.ord.toNat, dplace := 1
    deadline := s.restamp p.budget, born := s.clk, late := p.budget == 1 }

/-- The elements of a peer's request at this device's home (R362, R363). -/
def peerElems (p : Packet) : List Elem :=
  let n := 2 ^ p.sz.toNat
  let at' (o : Nat) : W64 := BitVec.ofNat 64 (natOfBytes ((p.data.drop o).take n))
  let cas := p.type = 0x1A
  (elemOffsets p).zipIdx.map fun (o, k) =>
    let a := p.line.toNat * 128 + o
    { lane := k, va := BitVec.ofNat 64 (a + p.win.toNat * 2 ^ 56), loc := .mem a, win := p.win.toNat, size := n, nc := true
      data := if cas then (at' (64 + o % 64)).setWidth 256 else BitVec.ofNat 256 (natOfBytes ((p.data.drop o).take n))
      swap := if cas then at' (o % 64) else 0 }

/-- Whether this device's home refuses the window, or the size in it, of a peer's request (R180, R181). -/
def peerWindow (o : MemOp) (e : Elem) : Bool :=
  e.win == 13 || !winSize e.win e.size || (e.win == 15 && o.kind == .store && (e.size != 8 || fldN e.data 48 16 != 0 || fldN e.data 0 6 != 0))
    || ((match o.kind with | .atomic _ => true | _ => false) && decide (1 < e.win))

/-- The elements of a peer's request are performed at this home, in ascending order; it is answered once all are (R361). That an ADDI is a peer's
successor add no packet says: one that leaves zero enqueues nothing here (R24, log 104). -/
def State.performPeer (s : State) (o : MemOp) (es : List Elem) : State :=
  let t : State := { s.fresh with mops := s.mops ++ [{ o with elems := es }] }
  (es.foldl (fun t e => if t.performable o e then t.homeElem o e else t) t).settleOp o.id

/-- The status with which this device refuses every request while its own state keeps it from service (R344, R363). -/
def State.ownRefusal (s : State) : Option Nat :=
  match s.domain with
  | .recovering => some 1
  | .fenced => some 2
  | _ => none

/-- A peer's request: refused by this device's state, by a bad field, by the export to its context, by its window, or performed (R344, R361, R363). -/
def State.serveRequest (s : State) (p : Packet) (kind : AccKind) (opc : Nat) : State :=
  let o := s.peerOp p kind opc
  let es := peerElems p
  let answer : BitVec 6 := if kind = .store then 0x21 else 0x20
  if s.ownRefusal.isSome then s.send (s.refusal p answer (s.ownRefusal.getD 0))
  else if !packetGood p then s.send (s.refusal p answer 0x0C)
  else if es.any fun e => !(s.exported o.ctx e.loc.offset e.size) then s.send (s.refusal p answer 5)
  else if es.any (peerWindow o) then s.send (s.refusal p answer 6)
  else s.performPeer o (es.map fun e => { e with dpage := s.tag e.loc != 0 || e.win == 15 })

/-- RD (R361). -/
def execReadRequest (p : Packet) (s : State) : Out := go (s.serveRequest p .load 0xA0)

/-- WR (R361). -/
def execWriteRequest (p : Packet) (s : State) : Out := go (s.serveRequest p .store 0xA1)

/-- AT (R361): AOP is TYPE − 0x10. -/
def execAtomicRequest (p : Packet) (s : State) : Out := go (s.serveRequest p (.atomic (p.type.toNat - 0x10)) 0xA2)

/-- The elements of a multicast store, translated at a member by the I/O die; a page that is not there refuses it as PERM (log 20). -/
def State.placeMember (s : State) (o : MemOp) : List Elem → State × Except Cause (List Elem)
  | [] => (s, .ok [])
  | e :: es =>
    match s.placeGlobal o 240 e with
    | (t, .fault c) => (t, .error c)
    | (t, .parks _) => (t, .error .perm)
    | (t, .ok x) =>
      match t.placeMember o es with
      | (u, .ok xs) => (u, .ok (x :: xs))
      | r => r

/-- MCWR (R184, R366): the store is translated through this device's own context of the same id; a member that cannot perform it says so. -/
def execMcwr (p : Packet) (s : State) : Out :=
  let o := s.peerOp p .store 0xA1
  let es := (peerElems p).map fun e => { e with win := 13, va := BitVec.ofNat 64 (e.loc.offset + 13 * 2 ^ 56) }
  if s.ownRefusal.isSome then go (s.send (s.refusal p 0x21 (s.ownRefusal.getD 0)))
  else if !packetGood p then go (s.send (s.refusal p 0x21 0x0C))
  else
    match s.placeMember o es with
    | (t, .error c) => go (t.send (t.refusal p 0x21 (statusOf c)))
    | (t, .ok xs) => go (t.performPeer o (xs.map fun e => { e with dpage := false, win := 1 }))

/-- RDATA (R361, R363): the request with its tag is answered. -/
def execRdata (p : Packet) (s : State) : Out :=
  match s.sent.find? fun q => isRequest q.type && q.tag == p.tag && q.port == p.port with
  | none => go s
  | some q => go (s.finishRequest q p.src.toNat p.stat.toNat p.data)

/-- ACK (R363, R366): a posted write is acknowledged, or a request refused. -/
def execAck (p : Packet) (s : State) : Out :=
  match s.sent.find? fun q => isRequest q.type && q.tag == p.tag && q.port == p.port with
  | none => go s
  | some q => go (s.finishRequest q p.src.toNat p.stat.toNat p.data)

/-- Whether a packet type is reserved (R361). -/
def reservedType (t : BitVec 6) : Bool :=
  !(isRequest t || isReply t || (decide (0x24 ≤ t.toNat) && decide (t.toNat ≤ 0x28)) || t == 0x30)

/-- BADPKT (R361): dropped, and answered with BADPKT. -/
def execBadpkt (p : Packet) (s : State) : Out := go (if reservedType p.type then s.send (s.refusal p 0x21 0x0C) else s)

/-! ### States of devices (R344, R345, R364) -/

/-- Code of a device's state (R344). -/
def peerCode : PeerState → Nat
  | .absent => 0 | .run => 1 | .degraded => 2 | .recovering => 3 | .fenced => 4

/-- The operations with an element parked on a peer. -/
def State.parkedOn (s : State) (peer : Nat) : List MemOp :=
  s.mops.filter fun o => o.elems.any fun e => e.stage == .remoteWait && (match e.loc with | .peer d _ => d == peer | _ => false) && o.opc != 0xE2

/-- Requests parked on a peer are to be sent again, in order of parking, each once it holds an entry (R319, R345). -/
def State.resend (s : State) (peer : Nat) : State :=
  (s.parkedOn peer).foldl (fun t o => t.modOp o.id fun p => { p with elems := p.elems.map fun e =>
    if e.stage == .remoteWait then { e with stage := .todo, parkedAt := e.txAt } else e }) s

/-- Fetches that wait for a peer that is back, or of which no answer is to be hoped for, are made again (R345). -/
def State.wakeFetches (s : State) (peer : Nat) : State :=
  let wake (p : Split) : Split := match p.wait with | .remote d _ => if d = peer then { p with wait := .none } else p | _ => p
  { s with groups := s.groups.map fun g => { g with splits := g.splits.map wake } }

/-- A fetch that has waited for a peer for the recovery limit completes with status "recovering", where its split may start a clause (R345). -/
def State.failFetch (s : State) (g : Group) (p : Split) (peer : Nat) : State :=
  let t : State := { s.setWait g.gid p.idx .none with cur := (g.gid, p.idx) }
  if !t.mayClause t.G t.S then s
  else match t.fetchLoc t.G t.S.pc with
    | (u, .ok l) => u.fetchFails peer 1 l
    | _ => t

/-- Every fetch that has waited for a peer for a number of clocks so completes. -/
def State.failFetches (s : State) (peer clocks : Nat) : State :=
  s.groups.foldl (fun t g => g.splits.foldl (fun t p => match p.wait with
    | .remote d since => if d = peer ∧ clocks ≤ (s.clk - since).toNat then t.failFetch g p peer else t
    | _ => t) t) s

/-- Requests parked on a peer complete with a status, packet by packet (R100, R345). -/
def State.giveUpOn (s : State) (ops : List MemOp) (peer stat : Nat) : State :=
  ops.foldl (fun t o =>
    let mine := o.elems.filter (·.stage == .remoteWait)
    ((((mine.map (·.req)).eraseDups.map fun r => windowRuns o (mine.filter (·.req == r))).flatten).foldl
      (fun t run => t.failElems o run peer stat) t).settleOp o.id) s

/-- The engines' reads parked on a peer for a number of clocks complete with a status, and unspecified bytes (R218, R345). -/
def State.giveUpReads (s : State) (peer stat clocks : Nat) : State :=
  let lost (c : CopyOp) (r : PeerRead) : Bool := r.code.isNone && r.data.length != r.n && decide (clocks ≤ (s.clk - r.since).toNat)
    && (s.deviceLoc c.ctx (BitVec.ofNat 64 (r.addr.toNat % 2 ^ 56))).any fun l => match l.1 with | .peer d _ => d == peer | _ => false
  s.copies.foldl (fun t c => (c.reads.filter (lost c)).foldl (fun t r => (t.failRead c.id c.gid peer stat r.addr r.n).1) t) s

/-- The token operations on regions of a peer wait for it, since now (R345). -/
def State.parkToks (s : State) (d : Nat) : State :=
  { s with tokOps := s.tokOps.map fun q => if q.region / 2 ^ 48 = d + 1 ∧ q.since.isNone then { q with since := some s.clk } else q }

/-- No token request to a peer is unanswered any more. -/
def State.dropTokPackets (s : State) (peer : Nat) : State :=
  let mine (q : Packet) : Bool := q.type == 0x24 && q.dst.toNat == peer
  { s with sent := s.sent.filter fun q => !mine q, unsent := s.unsent.filter fun q => !mine q }

/-- Of the token operations on regions of a peer that has become RECOVERING, those delivered there are lost, an unspecified choice; the others wait
for it (R345, R364). -/
def State.haltToks (s : State) (peer : Nat) : State :=
  (((s.tokOps.filter fun q => q.region / 2 ^ 48 == peer + 1 && q.since.isNone).foldl (fun t q =>
    if Config.choose s.tick (30000 + q.id) % 2 = 1 then t.failTok q peer 4 else t) s).parkToks peer).dropTokPackets peer

/-- The token operations that wait for a peer that is back ask it again (R345). -/
def State.resumeToks (s : State) (peer : Nat) : State :=
  let mine := s.tokOps.filter fun q => q.region / 2 ^ 48 == peer + 1 && q.since.isSome
  mine.foldl (fun t q => match q.kind with
    | 0 => t.askTok (t.grp q.gid).ctx peer q.region false
    | 2 => t.askTok (t.grp q.gid).ctx peer q.region true
    | _ => t)
    { s with tokOps := s.tokOps.map fun q => if mine.contains q then { q with since := none } else q }

/-- PSTATE (R344, R345, R364): an event is posted. A peer that is RECOVERING loses what was delivered to it, which is an unspecified choice; one
that returns is sent what waits; for one that is FENCED or gone nothing waits. While this device recovers its cores are forced conservative,
until firmware clears it (R35). A spare may be the one to which the switches map the number of a peer that is RECOVERING (R346, R352; log 111). -/
def execPstate (peer : Nat) (st : PeerState) (s : State) : Out :=
  let mapped : Bool := s.peer.isNone && s.dev == .ready && st == .recovering && Config.choose s.tick 8350 % 2 == 1
  let me := if mapped then some peer else s.peer
  let own : Bool := me == some peer
  let t : State := { s with peers := SMap.set .absent s.peers peer st, domain := if own then st else s.domain, peer := me
                            fcons := if own && st == .recovering then BitVec.allOnes 192 else s.fcons }
  let t := t.post { type := 0x0A, addr := BitVec.ofNat 64 peer, info := BitVec.ofNat 64 (peerCode st) }
  match st with
  | .recovering =>
    go ((t.requests fun q => q.dst.toNat == peer && q.type != 3 && q.type != 0x24).foldl (fun u q =>
      if Config.choose s.tick (8300 + q.tag.toNat) % 2 = 1 then u.finishRequest q peer 4 [] else u) (t.haltToks peer))
  | .run | .degraded => go (((t.resend peer).resumeToks peer).wakeFetches peer)
  | .fenced | .absent =>
    let u := ((t.giveUpOn (t.parkedOn peer) peer 2).giveUpReads peer 2 0).wakeFetches peer
    go (((u.tokOps.filter fun q => q.region / 2 ^ 48 == peer + 1).foldl (fun u q => u.failTok q peer 2) u).dropTokPackets peer)

/-- RECOVERY_LIMIT (R345): requests parked on a peer for the recovery limit complete with status "recovering". -/
def execRecoveryLimit (peer : Nat) (s : State) : Out :=
  let clocks := 700000000 * s.recovery
  let late := s.tokOps.filter fun q => q.region / 2 ^ 48 == peer + 1 && q.since.any fun x => decide (clocks ≤ (s.clk - x).toNat)
  let t := (s.giveUpOn ((s.parkedOn peer).filter fun o => decide (clocks ≤ (s.clk - o.since).toNat)) peer 1).giveUpReads peer 1 clocks
  go ((late.foldl (fun t q => t.failTok q peer 1) t).failFetches peer clocks)

/-- The answer of a home to a token request or a query of this device (R315, R361; log 20). -/
def State.tokAnswer (s : State) (p : Packet) (region : Nat) : Out :=
  let query : Bool := p.ord == 1
  let op := ((s.tokOps.find? fun q => q.region == region && q.kind == (if query then 2 else 0)).map (·.id)).getD 0
  let t := if query then { s with sent := match s.sent.find? (asksFor region true) with | some q => s.sent.erase q | none => s.sent } else s
  execTokQueryAnswer op (BitVec.ofNat 64 (natOfBytes (p.data.take 8))) t

/-- A packet that has arrived whole is served by its type (R361), a request not by a spare (R352); LINE of a token message names the region, and where PSTATE carries its state is not given (log 20). -/
def State.servePacket (s : State) (p : Packet) : Out :=
  let region := p.line.toNat / 2 ^ 14
  let theirs := (p.src.toNat + 1) * 2 ^ 48 + region
  if s.peer.isNone && isRequest p.type then go s else
  match p.type.toNat with
  | 1 => execReadRequest p s
  | 2 => execWriteRequest p s
  | 3 => execMcwr p s
  | 0x20 => execRdata p s
  | 0x21 => execAck p s
  | 0x24 =>
    if s.ownRefusal.isSome then go (s.send (s.refusal p 0x21 (s.ownRefusal.getD 0)))
    else if p.ord = 1 then go (s.serveQuery p region) else execTokRequest p.src.toNat region s
  | 0x25 => execTokGrant theirs s
  | 0x26 => execTokRecall theirs s
  | 0x27 => execTokReturn region s
  | 0x28 => s.tokAnswer p theirs
  | 0x30 => execPstate p.src.toNat
      (match Config.choose s.tick 8400 % 5 with | 1 => .run | 2 => .degraded | 3 => .recovering | 4 => .fenced | _ => .absent) s
  | n => if 0x10 ≤ n ∧ n ≤ 0x1C then execAtomicRequest p s else execBadpkt p s

end Sys2Proof.Machine
end

