-- ==== Sys2Proof/Machine/Firmware.lean ====
section
/-! DEFINITION. The firmware command set, version 3: the command queue and every command (R36 to R39, R340, R367, R374 to R380, R385, R409 to R411). -/

namespace Sys2Proof.Machine

open Sys2Proof

/-! ### The command queue (R374 to R376) -/

/-- The fields of a command block (R375). -/
def cmdOf (slot n : Nat) : CmdBlock :=
  let f (lo len : Nat) : Nat := recN n lo len
  { slot := slot, opc := BitVec.ofNat 8 (f 0 8), cw := BitVec.ofNat 6 (f 8 6), irq := f 14 1 == 1, ctx := BitVec.ofNat 16 (f 16 16)
    arg0 := BitVec.ofNat 64 (f 64 64), arg1 := BitVec.ofNat 64 (f 128 64), arg2 := BitVec.ofNat 64 (f 192 64), arg3 := BitVec.ofNat 64 (f 256 64)
    bad := f 15 1 != 0 || f 48 16 != 0 || f 448 64 != 0 }

/-- Whether a queue element names a command block slot (R374). -/
def slotGood (e : Nat) : Bool := decide (0x10000 ≤ e) && decide (e ≤ 0xFFFC0) && e % 64 == 0

/-- The command block slots that the elements of the command queue name. -/
def State.queuedSlots (s : State) : List Nat :=
  match s.header (.cmd 0) 8 with
  | some h => (List.range (min ((h.tail + 2 ^ 64 - h.head) % 2 ^ 64) 1024)).map fun k => s.num (.cmd (0x1000 + (h.head + k) % 1024 * 8)) 8
  | none => []

/-- Queued command blocks that have changed since the state before are noted with what they held, but for a reset, which ends what was queued (R376). -/
def State.noteCmds (before s : State) : State :=
  if before.cmdMem == s.cmdMem || s.cmdMem == resetCmdMem then s
  else
    let was (e : Nat) : Option (Nat × BitVec 512) :=
      let old := natOfBytes (before.readLoc (.cmd e) 64)
      if !slotGood e || old == natOfBytes (s.readLoc (.cmd e) 64) then none else some (e, BitVec.ofNat 512 old)
    { s with cmdRewritten := s.cmdRewritten ++ before.queuedSlots.filterMap was }

/-- A command block as the firmware reads it at its dequeue: what it holds, or, where it was rewritten too early, an unspecified choice of old and
new bytes (R376; log 89). -/
def State.cmdBlock (s : State) (e : Nat) : Nat :=
  let held := natOfBytes (s.readLoc (.cmd e) 64)
  let olds := (s.cmdRewritten.filter (·.1 == e)).map (·.2.toNat)
  if olds.isEmpty then held
  else natOfBytes ((List.range 64).map fun i =>
    BitVec.ofNat 8 ((held :: olds).getD (Config.choose s.tick (31000 + i) % (olds.length + 1)) held / 2 ^ (8 * i)))

/-- COMMAND_DEQUEUE (R374, R376): in READY, with no command in hand; an element that names no slot is discarded with an event. -/
def execCommandDequeue (s : State) : Out :=
  if s.dev ≠ .ready ∨ s.cmd.isSome then go s
  else
    match (s.header (.cmd 0) 8).filter (fun h => h.head != h.tail), s.enqLoad 0 (.cmd 0) 8 with
    | some _, (t, .done e) =>
      if slotGood e then go { t with cmd := some (cmdOf e (t.cmdBlock e)), cmdRewritten := t.cmdRewritten.filter (·.1 != e) }
      else go (t.post { type := 0x0D, addr := BitVec.ofNat 64 e })
    | _, _ => go s

/-- The command in hand completes with a status and its results (R376). -/
def State.finishCmd (s : State) (c : CmdBlock) (status : Nat) (res : Option (W64 × W64) := none) : State :=
  { s.complete c.slot c.cw.toNat c.irq status res with cmd := none }

/-- A command completes OK. -/
abbrev State.cmdOk (s : State) (c : CmdBlock) : State := s.finishCmd c 0

/-- What a command asks of the context that it names (R377, R379). -/
inductive Needs where
  /-- It must exist and not be LOST. -/
  | context
  /-- It must exist. -/
  | any
  /-- It need not exist, but must not be LOST. -/
  | device
  | nothing
  deriving DecidableEq, Repr

/-- The status with which a command is refused before its own conditions: BADVER, BADCMD, BADCTX, in this order (R377 to R379). -/
def State.cmdRefused (s : State) (c : CmdBlock) (good : Bool) (needs : Needs) : Option Nat :=
  if s.version.isNone && c.opc != 1 then some 2
  else if c.bad || !good then some 1
  else
    match s.ctx? c.ctx.toNat, needs with
    | none, .context | none, .any => some 3
    | some x, .context | some x, .device => if x.lost then some 3 else none
    | _, _ => none

/-- A command: refused, or its own effect, which is worked out only then. -/
def State.command (s : State) (c : CmdBlock) (good : Bool) (needs : Needs) (k : Unit → State) : Out :=
  match s.cmdRefused c good needs with
  | some st => go (s.finishCmd c st)
  | none => go (k ())

/-- A command with no argument from the n-th on. -/
def argsFrom (c : CmdBlock) (n : Nat) : Bool := ([c.arg0, c.arg1, c.arg2, c.arg3].drop n).all (· == 0)

/-- The context that a command names. -/
def State.cmdCtx (s : State) (c : CmdBlock) : Context := (s.ctx? c.ctx.toNat).getD {}

/-! ### NEGOTIATE and contexts (R378, R379, R410) -/

/-- NEGOTIATE (R378). -/
def execNegotiate (c : CmdBlock) (s : State) : Out :=
  let common := c.arg0 &&& Config.versions
  s.command c (argsFrom c 1) .device fun _ =>
    if !s.ctxs.isEmpty then s.finishCmd c 8
    else if common = 0 then s.finishCmd c 2
    else
      let v := ((List.range 64).filter (bitAt common ·)).foldl max 0
      { s with version := some v }.finishCmd c 0 (some (BitVec.ofNat 64 v, 0))

/-- An unspecified context id that is not in use; none when all are. -/
def State.freeCtx (s : State) : Option Nat :=
  let used (i : Nat) : Bool := s.ctxs.any (·.id == i)
  let k := Config.choose s.tick 5100 % 65535 + 1
  if used k then (List.range 65536).find? fun i => i != 0 && !used i else some k

/-- The 64 KiB pages of the range reserved to the firmware that task queues of 2^q entries take: a page of headers, then the arrays (log 21). -/
def queuePages (q : Nat) : Nat := 1 + (96 * 8 * 2 ^ q + 0xFFFF) / 0x10000

/-- V, RD, WR and windows 0, 1, 11, 12 and 14, in tier 0 (R410). -/
def queuePte : W64 := 0x580307

/-- Pages of an address range in frames that follow each other, all or none. -/
def State.mapRun (s : State) (ctx va : Nat) (template : W64) (exp : Bool) (frame : Nat) : Nat → Option State
  | 0 => some s
  | n + 1 =>
    let size := pteBytes template
    (s.mapFrame ctx va template exp frame).bind fun t => t.mapRun ctx (va + size) template exp (frame + size / 0x10000) n

/-- The header of task queue k: BASE, LCAP, ESIZE 8, TRAPEN 0 (R190, R410). -/
def queueHeader (q k : Nat) : List Byte :=
  bytesOf 8 (BitVec.ofNat 64 (Config.reservedVa + 0x10000 + k * 8 * 2 ^ q)) ++ [BitVec.ofNat 8 q, 8] ++ List.replicate 54 0

/-- A new context with its task queues; none when there are no frames (R379, R410). -/
def State.newContext (s : State) (x : Context) : Option State :=
  let n := queuePages x.logq
  let t : State := { s with ctxs := s.ctxs ++ [x], mem := s.mem.writeN x.root.toNat (List.replicate 2048 0) }
  (t.allocFrames 0 n).bind fun (t, f) =>
    (t.mapRun x.id Config.reservedVa queuePte false f n).map fun t =>
      { t with mem := t.mem.writeN (f * 0x10000) ((List.range 96).map (queueHeader x.logq)).flatten }

/-- CTX_CREATE (R379, R410). -/
def execCtxCreate (c : CmdBlock) (s : State) : Out :=
  let q := fldN c.arg2 0 5
  let base := c.arg3 &&& ~~~1
  let bind := bitAt c.arg3 0
  let good : Bool := bitAt c.arg1 0 && fldN c.arg2 5 59 == 0 && decide (8 ≤ q) && decide (q ≤ 20) && c.arg0.toNat % 4096 == 0
    && decide (c.arg0.toNat + 4096 ≤ Config.hbmBytes) && base.toNat % 2 ^ 40 == 0 && decide (base.toNat < 2 ^ 56)
  s.command c good .device fun _ =>
    if bind && s.ctxs.any (·.aperture.isSome) then s.finishCmd c 8
    else
      match s.freeCtx with
      | none => s.finishCmd c 7
      | some id =>
        let feats := c.arg1 &&& Config.features
        match s.newContext { id := id, root := c.arg0, feats := feats, logq := q, aperture := if bind then some base else none } with
        | none => s.finishCmd c 7
        | some t => t.finishCmd c 0 (some (BitVec.ofNat 64 id, feats))

/-- Whether a context has a resident group; one in transit counts, one not yet created does not. -/
def State.residents (s : State) (ctx : Nat) : Bool :=
  s.groups.any (·.ctx == ctx) || s.xfers.any fun x => !x.creation && x.stage == .ring && x.image.ctx == ctx

/-- Leaves of a range: the first byte of each page, its entry, and the entry's local address. -/
def State.leavesIn (s : State) (ctx va len : Nat) : List (Nat × W64 × Nat) :=
  (List.range (len / 0x10000)).filterMap fun i =>
    let a := va + 0x10000 * i
    match s.walk ctx (BitVec.ofNat 64 a) with
    | .leaf p at' => if a % pteBytes p = 0 ∨ i = 0 then some (a / pteBytes p * pteBytes p, p, at') else none
    | _ => none

/-- The leaves of a range are cleared, leave every TLB, and free their frames (R302, R379). -/
def State.clearLeaves (s : State) (ctx : Nat) (ls : List (Nat × W64 × Nat)) : State :=
  ls.foldl (fun t (b, p, at') =>
    let t : State := { t with mem := t.mem.write at' (t.mem.read at' &&& 0xFE) }
    let t := (t.invalidate (.page ctx b (pteBytes p))).freeFrames (leafLoc p 0)
    t.modCtx ctx fun x => { x with exports := x.exports.filter fun e => Loc.mem e.1 != leafLoc p 0 }) s

/-- CTX_DESTROY (R379, R410): what the K9 keeps by the context's id is forgotten, and contexts that it served are the ROM's. -/
def execCtxDestroy (c : CmdBlock) (s : State) : Out :=
  let id := c.ctx.toNat
  s.command c (argsFrom c 0) .any fun _ =>
    if s.residents id || s.grids.any (·.ctx == id) || s.launches.any (·.ctx == id) then s.finishCmd c 8
    else
      let t := (s.failWords id).clearLeaves id (s.leavesIn id Config.reservedVa (0x10000 * queuePages (s.cmdCtx c).logq))
      { (t.tlbDrop (.ctx id)).cmdOk c with
        ctxs := (t.ctxs.filter (·.id != id)).map fun x => { x with service := if x.service.any (·.1 == id) then none else x.service }
        istore := t.istore.filter (·.2.1 != id)
        passes := t.passes.filter fun p => match p.cand with | .task c _ _ => c != id | _ => true
        spmCtx := t.spmCtx.filter (·.2 != id + 1), bandCtx := t.bandCtx.filter (·.2 != id + 1)
        mcast := t.mcast.filter fun e => SMap.get 0 t.mcastCtx e.1 != id, mcastCtx := t.mcastCtx.filter (·.2 != id)
        cam := t.cam.filter (·.ctx != id), reductions := t.reductions.filter (·.ctx != id) }

/-! ### MAP, UNMAP, MIGRATE (R379, R409) -/

/-- Whether a range lies below the range reserved to the firmware (R410). -/
def belowReserved (va len : W64) : Bool := decide (va.toNat + len.toNat ≤ Config.reservedVa)

/-- Whether the arguments of MAP keep its rules (R297, R298, R409). -/
def mapGood (c : CmdBlock) : Bool :=
  let t := c.arg2
  let size := pteBytes t
  let tier := pteTier t
  bitAt t 0 && fldN t 33 2 != 3 && leafGood (fldN t 33 2) t && (tier != 3 || fldN t 24 9 == 0)
    && fldN c.arg3 3 61 == 0 && c.arg0.toNat % size == 0 && c.arg1.toNat % size == 0 && belowReserved c.arg0 c.arg1
    && (if tier ≤ 1 then fldN t 38 26 == 0 else fldN c.arg3 0 2 == 0 && decide (fldN t 38 26 + c.arg1.toNat / 0x10000 ≤ 2 ^ 26))

/-- The multicast group of pages that allow MCAST is filled by the firmware, for the context: with which members is unspecified (R316). -/
def State.fillMcast (s : State) (ctx : Nat) (t : W64) : State :=
  if pteTier t ≤ 1 ∧ bitAt t 21 ∧ (SMap.get [] s.mcast (fldN t 24 9)).isEmpty then
    { s with mcastCtx := SMap.set 0 s.mcastCtx (fldN t 24 9) ctx
             mcast := SMap.set [] s.mcast (fldN t 24 9) ((List.range 512).filter fun p => Config.choose s.tick (9000 + p) % 2 == 1) }
  else s

/-- MAP (R409). -/
def execMap (c : CmdBlock) (s : State) : Out :=
  let t := c.arg2
  let ctx := c.ctx.toNat
  let va := c.arg0.toNat
  let n := c.arg1.toNat / pteBytes t
  let exp := bitAt c.arg3 2
  s.command c (mapGood c) .context fun _ =>
    if pteD t && !bitAt (s.cmdCtx c).feats 1 then s.finishCmd c 4
    else
      let mapped : Option State :=
        if 2 ≤ pteTier t then s.mapRun ctx va t false (fldN t 38 26) n
        else if bitAt c.arg3 0 then s.mapPages ctx t exp ((List.range n).map fun i => va + pteBytes t * i)
        else some s
      match mapped with
      | none => s.finishCmd c 7
      | some u =>
        let u := if bitAt c.arg3 1 then u.modCtx ctx fun x => { x with demand := (va, c.arg1.toNat, t, exp) :: x.demand } else u
        (u.fillMcast ctx t).cmdOk c

/-- Whether a range may be unmapped or migrated: whole pages below the reserved range. -/
def State.rangeGood (s : State) (c : CmdBlock) : Bool :=
  c.arg0.toNat % 0x10000 == 0 && c.arg1.toNat % 0x10000 == 0 && belowReserved c.arg0 c.arg1
    && (s.leavesIn c.ctx.toNat c.arg0.toNat c.arg1.toNat).all fun l =>
      decide (c.arg0.toNat ≤ l.1) && decide (l.1 + pteBytes l.2.1 ≤ c.arg0.toNat + c.arg1.toNat)

/-- UNMAP (R379): it waits, as TLBINV does, for accesses that used the translations (R302). -/
def execUnmap (c : CmdBlock) (s : State) : Out :=
  let ctx := c.ctx.toNat
  let ls := s.leavesIn ctx c.arg0.toNat c.arg1.toNat
  s.command c (argsFrom c 2 && s.rangeGood c) .context fun _ =>
    if ls.any fun l => s.unsettled (.page ctx l.1 (pteBytes l.2.1)) || s.engineUnsettled (.page ctx l.1 (pteBytes l.2.1)) then s else (s.clearLeaves ctx ls).cmdOk c

/-- The new entry of a page of MIGRATE: tier and frame as ARG2 gives them in a PTE's places, WP clear. -/
def migrateEntry (c : CmdBlock) (l : Nat × W64 × Nat) : W64 :=
  let frame := fldN c.arg2 38 26 + (l.1 - c.arg0.toNat) / 0x10000
  (l.2.1 &&& ~~~(0xFFFFFFC0000000E0 : W64)) ||| BitVec.ofNat 64 (pteTier c.arg2 * 2 ^ 6 + frame * 2 ^ 38)

/-- The frames of new entries are handed out, all or none. -/
def State.takeFrames (s : State) : List W64 → Option State
  | [] => some s
  | p :: ps =>
    let tier := pteTier p
    let f := fldN p 38 26
    let n := pteBytes p / 0x10000
    let used := s.handedOut tier ++ (if tier = 0 then s.rootFrames else [])
    if 2 ≤ tier then s.takeFrames ps
    else if used.all fun u => decide (f + n ≤ u.1) || decide (u.1 + u.2 ≤ f) then
      State.takeFrames (if tier = 0 then { s with frames := (f, n) :: s.frames } else { s with frames1 := (f, n) :: s.frames1 }) ps
    else none

/-- MIGRATE (R311, R379): MIGR page by page; the command completes when the last page has moved. -/
def execMigrate (c : CmdBlock) (s : State) : Out :=
  let ls := s.leavesIn c.ctx.toNat c.arg0.toNat c.arg1.toNat
  let pages := ls.map fun l => (BitVec.ofNat 64 l.1, migrateEntry c l)
  let good := argsFrom c 3 && c.arg2 &&& ~~~(0xFFFFFFC0000000C0 : W64) == 0 && s.rangeGood c
    && pages.all fun p => leafGood (fldN p.2 33 2) p.2 && decide (fldN c.arg2 38 26 + c.arg1.toNat / 0x10000 ≤ 2 ^ 26)
  s.command c good .context fun _ =>
    match s.takeFrames (pages.map (·.2)) with
    | none => s.finishCmd c 7
    | some t =>
      let m : Migrate := { op := t.nextId, ctx := c.ctx.toNat, cmd := (c.slot, c.cw.toNat, c.irq) }
      ({ t.fresh with migrates := t.migrates ++ [m], cmd := none } : State).startMigrate m pages

/-! ### LAUNCH (R17, R271 to R273, R379) -/

/-- LAUNCH and LAUNCH_COOP: COOP is set, the descriptor is checked, and the launch is queued; the firmware holds the command while the queue is full (R271). -/
def State.launchCmd (s : State) (c : CmdBlock) (coop : Bool) : Out :=
  let ctx := c.ctx.toNat
  s.command c (argsFrom c 1) .context fun _ =>
    if c.arg0.toNat % 128 ≠ 0 then s.finishCmd c 4
    else
      match s.deviceRead ctx c.arg0 128 with
      | none => s.finishCmd c 4
      | some n =>
        let flags := n / 2 ^ 248 % 256 / 2 * 2 + coop.toNat
        let t := s.deviceWrite ctx (c.arg0 + 31) [BitVec.ofNat 8 flags]
        let d := { descOf n with coop := coop }
        match t.descStatus ctx d with
        | some st => t.finishCmd c st
        | none =>
          if 64 ≤ (t.launches.filter fun l => l.ctx == ctx && l.prio == d.prio).length then t
          else
            let l : Launch := { ctx := ctx, prio := d.prio, va := c.arg0, coop := coop, cmd := some (c.slot, c.cw.toNat, c.irq) }
            { t with cmd := none, launches := t.launches ++ [l] }

/-- LAUNCH (R379). -/
def execLaunch (c : CmdBlock) (s : State) : Out := s.launchCmd c false

/-- LAUNCH_COOP (R37, R379). -/
def execLaunchCoop (c : CmdBlock) (s : State) : Out := s.launchCmd c true

/-! ### Pre-emption and reset of a context (R38, R39, R379) -/

/-- A pending PREEMPT of a context without resident groups completes (R38). -/
def State.settlePreempts (s : State) : State :=
  s.ctxs.foldl (fun t x =>
    match x.deadline with
    | some (_, cmd) => if s.residents x.id then t else (t.completeCmd (some cmd) 0).modCtx x.id fun y => { y with deadline := none }
    | none => t) s

/-- SR_PREQ of every group of a context. -/
def State.setPreq (s : State) (ctx : Nat) (b : Bool) : State :=
  { s with groups := s.groups.map fun g => if g.ctx = ctx then { g with preq := b } else g
           xfers := s.xfers.map fun x => if x.image.ctx = ctx then { x with image := { x.image with preq := b } } else x }

/-- PREEMPT (R38): dispatch stops, SR_PREQ is set, the deadline starts; it completes when no group is resident. -/
def execPreempt (c : CmdBlock) (s : State) : Out :=
  let us := if c.arg1 = 0 then 50000 else c.arg1.toNat
  s.command c (c.arg0 == 0 && argsFrom c 2) .context fun _ =>
    if (s.cmdCtx c).deadline.isSome then s.finishCmd c 8
    else
      let t := s.modCtx c.ctx.toNat fun x =>
        { x with preempt := true, deadline := some (BitVec.ofNat 64 (min (s.clk.toNat + 700 * us) (2 ^ 64 - 1)), (c.slot, c.cw.toNat, c.irq)) }
      { t.setPreq c.ctx.toNat true with cmd := none }.settlePreempts

/-- PREEMPT with RESUME (R379): SR_PREQ is 0 and dispatch restarts. -/
def execPreemptResume (c : CmdBlock) (s : State) : Out :=
  s.command c (c.arg0 == 1 && argsFrom c 2) .context fun _ =>
    (((s.modCtx c.ctx.toNat fun x => { x with preempt := false }).setPreq c.ctx.toNat false).cmdOk c)

/-- PREEMPT_DEADLINE (R39): the context is forcibly reset and LOST. -/
def execPreemptDeadline (ctx : Nat) (s : State) : Out :=
  match (s.ctx? ctx).bind (·.deadline) with
  | none => go s
  | some (at', _) => go (if at'.toNat ≤ s.clk.toNat then s.killContext ctx 9 true else s)

/-- The task queues of a context are empty: HEAD meets TAIL. -/
def State.emptyQueues (s : State) (ctx : Nat) : State :=
  (List.range 96).foldl (fun t k =>
    match t.taskQueueLoc ctx (k / 4) (k % 4) with
    | some l => t.homePut (l.add 16) 8 (t.num (l.add 24) 8)
    | none => t) s

/-- RESET_CONTEXT (R379): killed as R39 does, and left empty and usable. -/
def execResetContext (c : CmdBlock) (s : State) : Out :=
  s.command c (argsFrom c 0) .any fun _ => ((s.killContext c.ctx.toNat 0x0B false).emptyQueues c.ctx.toNat).cmdOk c

/-! ### QUERY (R411) -/

/-- Code of STATE (R373). -/
def devCode : DevState → Nat
  | .boot => 1 | .test => 2 | .waitpatch => 3 | .link => 4 | .ready => 5 | .failed => 7

/-- PEER (R373). -/
def State.peerReg (s : State) : Nat := s.peer.getD 0x3FF

/-- QUERY item 0 (R411): under a patch, unspecified (R382). -/
def execQueryDevice (c : CmdBlock) (s : State) : Out :=
  let res : W64 × W64 := if s.patched then (Config.free64 s.tick 5200, Config.free64 s.tick 5201)
    else (Config.idReg, BitVec.ofNat 64 (devCode s.dev + s.peerReg * 2 ^ 16))
  s.command c (c.arg0 == 0 && argsFrom c 1) .nothing fun _ => s.finishCmd c 0 (some res)

/-- Whether eight bytes of a context may be written through window 0. -/
def State.writable (s : State) (ctx : Nat) (va : W64) : Bool :=
  decide (va.toNat < 2 ^ 60) && match s.walk ctx (BitVec.ofNat 64 (va.toNat % 2 ^ 56)) with
    | .leaf p _ => pteAllows p .store 0
    | _ => false

/-- A write of the firmware through window 0; what goes to a host page leaves the device (log 8). -/
def State.bufferWrite (s : State) (ctx : Nat) (va : W64) (bs : List Byte) : State :=
  if (s.deviceLoc ctx va).isSome then s.deviceWrite ctx va bs else s

/-- QUERY item 1 (R411): the 96 header addresses are written through window 0. -/
def execQueryTaskQueues (c : CmdBlock) (s : State) : Out :=
  let at' (k : Nat) : W64 := (c.arg1 &&& 0xFFFFFFFFFFFFFF) + BitVec.ofNat 64 (8 * k)
  let ok := c.arg1.toNat % 8 == 0 && decide (c.arg1.toNat < 2 ^ 57) && (List.range 96).all fun k => s.writable c.ctx.toNat (at' k)
  s.command c (c.arg0 == 1 && argsFrom c 2) .any fun _ =>
    if !ok then s.finishCmd c 1
    else
      let t := (List.range 96).foldl (fun t k =>
        t.bufferWrite c.ctx.toNat (at' k) (bytesOf 8 (BitVec.ofNat 64 (taskQueue (k / 4) (k % 4))))) s
      t.finishCmd c 0 (some (0, 0))

/-- QUERY item 2 (R304, R379): how its results name the header that the firmware has placed is not given (log 10). -/
def execQueryFaultQueue (c : CmdBlock) (s : State) : Out :=
  s.command c (c.arg0 == 2 && argsFrom c 1) .nothing fun _ => s.finishCmd c 0 (some (Config.free64 0 5210, Config.free64 0 5211))

/-- QUERY item 3 (R411). -/
def execQueryVersion (c : CmdBlock) (s : State) : Out :=
  let feats := if c.ctx = 0 then Config.features else (s.cmdCtx c).feats
  s.command c (c.arg0 == 3 && argsFrom c 1) (if c.ctx = 0 then .nothing else .any) fun _ =>
    (s.finishCmd c 0 (some (BitVec.ofNat 64 (s.version.getD 0), feats)))

/-- QUERY item 4 (R344, R411). -/
def execQueryPeerState (c : CmdBlock) (s : State) : Out :=
  let p := c.arg1.toNat
  let st := match s.peer with
    | none => 0
    | some own => if own = p then peerCode s.domain else peerCode (SMap.get .absent s.peers p)
  s.command c (c.arg0 == 4 && argsFrom c 2 && decide (p ≤ 511)) .nothing fun _ => s.finishCmd c 0 (some (BitVec.ofNat 64 st, 0))

/-! ### SET_MODE (R380) -/

/-- A SET_MODE item of the device: DENIED unless CTX is 0 (R380). -/
def State.deviceItem (s : State) (c : CmdBlock) (item : W64) (good : Bool) (k : State) : Out :=
  s.command c (c.arg0 == item && c.arg3 == 0 && good) .device fun _ => if c.ctx ≠ 0 then s.finishCmd c 0x0C else k.cmdOk c

/-- A SET_MODE item of a context. -/
def State.contextItem (s : State) (c : CmdBlock) (item : W64) (good : Bool) (f : Context → Context) : Out :=
  s.command c (c.arg0 == item && argsFrom c 2 && good) .context fun _ => (s.modCtx c.ctx.toNat f).cmdOk c

/-- Item 0 (R385, R386). -/
def execSetOperatingPoint (c : CmdBlock) (s : State) : Out :=
  let pt : OpPoint := match c.arg1.toNat with | 0 => .full | 1 => .bal | 2 => .memh | _ => .screen
  let t : State := { s with point := pt }
  s.deviceItem c 0 (decide (c.arg1.toNat ≤ 3) && c.arg2 == 0) (if pt = .bal then t else (List.range t.ports.length).foldl State.widen t)

/-- Item 1: clears FCONS on one core or on all (R99, R339). -/
def execClearFcons (c : CmdBlock) (s : State) : Out :=
  let n := c.arg2.toNat
  s.deviceItem c 1 (c.arg1 == 0 && (decide (n < Config.cores) || n == 0xFF))
    { s with fcons := if n = 0xFF then 0 else s.fcons &&& ~~~((1 : BitVec 192) <<< n) }

/-- Item 2 (R322). -/
def execSetWdlim (c : CmdBlock) (s : State) : Out :=
  s.contextItem c 2 (decide (c.arg1.toNat < 2 ^ 40)) fun x => { x with wdlim := c.arg1.setWidth 40 }

/-- Item 3. -/
def execSetQosDefault (c : CmdBlock) (s : State) : Out :=
  s.contextItem c 3 (decide (c.arg1.toNat < 2 ^ 16)) fun x => { x with qos := c.arg1.setWidth 16 }

/-- Item 4 (R310): THRESH in bits 6:0, log2 BLOCK in bits 13:8. -/
def execSetPrefetchThreshold (c : CmdBlock) (s : State) : Out :=
  let th := fldN c.arg1 0 7
  let lb := fldN c.arg1 8 6
  s.contextItem c 4 (bitAt c.arg1 7 == false && fldN c.arg1 14 50 == 0 && decide (1 ≤ th) && decide (th ≤ 99) && decide (17 ≤ lb) && decide (lb ≤ 25))
    fun x => { x with thresh := th, logBlock := lb }

/-- Item 5 (R199): microseconds. -/
def execSetHostWaitLimit (c : CmdBlock) (s : State) : Out :=
  let n := c.arg1.toNat
  s.deviceItem c 5 (decide (1 ≤ n) && decide (n ≤ 1000) && c.arg2 == 0) { s with hostWait := n }

/-- Item 6 (R345): seconds. -/
def execSetRecoveryLimit (c : CmdBlock) (s : State) : Out :=
  let n := c.arg1.toNat
  s.deviceItem c 6 (decide (1 ≤ n) && decide (n ≤ 60) && c.arg2 == 0) { s with recovery := n }

/-- Item 7 (R344): this device's state in its domain is RUN. -/
def execSetDomainRun (c : CmdBlock) (s : State) : Out :=
  s.deviceItem c 7 (c.arg1 == 0 && c.arg2 == 0) { s with domain := if s.peer.isSome then .run else s.domain }

/-- Item 8 (R314): the region of a local address is no longer pinned. -/
def execUnpinRegion (c : CmdBlock) (s : State) : Out :=
  s.deviceItem c 8 (c.arg1 == 0 && decide (c.arg2.toNat < Config.tier1Base + Config.lpddrBytes))
    (s.modToken (c.arg2.toNat / 2 ^ 21) fun t => { t with pinned := false })

/-! ### The other commands (R379) -/

/-- SERVICE_ATTACH (R309, R379): the command names the context whose launch serves, ARG1 the context served; DENIED unless the descriptor asks for service. -/
def execServiceAttach (c : CmdBlock) (s : State) : Out :=
  let toward := c.arg1.toNat
  s.command c (argsFrom c 2 && decide (toward < 2 ^ 16)) (if c.arg0 = 0 then .device else .context) fun _ =>
    if (s.ctx? toward).isNone then s.finishCmd c 3
    else if c.arg0 = 0 then (s.modCtx toward fun x => { x with service := none }).cmdOk c
    else
      match s.deviceRead c.ctx.toNat c.arg0 128 with
      | some n =>
        if c.arg0.toNat % 128 = 0 ∧ (descOf n).svc then (s.modCtx toward fun x => { x with service := some (c.ctx.toNat, c.arg0) }).cmdOk c
        else s.finishCmd c 0x0C
      | none => s.finishCmd c 0x0C

/-- SCRUB_CFG (R347, R379). -/
def execScrubCfg (c : CmdBlock) (s : State) : Out :=
  let n := c.arg0.toNat
  s.command c (decide (1 ≤ n) && decide (n ≤ 10000) && decide (c.arg1.toNat ≤ 1) && argsFrom c 2) .device fun _ =>
    ({ s with scrubPeriod := n, scrubWeighted := bitAt c.arg1 0 }.cmdOk c)

/-- SCREEN_CFG (R340, R379). -/
def execScreenCfg (c : CmdBlock) (s : State) : Out :=
  let n := c.arg0.toNat
  let good : Bool := ((List.range 17).any fun k => decide (4 ≤ k) && n == 2 ^ k) && c.arg1 != 0 && decide (c.arg1.toNat < 2 ^ 32) && argsFrom c 2
  s.command c good .context fun _ => (s.modCtx c.ctx.toNat fun x => { x with screenN := n, lfsr := c.arg1.setWidth 32 }).cmdOk c

/-- The ports that LINK_LOCK names. -/
def linkPorts (c : CmdBlock) : List Nat := if c.arg0.toNat = 0xFF then List.range 72 else [c.arg0.toNat]

/-- LINK_LOCK (R367, R379): BADLINK, and nothing done, unless every port named is in the state that the action needs. -/
def State.linkLock (s : State) (c : CmdBlock) (action : W64) (needs : Port → Bool) (f : State → Nat → State) : Out :=
  s.command c ((decide (c.arg0.toNat < 72) || c.arg0.toNat == 0xFF) && c.arg1 == action && argsFrom c 2) .device fun _ =>
    if (linkPorts c).all fun n => needs (s.port n) then ((linkPorts c).foldl f s).cmdOk c else s.finishCmd c 0x0D

/-- LINK_LOCK UNLOCK (R367): the keys are erased, and what travels on the port ends by R355. -/
def execLinkLockUnlock (c : CmdBlock) (s : State) : Out :=
  s.linkLock c 0 (fun _ => true) fun t n =>
    (t.portDown n).modPort n fun p => { p with lock := .unlocked, keys := false, spdm := .idle, digest := none, iv := 0, rxIv := 0, txKey := 0, rxKey := 0 }

/-- LINK_LOCK LOCK (R367): from UNLOCKED, once an SPDM session is established; the digest of the configuration is a value that the spec does not give. -/
def execLinkLockLock (c : CmdBlock) (s : State) : Out :=
  s.linkLock c 1 (fun p => p.lock == .unlocked && p.spdm == .session && p.version != 0) fun t n =>
    t.modPort n fun p => { p with lock := .locked, digest := some (s.freeWide (1325 + n)) }

/-- LINK_LOCK START (R367): from LOCKED; whether the far end is LOCKED too is unspecified. -/
def execLinkLockStart (c : CmdBlock) (s : State) : Out :=
  s.linkLock c 2 (fun p => p.lock == .locked && Config.choose s.tick 5400 % 2 == 1) fun t n =>
    t.modPort n fun p => { p with lock := .run }

/-! ### The command in hand -/

/-- The command in hand runs by its code, item and action; a reserved code is refused (R377, R379, R380). -/
def State.runCommand (s : State) (c : CmdBlock) : Out :=
  let bad : Out := go (s.finishCmd c ((s.cmdRefused c false .nothing).getD 1))
  match c.opc.toNat with
  | 0x01 => execNegotiate c s
  | 0x02 => execCtxCreate c s
  | 0x03 => execCtxDestroy c s
  | 0x04 => execMap c s
  | 0x05 => execUnmap c s
  | 0x06 => execMigrate c s
  | 0x07 => execLaunch c s
  | 0x08 => execLaunchCoop c s
  | 0x09 => if bitAt c.arg0 0 then execPreemptResume c s else execPreempt c s
  | 0x0A => execResetContext c s
  | 0x0B =>
    match c.arg0.toNat with
    | 0 => execQueryDevice c s
    | 1 => execQueryTaskQueues c s
    | 2 => execQueryFaultQueue c s
    | 3 => execQueryVersion c s
    | 4 => execQueryPeerState c s
    | _ => bad
  | 0x0C =>
    match c.arg0.toNat with
    | 0 => execSetOperatingPoint c s
    | 1 => execClearFcons c s
    | 2 => execSetWdlim c s
    | 3 => execSetQosDefault c s
    | 4 => execSetPrefetchThreshold c s
    | 5 => execSetHostWaitLimit c s
    | 6 => execSetRecoveryLimit c s
    | 7 => execSetDomainRun c s
    | 8 => execUnpinRegion c s
    | _ => bad
  | 0x0D => execServiceAttach c s
  | 0x0E => execScrubCfg c s
  | 0x0F => execScreenCfg c s
  | 0x10 =>
    match c.arg1.toNat with
    | 0 => execLinkLockUnlock c s
    | 1 => execLinkLockLock c s
    | 2 => execLinkLockStart c s
    | _ => bad
  | _ => bad

end Sys2Proof.Machine
end

