-- ==== Sys2Proof/Machine/Bringup.lean ====
section
/-! DEFINITION. Reset, power and bring-up, patches, and writes to the control aperture's registers (R372, R373, R382 to R384). -/

namespace Sys2Proof.Machine

open Sys2Proof

/-- The device starts again from BOOT: every context ends without a status, and nothing else is kept (R383, R384). -/
def State.restart (s : State) (power : Bool) : State :=
  { State.reset with inputs := s.inputs, tick := s.tick, nextId := s.nextId, power := power }

/-- STATE changes (R373). -/
def State.setDev (s : State) (d : DevState) : State := { s with dev := d, devAt := s.clk }

/-- A step of bring-up that is taken in one STATE only. -/
def State.bringup (s : State) (d : DevState) (t : State) : Out := go (if s.dev = d then t else s)

/-- The answer of the PCIe function to a configuration request (R371). -/
inductive ConfigAnswer where
  /-- Configuration Request Retry Status. -/
  | rrs
  /-- Successful completion. -/
  | done
  deriving DecidableEq, Repr

/-- Until bring-up step 5 the function returns Configuration RRS (R371, R383). No step of the opcode table takes a configuration request. -/
def State.configAnswer (s : State) : ConfigAnswer := if s.dev = .ready then .done else .rrs

/-- POWER_ON (R383, R384). -/
def execPowerOn (s : State) : Out := go (if s.power then s else s.restart true)

/-- POWER_LOSS (R384). -/
def execPowerLoss (s : State) : Out := go (s.restart false)

/-- FUNCTION_LEVEL_RESET (R371, R383). -/
def execFunctionLevelReset (s : State) : Out := go (s.restart true)

/-- RESET (R373): as Function Level Reset. -/
def execReset (s : State) : Out := go (s.restart true)

/-- ROM_DIGEST_CHECK_DONE (R383, step 1). -/
def execRomDigestCheckDone (good : Bool) (s : State) : Out := s.bringup .boot (s.setDev (if good then .test else .failed))

/-- SELF_TEST_DONE (R383, step 2). -/
def execSelfTestDone (s : State) : Out := s.bringup .test (s.setDev .waitpatch)

/-- What a patch image in place leads to: a good one is accepted, a bad one is refused with an event (R382). -/
def State.takePatch (s : State) (good : Bool) : State := (if good then { s with patched := true } else s.post { type := 0x0D }).setDev .link

/-- PATCHGO_PATCH (R382): bring-up goes on either way. -/
def execPatchgoPatch (good : Bool) (s : State) : Out := s.bringup .waitpatch (s.takePatch good)

/-- PATCHGO_CONTINUE (R383, step 3). -/
def execPatchgoContinue (s : State) : Out := s.bringup .waitpatch (s.setDev .link)

/-- PATCH_WAIT_TIMEOUT (R383, step 3): after 1 s in WAITPATCH. -/
def execPatchWaitTimeout (s : State) : Out :=
  s.bringup .waitpatch (if 700000000 ≤ (s.clk - s.devAt).toNat then s.setDev .link else s)

/-- The firmware places the fault queue: an empty one of an unspecified capacity, header and entries in fresh frames of tier 0 (R304; log 10). -/
def State.placeFaultQueue (s : State) : State :=
  let logCap := 4 + Config.choose s.tick 8550 % 13
  match s.allocFrames 0 33 with
  | none => s
  | some (t, f) =>
    let header := bytesOf 8 (BitVec.ofNat 64 (f * 0x10000 + 0x10000)) ++ [BitVec.ofNat 8 logCap] ++ List.replicate 55 0
    { t with mem := t.mem.writeN (f * 0x10000) header, fq := { header := some (f * 0x10000) } }

/-- LINK_TRAINING_DONE (R383, steps 4 and 5): ports are trained and stay UNLOCKED, FCONS is clear on every core, the fault queue is placed;
whether the device is in a domain, and as which peer, is unspecified (R352, R373). -/
def execLinkTrainingDone (s : State) : Out :=
  let k := Config.choose s.tick 8500 % 513
  s.bringup .link { (s.setDev .ready).placeFaultQueue with
    fcons := 0, peer := if k = 512 then none else some k, domain := if k = 512 then .absent else .run
    ports := s.ports.map fun p => { p with lane0 := true, lane1 := true, width := 2 } }

/-- Bytes written to the MSI-X table or to the patch area, each by itself; those of other offsets are dropped (R372). -/
def State.controlBytes (s : State) (off : Nat) (bs : List Byte) : State :=
  ((List.range bs.length).zip bs).foldl (fun t x =>
    let a := off + x.1
    if 0x1000 ≤ a ∧ a < 0x2000 then { t with msix := t.msix.write (a - 0x1000) x.2 }
    else if 0x100000 ≤ a ∧ a < 0x200000 then { t with patch := t.patch.write (a - 0x100000) x.2 }
    else t) s

/-- What a write of PATCHGO does, in WAITPATCH (R373, R382, R383). -/
def State.patchgo (s : State) (b : Byte) : State :=
  if s.dev ≠ .waitpatch then s
  else if bitAt b 0 then s.takePatch (Config.choose s.tick 8600 % 2 == 1)
  else if bitAt b 1 then s.setDev .link else s

/-- A store to the control aperture outside the command area: PATCHGO and RESET act by the byte that reaches them, the patch area and the MSI-X
table take the bytes, any other is dropped (R372, R373). -/
def State.controlStore (s : State) (off : Nat) (bs : List Byte) : State :=
  let byte (a : Nat) : Byte := if off ≤ a then bs.getD (a - off) 0 else 0
  if bitAt (byte 0x28) 0 then s.restart true else (s.controlBytes off bs).patchgo (byte 0x20)

/-- CONTROL_REGISTER_WRITE (R372, R373, R382): an 8-byte store to the control aperture outside the command area. -/
def execControlRegisterWrite (off : Nat) (data : W64) (s : State) : Out := go (s.controlStore off (bytesOf 8 data))

end Sys2Proof.Machine
end

