-- ==== Sys2Proof/Machine/Functions.lean ====
section
/-! DEFINITION. Opcodes 0x50 to 0x56: the correctly rounded functions of R132, by fixed-point series whose precision rises until both ends of the error interval round alike. -/

namespace Sys2Proof.Machine

open Sys2Proof

/-! ### Fixed-point series: an integer x stands for x 2^-p -/

/-- Sum of the series of e^r with n terms left: term holds r^k/k!. -/
def expTerms (p : Nat) (r : Int) : Nat → Int → Int → Int → Int
  | 0, _, _, acc => acc
  | n + 1, k, term, acc =>
    let t := term * r / 2 ^ p / k
    if t = 0 then acc else expTerms p r n (k + 1) t (acc + t)

/-- e^r for a small r. -/
def expFix (p : Nat) (r : Int) : Int := expTerms p r (p + 8) 1 (2 ^ p) (2 ^ p)

/-- Sum of z^(2k+1)/(2k+1), with alternating signs where alt is set. -/
def oddTerms (p : Nat) (z2 : Int) (alt : Bool) : Nat → Int → Int → Int → Int
  | 0, _, _, acc => acc
  | n + 1, k, zk, acc =>
    let z := (if alt then -zk else zk) * z2 / 2 ^ p
    if z = 0 then acc else oddTerms p z2 alt n (k + 2) z (acc + z / k)

/-- atanh z. -/
def atanhFix (p : Nat) (z : Int) : Int := oddTerms p (z * z / 2 ^ p) false (p + 8) 3 z z

/-- atan (1/n). -/
def atanInv (p : Nat) (n : Int) : Int :=
  let z : Int := 2 ^ p / n
  oddTerms p (z * z / 2 ^ p) true (p + 8) 3 z z

/-- ln 2 = 2 atanh (1/3). -/
def ln2Fix (p : Nat) : Int := 2 * atanhFix p (2 ^ p / 3)

/-- pi by Machin's formula. -/
def piFix (p : Nat) : Int := 16 * atanInv p 5 - 4 * atanInv p 239

/-- Sum of the terms of sine or cosine: term holds ±r^k/k!. -/
def trigTerms (p : Nat) (r2 : Int) : Nat → Int → Int → Int → Int
  | 0, _, _, acc => acc
  | n + 1, k, term, acc =>
    let t := -(term * r2 / 2 ^ p / ((k + 1) * (k + 2)))
    if t = 0 then acc else trigTerms p r2 n (k + 2) t (acc + t)

/-- sin r for a small r. -/
def sinFix (p : Nat) (r : Int) : Int := trigTerms p (r * r / 2 ^ p) (p + 8) 1 r r
/-- cos r for a small r. -/
def cosFix (p : Nat) (r : Int) : Int := trigTerms p (r * r / 2 ^ p) (p + 8) 0 (2 ^ p) (2 ^ p)

/-- Sum of (-1)^n x^(2n)/(n! (2n+1)): pw holds (-1)^n x^(2n)/n!. -/
def erfTerms (p : Nat) (x2 : Int) : Nat → Int → Int → Int → Int
  | 0, _, _, acc => acc
  | n + 1, k, pw, acc =>
    let t := -(pw * x2 / 2 ^ p / k)
    if t = 0 then acc else erfTerms p x2 n (k + 1) t (acc + t / (2 * k + 1))

/-! ### Rounding an approximation -/

/-- A nonnegative approximation y 2^e whose error is below err units. -/
structure Approx where
  y : Int
  err : Int
  e : Int

/-- Both ends of the interval round to this code; none where they differ. -/
def Approx.settle (neg : Bool) (a : Approx) : Option Nat :=
  let lo := fp32.round .rne neg ⟨(max 0 (a.y - a.err)).toNat, a.e, true⟩
  let hi := fp32.round .rne neg ⟨(a.y + a.err).toNat, a.e, true⟩
  if lo = hi then some lo else none

/-- The first precision of a list at which an approximation settles; the last one decides. -/
def firstSettled (neg : Bool) (f : Nat → Approx) : List Nat → Nat
  | [] => 0
  | [p] => fp32.round .rne neg ⟨(f p).y.toNat, (f p).e, true⟩
  | p :: ps => match (f p).settle neg with | some c => c | none => firstSettled neg f ps

/-- e^r for a small r that is not positive: a number from 0 to 1. -/
def expUnit (p : Nat) (r : Int) : Int := max 0 (min (2 ^ p) (expFix p r))

/-- The precisions tried. -/
def precisions : List Nat := [96, 192, 384, 768]

/-- x 2^p of a value m 2^e, rounded down. -/
def toFix (p : Nat) (m : Nat) (e : Int) : Nat :=
  if 0 ≤ e + p then m * 2 ^ (e + p).toNat else m / 2 ^ (-(e + p)).toNat

/-- A signed value as a fixed-point integer. -/
def signFix (p : Nat) (n : Bool) (m : Nat) (e : Int) : Int := if n then -(toFix p m e : Int) else (toFix p m e : Int)

/-! ### The functions, each on one FP32 value -/

/-- 2^a at precision p. -/
def exp2Approx (n : Bool) (m : Nat) (e : Int) (p : Nat) : Approx :=
  let q := p + 200
  let x := signFix q n m e
  let k := x / 2 ^ q
  let r := (x - k * 2 ^ q) * ln2Fix q / 2 ^ q
  ⟨expFix q r, 2 ^ 100, k - q⟩

/-- 2^a (R132). -/
def fexp2 (a : Fp) : Nat :=
  match a with
  | .nan => fp32.nanCode
  | .inf n => if n then 0 else fp32.infCode false
  | .fin n m e =>
    if m = 0 then one32
    else if Fp.lt true (.fin false 127 0) a && !Fp.lt true a (.fin false 128 0) then fp32.infCode false
    else if Fp.lt true a (.fin true 151 0) then 0
    else if 0 ≤ e ∨ m % 2 ^ (-e).toNat = 0 then
      fp32.round .rne false ⟨1, signFix 0 n m e, false⟩
    else firstSettled false (exp2Approx n m e) precisions

/-- log2 of m 2^e at precision p, with its sign. -/
def log2Fix (m : Nat) (e : Int) (p : Nat) : Int :=
  let x : Int := toFix p m (-(m.log2 : Int))
  let z := (x - 2 ^ p) * 2 ^ p / (x + 2 ^ p)
  exptOf m e * 2 ^ p + 2 * atanhFix p z * 2 ^ p / ln2Fix p

/-- Whether log2 of m 2^e is negative. -/
def log2Neg (m : Nat) (e : Int) : Bool := decide (log2Fix m e 96 < 0)

/-- The magnitude of log2 of m 2^e at precision p. -/
def log2Approx (m : Nat) (e : Int) (p : Nat) : Approx :=
  ⟨if log2Neg m e then -log2Fix m e p else log2Fix m e p, 2 ^ 20, -p⟩

/-- log2 a (R132). -/
def flog2 (a : Fp) : Nat :=
  match a with
  | .nan => fp32.nanCode
  | .inf n => if n then fp32.nanCode else fp32.infCode false
  | .fin n m e =>
    if m = 0 then fp32.infCode true
    else if n then fp32.nanCode
    else
      let k := exptOf m e
      if m = 2 ^ m.log2 then fp32.round .rne (decide (k < 0)) (magOf k 0)
      else firstSettled (log2Neg m e) (log2Approx m e) precisions

/-- Quadrant and remainder of x by pi/2 at precision p. -/
def quadrant (p : Nat) (x : Int) : Int × Int :=
  let h := piFix p / 2
  let k := (2 * x + h) / (2 * h)
  (k % 4, x - k * h)

/-- sin x or cos x, by the quadrant, at precision p, with its sign. -/
def trigFix (cosine n : Bool) (m : Nat) (e : Int) (p : Nat) : Int :=
  let q := p + 400
  let (k, r) := quadrant q (signFix q n m e)
  match (if cosine then k + 1 else k) % 4 with
  | 0 => sinFix q r
  | 1 => cosFix q r
  | 2 => -sinFix q r
  | _ => -cosFix q r

/-- Whether sin x or cos x is negative. -/
def trigNeg (cosine n : Bool) (m : Nat) (e : Int) : Bool := decide (trigFix cosine n m e 96 < 0)

/-- The magnitude of sin x or cos x at precision p. -/
def trigApprox (cosine n : Bool) (m : Nat) (e : Int) (p : Nat) : Approx :=
  ⟨if trigNeg cosine n m e then -trigFix cosine n m e p else trigFix cosine n m e p, 2 ^ 180, -((p : Int) + 400)⟩

/-- sin x or cos x (R132). -/
def trig (cosine n : Bool) (m : Nat) (e : Int) : Nat :=
  firstSettled (trigNeg cosine n m e) (trigApprox cosine n m e) precisions

/-- sin a (R132). A magnitude below 2^-12 rounds to itself. -/
def fsin (a : Fp) : Nat :=
  match a with
  | .nan | .inf _ => fp32.nanCode
  | .fin n m e =>
    if m = 0 ∨ exptOf m e < -12 then fp32.round .rne n ⟨m, e, false⟩ else trig false n m e

/-- cos a (R132). A magnitude below 2^-13 rounds to 1. -/
def fcos (a : Fp) : Nat :=
  match a with
  | .nan | .inf _ => fp32.nanCode
  | .fin n m e => if m = 0 ∨ exptOf m e < -13 then one32 else trig true n m e

/-- The magnitude of tanh a at precision p. -/
def tanhApprox (m : Nat) (e : Int) (p : Nat) : Approx :=
  let q := p + 64
  let u := expUnit q (-(2 * (toFix q m e : Int)))
  ⟨(2 ^ q - u) * 2 ^ q / (2 ^ q + u), 2 ^ 48, -q⟩

/-- tanh a (R132). A magnitude below 2^-13 rounds to itself, one of 16 and more to 1. -/
def ftanh (a : Fp) : Nat :=
  match a with
  | .nan => fp32.nanCode
  | .inf n => fp32.signed n one32
  | .fin n m e =>
    if m = 0 ∨ exptOf m e < -13 then fp32.round .rne n ⟨m, e, false⟩
    else if 4 ≤ exptOf m e then fp32.signed n one32
    else firstSettled n (tanhApprox m e) precisions

/-- 1 / (1 + e^-a) at precision p: e^-|a| is f 2^-k with f of full precision. -/
def sigmApprox (n : Bool) (m : Nat) (e : Int) (p : Nat) : Approx :=
  let q := p + 260
  let x := (toFix q m e : Int)
  let l := ln2Fix q
  let k := x / l
  let f := expUnit q (k * l - x)
  let ed := f / 2 ^ k.toNat
  if n then ⟨f * 2 ^ q / (2 ^ q + ed), 2 ^ 100, -q - k⟩
  else ⟨2 ^ (2 * q) / (2 ^ q + ed), 2 ^ 100, -q⟩

/-- 1 / (1 + e^-a) (R132). -/
def fsigm (a : Fp) : Nat :=
  match a with
  | .nan => fp32.nanCode
  | .inf n => if n then 0 else one32
  | .fin n m e =>
    if m = 0 then 0x3F000000
    else if 7 ≤ exptOf m e then (if n then 0 else one32)
    else firstSettled false (sigmApprox n m e) precisions

/-- The magnitude of erf a at precision p. -/
def erfApprox (m : Nat) (e : Int) (p : Nat) : Approx :=
  let q := p + 64
  let x := (toFix q m e : Int)
  let sum := erfTerms q (x * x / 2 ^ q) (4 * q) 1 (2 ^ q) (2 ^ q)
  let root : Int := isqrt (piFix q * 2 ^ q).toNat
  ⟨m * (2 * sum * 2 ^ q / root), m * 2 ^ 56, e - q⟩

/-- erf a (R132). A magnitude of 4 and more rounds to 1. -/
def ferf (a : Fp) : Nat :=
  match a with
  | .nan => fp32.nanCode
  | .inf n => fp32.signed n one32
  | .fin n m e =>
    if m = 0 then fp32.signed n 0
    else if 2 ≤ exptOf m e then fp32.signed n one32
    else firstSettled n (erfApprox m e) precisions

/-! ### The instructions -/

/-- R132. -/
def execFexp2 (f : VForm) (s : State) : Out := vecF f s fun l => fexp2 (fp32.value (fA f s l))
/-- R132. -/
def execFlog2 (f : VForm) (s : State) : Out := vecF f s fun l => flog2 (fp32.value (fA f s l))
/-- R132. -/
def execFsin (f : VForm) (s : State) : Out := vecF f s fun l => fsin (fp32.value (fA f s l))
/-- R132. -/
def execFcos (f : VForm) (s : State) : Out := vecF f s fun l => fcos (fp32.value (fA f s l))
/-- R132. -/
def execFtanh (f : VForm) (s : State) : Out := vecF f s fun l => ftanh (fp32.value (fA f s l))
/-- R132. -/
def execFsigm (f : VForm) (s : State) : Out := vecF f s fun l => fsigm (fp32.value (fA f s l))
/-- R132. -/
def execFerf (f : VForm) (s : State) : Out := vecF f s fun l => ferf (fp32.value (fA f s l))

end Sys2Proof.Machine
end

