-- ==== Sys2Proof/Machine/Host.lean ====
section
/-! DEFINITION. The host's accesses through the memory aperture and the control aperture, and the host wait limit (R199, R371 to R374, R381). -/

namespace Sys2Proof.Machine

open Sys2Proof

/-- The operation of a host access, at system scope (R199). -/
def State.hostOp (s : State) (h : HostAccess) (ctx : Nat) : MemOp :=
  { id := s.nextId, owner := .host h.requester, kind := if h.write then .store else .load, ctx := ctx, sz := Nat.log2 h.size, scope := 6
    opc := if h.write then 0xA1 else 0xA0, dplace := 1, core := Config.cores }

/-- The element of a host access. -/
def hostElem (h : HostAccess) (va : W64) : Elem := { va := va, size := h.size, data := h.data.setWidth 256 }

/-- Whether an access has a size that an element can have (R60, R181); the outside splits what is longer (log 3). -/
def hostSize (h : HostAccess) : Bool := [1, 2, 4, 8, 16, 32].contains h.size

/-- A host access is refused (R199, R381). -/
def State.hostRefused (s : State) (h : HostAccess) (ctx : Nat) (addr : W64) : State :=
  let t := s.post { type := 0x0C, ctx := ctx, addr := addr }
  if h.write then t else t.reply h.requester (BitVec.ofNat 256 (onesOf h.size))

/-- An operation of one element is performed at once where it can be, and answered (R199). -/
def State.hostRun (s : State) (o : MemOp) (e : Elem) : State :=
  let t : State := { s.fresh with mops := s.mops ++ [{ o with elems := [e] }] }
  (t.homeRequest o.id e.req).deliverRequest o.id e.req (BitVec.allOnes 64)

/-- HOST_MEMORY_ACCESS (R199, R381). -/
def execHostMemoryAccess (h : HostAccess) (s : State) : Out :=
  match s.ctxs.find? (·.aperture.isSome) with
  | none => go (s.hostRefused h 0 (BitVec.ofNat 64 h.off))
  | some x =>
    let va : W64 := x.aperture.getD 0 + BitVec.ofNat 64 (h.off % 2 ^ 40) + BitVec.ofNat 64 (h.off / 2 ^ 40 % 16 * 2 ^ 56)
    if !hostSize h then go (s.hostRefused h x.id va)
    else
      let o := s.hostOp h x.id
      match s.placeGlobal o 240 (hostElem h va) with
      | (t, .fault _) => go (t.hostRefused h x.id va)
      | (t, .parks wp) =>
        let e := (hostElem h va).parkedOn (fldN va 56 4) wp t.nextId
        let u := t.postFault (clusterOf o.core) o.ctx va (o.atype e.win) e.win 3 o.core 0 wp.isSome
        go { u.fresh with mops := u.mops ++ [{ o with elems := [e] }] }
      | (t, .ok e) => go (t.hostRun o e)

/-- HOST_WAIT_LIMIT (R199): a host load still parked after the host wait limit completes: WNZ with 0, any other with ones and an event. One that a
peer's home has not answered may be parked there, and counts as parked since it was sent (log 112). -/
def execHostWaitLimit (op : Nat) (s : State) : Out :=
  match s.mop? op with
  | none => go s
  | some o =>
    match o.owner, o.elems with
    | .host r, [e] =>
      let parked : Bool := match e.stage with | .waiting _ | .sent _ | .remoteWait => true | _ => false
      if o.kind ≠ .load ∨ !parked ∨ (s.clk - o.since).toNat < 700 * s.hostWait then go s
      else
        let t : State := { s with mops := s.mops.filter (·.id != op) }
        if e.win = 12 then go (t.reply r 0)
        else go ((t.post { type := 5, ctx := o.ctx, addr := e.va }).reply r (BitVec.ofNat 256 (onesOf e.size)))
    | _, _ => go s

/-- A device register as it reads (R373). -/
def State.register (s : State) (off : Nat) : W64 :=
  match off with
  | 0x00 => Config.idReg
  | 0x08 => BitVec.ofNat 64 (devCode s.dev)
  | 0x10 => Config.versions
  | 0x18 => Config.features
  | 0x30 => BitVec.ofNat 64 s.peerReg
  | _ => 0

/-- A byte of the control aperture outside the command area as it reads (R372). -/
def State.controlByte (s : State) (off : Nat) : Byte :=
  if off < 0x1000 then BitVec.ofNat 8 ((s.register (off / 8 * 8)).toNat / 2 ^ (8 * (off % 8)))
  else if off < 0x2000 then s.msix.read (off - 0x1000)
  else if 0x100000 ≤ off ∧ off < 0x200000 then s.patch.read (off - 0x100000)
  else 0

/-- Bytes of the control aperture outside the command area as they read. -/
def State.controlRead (s : State) (off n : Nat) : Nat := natOfBytes ((List.range n).map fun i => s.controlByte (off + i))

/-- COMMAND_AREA_ACCESS (R372, R374): an access of the command area through its window; outside it, a read of the control aperture or a register write. -/
def execCommandAreaAccess (h : HostAccess) (s : State) : Out :=
  if 0x1000000 ≤ h.off ∧ h.off < 0x2000000 then
    let win := h.off / 2 ^ 20 % 16
    let a := h.off % 2 ^ 20
    let o := s.hostOp h 0
    if !hostSize h || !winSize win h.size || a % h.size != 0 || (h.write && (win == 13 || win == 15)) then go (s.hostRefused h 0 (BitVec.ofNat 64 h.off))
    else go (s.hostRun o ((hostElem h (BitVec.ofNat 64 h.off)).at (.cmd a) win false true))
  else if h.write then go (s.controlStore h.off (bytesOf h.size h.data))
  else go (s.reply h.requester (BitVec.ofNat 256 (s.controlRead h.off h.size)))

end Sys2Proof.Machine
end

