-- ==== Sys2Proof/Machine/Integer.lean ====
section
/-! DEFINITION. Opcodes 0x00 to 0x1F: integer arithmetic, logic, shifts and bit fields (R107 to R118). -/

namespace Sys2Proof.Machine

open Sys2Proof

/-- S of the integer family (R68). -/
abbrev mS (f : VForm) : Bool := bitAt f.md 0
/-- SAT of the integer family (R68). -/
abbrev mSat (f : VForm) : Bool := bitAt f.md 1

/-- R116. -/
def execNop (_ : VForm) (s : State) : Out := go s.retire

/-- R112. -/
def execIadd (f : VForm) (s : State) : Out :=
  vec32 f s fun l => satOr (mSat f) ((aOf f s l).toInt + (bOf f s l).toInt) (aOf f s l + bOf f s l)

/-- R112. -/
def execIsub (f : VForm) (s : State) : Out :=
  vec32 f s fun l => satOr (mSat f) ((aOf f s l).toInt - (bOf f s l).toInt) (aOf f s l - bOf f s l)

/-- R112. -/
def execImul (f : VForm) (s : State) : Out :=
  vec32 f s fun l => satOr (mSat f) ((aOf f s l).toInt * (bOf f s l).toInt) (aOf f s l * bOf f s l)

/-- Bits 63:32 of the exact 64-bit product (R112). -/
def mulHigh (signed : Bool) (a b : W32) : W32 :=
  if signed then BitVec.ofInt 32 (a.toInt * b.toInt / 2 ^ 32) else BitVec.ofNat 32 (a.toNat * b.toNat / 2 ^ 32)

/-- R112. -/
def execImulh (f : VForm) (s : State) : Out := vec32 f s fun l => mulHigh (mS f) (aOf f s l) (bOf f s l)

/-- R112. -/
def execImad (f : VForm) (s : State) : Out :=
  vec32 f s fun l => satOr (mSat f) ((aOf f s l).toInt * (bOf f s l).toInt + (cOf f s l).toInt)
    (aOf f s l * bOf f s l + cOf f s l)

/-- The smaller operand (R112). -/
def minInt {n : Nat} (signed : Bool) (a b : BitVec n) : BitVec n := if cmpInt 3 signed a b then a else b

/-- The larger operand (R112). -/
def maxInt {n : Nat} (signed : Bool) (a b : BitVec n) : BitVec n := if cmpInt 3 signed a b then b else a

/-- R112. -/
def execImin (f : VForm) (s : State) : Out := vec32 f s fun l => minInt (mS f) (aOf f s l) (bOf f s l)

/-- R112. -/
def execImax (f : VForm) (s : State) : Out := vec32 f s fun l => maxInt (mS f) (aOf f s l) (bOf f s l)

/-- R112: 0x8000_0000 gives itself. -/
def execIabs (f : VForm) (s : State) : Out :=
  vec32 f s fun l => if (aOf f s l).msb then 0 - aOf f s l else aOf f s l

/-- R112. -/
def execIneg (f : VForm) (s : State) : Out := vec32 f s fun l => 0 - aOf f s l

/-- A quotient rounded toward zero, with the edge cases of R113. -/
def divInt (signed : Bool) (a b : W32) : W32 :=
  if b = 0 then 0xFFFFFFFF
  else if signed then BitVec.ofInt 32 (a.toInt.tdiv b.toInt)
  else BitVec.ofNat 32 (a.toNat / b.toNat)

/-- A remainder with the sign of a: a - b * IDIV(a, b), and a for a zero divisor (R112, R113). -/
def remInt (signed : Bool) (a b : W32) : W32 := if b = 0 then a else a - b * divInt signed a b

/-- R112, R113. -/
def execIdiv (f : VForm) (s : State) : Out := vec32 f s fun l => divInt (mS f) (aOf f s l) (bOf f s l)

/-- R112, R113. -/
def execIrem (f : VForm) (s : State) : Out := vec32 f s fun l => remInt (mS f) (aOf f s l) (bOf f s l)

/-- R114. -/
def execIaddi (f : IForm) (s : State) : Out := imm32 f s fun l => s.src32 f.a l + f.imm

/-- R114. -/
def execImuli (f : IForm) (s : State) : Out := imm32 f s fun l => s.src32 f.a l * f.imm

/-- R114. -/
def execMovi (f : IForm) (s : State) : Out := imm32 f s fun _ => f.imm

/-- A three-input bitwise function (R115): for each entry of the table, the positions that hold its inputs. -/
def lop3 (t : BitVec 8) (a b c : W32) : W32 :=
  let term (i : Nat) : W32 :=
    if bitAt t i then (if i / 4 % 2 = 1 then a else ~~~a) &&& (if i / 2 % 2 = 1 then b else ~~~b) &&& (if i % 2 = 1 then c else ~~~c)
    else 0
  term 0 ||| term 1 ||| term 2 ||| term 3 ||| term 4 ||| term 5 ||| term 6 ||| term 7

/-- R115. -/
def execLop3 (f : VForm) (s : State) : Out :=
  vec32 f s fun l => lop3 (fld f.md 0 8) (aOf f s l) (bOf f s l) (cOf f s l)

/-- R112. -/
def execLadd (f : VForm) (s : State) : Out :=
  vec64 f s fun l => satOr (mSat f) ((aOf64 f s l).toInt + (bOf64 f s l).toInt) (aOf64 f s l + bOf64 f s l)

/-- R112. -/
def execLsub (f : VForm) (s : State) : Out :=
  vec64 f s fun l => satOr (mSat f) ((aOf64 f s l).toInt - (bOf64 f s l).toInt) (aOf64 f s l - bOf64 f s l)

/-- R112. -/
def execLmul (f : VForm) (s : State) : Out :=
  vec64 f s fun l => satOr (mSat f) ((aOf64 f s l).toInt * (bOf64 f s l).toInt) (aOf64 f s l * bOf64 f s l)

/-- R112: a + (SExt64(b) << (c AND 63)). -/
def execLea (f : VForm) (s : State) : Out :=
  vec64 f s fun l => aOf64 f s l + ((bOf f s l).signExtend 64 <<< ((cOf f s l).toNat % 64))

/-- A D64 family instruction: its 32-bit or its 64-bit form (R117). -/
def dual (f : VForm) (s : State) (g32 : Nat → W32) (g64 : Nat → W64) : Out :=
  if f.d64 then vec64 f s g64 else vec32 f s g32

/-- R117. -/
def execAnd (f : VForm) (s : State) : Out :=
  dual f s (fun l => aOf f s l &&& bOf f s l) (fun l => aOf64 f s l &&& bOf64 f s l)

/-- R117. -/
def execOr (f : VForm) (s : State) : Out :=
  dual f s (fun l => aOf f s l ||| bOf f s l) (fun l => aOf64 f s l ||| bOf64 f s l)

/-- R117. -/
def execXor (f : VForm) (s : State) : Out :=
  dual f s (fun l => aOf f s l ^^^ bOf f s l) (fun l => aOf64 f s l ^^^ bOf64 f s l)

/-- R117. -/
def execAndn (f : VForm) (s : State) : Out :=
  dual f s (fun l => aOf f s l &&& ~~~bOf f s l) (fun l => aOf64 f s l &&& ~~~bOf64 f s l)

/-- R117: the amount is read as 32 bits and taken modulo the width. -/
def execShl (f : VForm) (s : State) : Out :=
  dual f s (fun l => aOf f s l <<< ((bOf f s l).toNat % 32)) (fun l => aOf64 f s l <<< ((bOf f s l).toNat % 64))

/-- A right shift, arithmetic when signed (R117). -/
def shiftRight {n : Nat} (signed : Bool) (a : BitVec n) (k : Nat) : BitVec n := if signed then a.sshiftRight k else a >>> k

/-- R117. -/
def execShr (f : VForm) (s : State) : Out :=
  dual f s (fun l => shiftRight (mS f) (aOf f s l) ((bOf f s l).toNat % 32))
    (fun l => shiftRight (mS f) (aOf64 f s l) ((bOf f s l).toNat % 64))

/-- R117. -/
def execRot (f : VForm) (s : State) : Out :=
  dual f s (fun l => (aOf f s l).rotateLeft ((bOf f s l).toNat % 32))
    (fun l => (aOf64 f s l).rotateLeft ((bOf f s l).toNat % 64))

/-- Position and length of the field that a control selects in w bits (R118). -/
def fieldOf (w : Nat) (b : W32) : Nat × Nat :=
  let p := fldN b 0 8 % w
  (p, min (fldN b 8 8) (w - p))

/-- The mask of n ones from bit p up (R118). -/
def fieldMask (w p n : Nat) : BitVec w := BitVec.ofNat w ((2 ^ n - 1) * 2 ^ p)

/-- BFE of R118. -/
def bitExtract {w : Nat} (signed : Bool) (a : BitVec w) (b : W32) : BitVec w :=
  let (p, n) := fieldOf w b
  let r := (a &&& fieldMask w p n) >>> p
  if signed && decide (0 < n) && r.getLsbD (n - 1) then r ||| fieldMask w n (w - n) else r

/-- BFI of R118. -/
def bitInsert {w : Nat} (a c : BitVec w) (b : W32) : BitVec w :=
  let (p, n) := fieldOf w b
  (c &&& ~~~fieldMask w p n) ||| ((a <<< p) &&& fieldMask w p n)

/-- R117, R118. -/
def execBfe (f : VForm) (s : State) : Out :=
  dual f s (fun l => bitExtract (mS f) (aOf f s l) (bOf f s l)) (fun l => bitExtract (mS f) (aOf64 f s l) (bOf f s l))

/-- R117, R118. -/
def execBfi (f : VForm) (s : State) : Out :=
  dual f s (fun l => bitInsert (aOf f s l) (cOf f s l) (bOf f s l))
    (fun l => bitInsert (aOf64 f s l) (cOf64 f s l) (bOf f s l))

/-- Number of one bits (R117). -/
def ones {w : Nat} (a : BitVec w) : Nat := ((List.range w).filter fun i => a.getLsbD i).length

/-- Number of leading zero bits, w for zero (R117). -/
def leadingZeros {w : Nat} (a : BitVec w) : Nat :=
  ((List.range w).takeWhile fun i => !a.getLsbD (w - 1 - i)).length

/-- Bit i moves to bit w - 1 - i (R117). -/
def bitReverse {w : Nat} (a : BitVec w) : BitVec w :=
  (List.range w).foldl (fun r i => if a.getLsbD i then r ||| ((1 : BitVec w) <<< (w - 1 - i)) else r) 0

/-- R117: a 32-bit result, also under D64. -/
def execPopc (f : VForm) (s : State) : Out :=
  vec32 f s fun l => BitVec.ofNat 32 (if f.d64 then ones (aOf64 f s l) else ones (aOf f s l))

/-- R117: a 32-bit result, also under D64. -/
def execClz (f : VForm) (s : State) : Out :=
  vec32 f s fun l => BitVec.ofNat 32 (if f.d64 then leadingZeros (aOf64 f s l) else leadingZeros (aOf f s l))

/-- R117. -/
def execBrev (f : VForm) (s : State) : Out :=
  dual f s (fun l => bitReverse (aOf f s l)) (fun l => bitReverse (aOf64 f s l))

end Sys2Proof.Machine
end

