-- ==== Sys2Proof/Machine/Lane.lean ====
section
/-! DEFINITION. Opcodes 0x20 to 0x27 and 0x60 to 0x69: predicates, selection, byte operations and cross-lane operations (R136 to R144, R45). -/

namespace Sys2Proof.Machine

open Sys2Proof

/-- A 32-bit result for each selected lane of an instruction of this chapter: a sibling's clause in progress still reads the values before (R143). -/
def State.writeLanes (s : State) (f : VForm) (m : Mask) (g : Nat → W32) : State := (s.keepLanes f.d f.w 1 m).write32 f.d f.w f.bl m g

/-- A format V instruction that writes one 32-bit result for each selected lane so and retires. -/
def lane32 (f : VForm) (s : State) (g : Nat → W32) : Out := go (s.writeLanes f (selV f s) g).retire

/-- A format V instruction that writes one 64-bit result for each selected lane so and retires. -/
def lane64 (f : VForm) (s : State) (g : Nat → W64) : Out :=
  go ((s.keepLanes f.d f.w 2 (selV f s)).write64 f.d f.w f.bl (selV f s) g).retire

/-! ### Predicates, selection and byte operations (R138) -/

/-- R138. -/
def execIsetp (f : VForm) (s : State) : Out :=
  vecP f s fun l =>
    if bitAt f.md 4 then cmpInt (fldN f.md 0 3) (bitAt f.md 3) (aOf64 f s l) (bOf64 f s l)
    else cmpInt (fldN f.md 0 3) (bitAt f.md 3) (aOf f s l) (bOf f s l)

/-- R138. -/
def execFsetp (f : VForm) (s : State) : Out :=
  vecP f s fun l => cmpFloat (fldN f.md 0 4) (fp32.value (s.srcF f.a l)) (fp32.value (s.srcF f.b l))

/-- R138. -/
def execPlop (f : VForm) (s : State) : Out :=
  vecP f s fun l => truth (fld f.md 0 8) (s.srcP f.a l) (s.srcP f.b l) (s.srcP f.c l)

/-- R138. -/
def execSel (f : VForm) (s : State) : Out :=
  lane32 f s fun l => if s.srcP f.c l then aOf f s l else bOf f s l

/-- R138: direction 0 from a predicate, direction 1 to a predicate. -/
def execPmov (f : VForm) (s : State) : Out :=
  if bitAt f.md 0 then vecP f s fun l => aOf f s l != 0
  else lane32 f s fun l => if s.srcP f.a l then 1 else 0

/-- The carry-less product. -/
def clProduct (a b : W32) : W64 :=
  (List.range 32).foldl (fun r i => if bitAt b i then r ^^^ (a.setWidth 64 <<< i) else r) 0

/-- R138. -/
def execClmul (f : VForm) (s : State) : Out := lane32 f s fun l => fld (clProduct (aOf f s l) (bOf f s l)) 0 32

/-- R138: bits 62:32 in bits 30:0. -/
def execClmulh (f : VForm) (s : State) : Out := lane32 f s fun l => fld (clProduct (aOf f s l) (bOf f s l)) 32 32

/-- Result byte i of PRMT (R138). -/
def permuteByte (a b c : W32) (i : Nat) : Byte :=
  let n := fldN c (4 * i) 4
  let byte : Byte := fld (b ++ a) (8 * (n % 8)) 8
  if 8 ≤ n then (if byte.msb then 0xFF else 0) else byte

/-- R138. -/
def execPrmt (f : VForm) (s : State) : Out :=
  lane32 f s fun l =>
    let p := permuteByte (aOf f s l) (bOf f s l) (cOf f s l)
    p 3 ++ p 2 ++ p 1 ++ p 0

/-! ### Cross-lane operations -/

/-- The source lane of SHFL, as an integer (R139). -/
def shflSource (f : VForm) (s : State) (l : Nat) : Int :=
  let b := bOf f s l
  let k : Nat := if bitAt f.md 9 then lanes / 2 ^ (b.toNat % 32) else b.toNat
  match fldN f.md 0 2 with
  | 0 => k
  | 1 => (l : Int) - k
  | 2 => l + k
  | _ => (l ^^^ k : Nat)

/-- R139. -/
def execShfl (f : VForm) (s : State) : Out :=
  let inr (l : Nat) : Bool := decide (0 ≤ shflSource f s l) && decide (shflSource f s l < lanes)
  let t := s.writeLanes f (selV f s) fun l => aOf f s (if inr l then (shflSource f s l).toNat else l)
  let t := if bitAt f.md 2 then t.modG fun g => g.setP (fldN f.md 3 3) (selV f s) (maskOf inr) else t
  go t.retire

/-- An operation of REDX and SCANX: 0 add, 1 min, 2 max, 3 and, 4 or, 5 xor; types 0 signed, 1 unsigned, 2 FP32 (R140). -/
def reduceOp (op ty : Nat) (a b : W32) : W32 :=
  match op with
  | 0 => if ty = 2 then BitVec.ofNat 32 (fp32.canon (fp32.add .rne (fp32.value a.toNat) (fp32.value b.toNat))) else a + b
  | 1 => if ty = 2 then BitVec.ofNat 32 (fp32.canon (fp32.minNum a.toNat b.toNat)) else minInt (ty == 0) a b
  | 2 => if ty = 2 then BitVec.ofNat 32 (fp32.canon (fp32.maxNum a.toNat b.toNat)) else maxInt (ty == 0) a b
  | 3 => a &&& b
  | 4 => a ||| b
  | _ => a ^^^ b

/-- Identities of R140. -/
def reduceId (op ty : Nat) : W32 :=
  match op with
  | 0 => if ty = 2 then 0x80000000 else 0
  | 1 => if ty = 2 then 0x7FC00000 else if ty = 0 then 0x7FFFFFFF else 0xFFFFFFFF
  | 2 => if ty = 2 then 0x7FC00000 else if ty = 0 then 0x80000000 else 0
  | 3 => 0xFFFFFFFF
  | _ => 0

/-- The 64-bit form of a result (R140). -/
def extendTo (ty : Nat) (x : W32) : W64 := if ty = 0 then x.signExtend 64 else x.setWidth 64

/-- The tree of R140: each step combines element l with element l + h. -/
def reduceTree (op ty : Nat) : Nat → List W32 → W32
  | 0, xs => xs.headD 0
  | n + 1, xs =>
    let h := xs.length / 2
    reduceTree op ty n ((xs.take h).zipWith (reduceOp op ty) (xs.drop h))

/-- Operand A of REDX and SCANX: type f32 with add, min or max is a floating-point operation, the rest are integer or bit operations (R66). -/
def reduceA (f : VForm) (s : State) (l : Nat) : W32 :=
  if fldN f.md 3 2 = 2 ∧ fldN f.md 0 3 ≤ 2 then BitVec.ofNat 32 (s.srcF f.a l) else aOf f s l

/-- What a lane contributes (R140). -/
def contribution (f : VForm) (s : State) (l : Nat) : W32 :=
  if bitAt (selV f s) l then reduceA f s l else reduceId (fldN f.md 0 3) (fldN f.md 3 2)

/-- SOUT of REDX and SCANX (R140, R141). -/
def sOut (f : VForm) (t : State) (x : W32) : State :=
  if bitAt f.md 5 then t.modG fun g => g.setS t.cur.2 (srcS f.c) (extendTo (fldN f.md 3 2) x) else t

/-- R140. Without a selected lane it has no effect (R137). -/
def execRedx (f : VForm) (s : State) : Out :=
  let x := reduceTree (fldN f.md 0 3) (fldN f.md 3 2) 6 (allLanes.map (contribution f s))
  if selV f s = 0 then go s.retire
  else go (sOut f (s.writeLanes f (selV f s) fun _ => x) x).retire

/-- The running values of R141 before and after each lane. -/
def scanFold (f : VForm) (s : State) : Nat → List Nat → W32 → List (W32 × W32)
  | 0, _, _ => []
  | _, [], _ => []
  | n + 1, l :: ls, acc =>
    let r := reduceOp (fldN f.md 0 3) (fldN f.md 3 2) acc (contribution f s l)
    (acc, r) :: scanFold f s n ls r

/-- R141. Without a selected lane it has no effect (R137). -/
def execScanx (f : VForm) (s : State) : Out :=
  let rs := scanFold f s 64 allLanes (reduceId (fldN f.md 0 3) (fldN f.md 3 2))
  let at' (l : Nat) : W32 × W32 := rs.getD l (0, 0)
  if selV f s = 0 then go s.retire
  else go (sOut f (s.writeLanes f (selV f s) fun l => if bitAt f.md 6 then (at' l).1 else (at' l).2) (at' 63).2).retire

/-- R142. -/
def execBallot (f : VForm) (s : State) : Out :=
  let m := selV f s &&& maskOf fun l => aOf f s l != 0
  lane64 f s fun _ => m

/-- A lane's key (R142). -/
def matchKey (f : VForm) (s : State) (l : Nat) : W64 :=
  if bitAt f.md 0 then aOf64 f s l else (aOf f s l).setWidth 64

/-- R142. -/
def execMatchKeys (f : VForm) (s : State) : Out :=
  lane64 f s fun l => selV f s &&& maskOf fun k => matchKey f s k == matchKey f s l

/-- R45. -/
def execElect (f : VForm) (s : State) : Out :=
  vecP f s fun l =>
    if bitAt f.md 0 then aOf64 f s l != 0 && lowest (aOf64 f s l) == l
    else lowest (selV f s) == l

/-- R142. -/
def execVote (f : VForm) (s : State) : Out :=
  let sel := lanesOf (selV f s)
  let v : Bool :=
    match fldN f.md 0 2 with
    | 0 => sel.all fun l => aOf f s l != 0
    | 1 => sel.any fun l => aOf f s l != 0
    | _ => sel.all fun l => aOf f s l == aOf f s (sel.headD 0)
  vecP f s fun _ => v

/-- R143. -/
def execRdlane (f : VForm) (s : State) : Out :=
  scalar f s ((aOf f s ((bUni f s).toNat % lanes)).setWidth 64)

/-- R143: the written lane need not be selected. -/
def execWrlane (f : VForm) (s : State) : Out :=
  if selV f s = 0 then go s.retire
  else
    go (s.writeLanes f ((1 : Mask) <<< ((bUni f s).toNat % lanes)) fun _ => (aUni f s).setWidth 32).retire

/-! ### XSHUF (R144) -/

/-- The waiting partner: a group of the context on another core, in the named slot, with a split that names this group; of several such splits,
the first in the group (log 81). -/
def State.partner (s : State) (g : Group) (core slot : Nat) : Option (Nat × Nat) :=
  (s.groups.find? fun h => h.core == core && h.slot == slot && h.ctx == g.ctx && h.core != g.core).bind fun h =>
    (h.splits.find? fun p => match p.wait with
      | .xshuf c k _ => c == g.core && k == g.slot
      | _ => false).map fun p => (h.gid, p.idx)

/-- What each side receives, and both retire (R144). -/
def State.exchange (s : State) (f : VForm) (g i : Nat) : State :=
  let r : State := { s with cur := (g, i) }
  match decode r.S.ir with
  | .ok (.xshuf f') =>
    let m := selV f s
    let m' := selV f' r
    let t := (s.writeLanes f m fun l => if bitAt m' l then aOf f' r l else aOf f s l).retire
    let t := (({ t with cur := (g, i) }).writeLanes f' m' fun l => if bitAt m l then aOf f s l else aOf f' r l).retire
    { t with cur := s.cur }
  | _ => s

/-- R144. A partner operand that names no group of the context on another core finds no rendezvous. -/
def execXshuf (f : VForm) (s : State) : Out :=
  let p := bUni f s
  if selV f s = 0 then go s.retire
  else
    match if p.toNat < 2 ^ 13 then s.partner s.G (fldN p 0 8) (fldN p 8 5) else none with
    | some (g, i) => go (s.exchange f g i)
    | none => go (s.setWait s.cur.1 s.cur.2 (.xshuf (fldN p 0 8) (if p.toNat < 2 ^ 13 then fldN p 8 5 else 32) s.clk))

/-- R144: a rendezvous that has not completed within 65,536 clocks raises XSHTO; nothing has been written. -/
def execXshto (g sp : Nat) (s : State) : Out :=
  let r : State := { s with cur := (g, sp) }
  match r.S.wait with
  | .xshuf _ _ since =>
    if since.toNat + 65536 ≤ s.clk.toNat then
      match decode r.S.ir with
      | .ok (.xshuf f) => go { r.trap .xshto (selV f r) (bUni f r) with cur := s.cur }
      | _ => go s
    else go s
  | _ => go s

end Sys2Proof.Machine
end

