-- ==== Sys2Proof/Machine/Scalar.lean ====
section
/-! DEFINITION. Opcodes 0x70 to 0x7E: the scalar instructions and the special registers (R145, R146, R98 to R106). -/

namespace Sys2Proof.Machine

open Sys2Proof

/-! ### Scalar arithmetic (R145) -/

/-- R145. -/
def execSmov (f : VForm) (s : State) : Out := scalar f s (aUni f s)

/-- R145. -/
def execSmovi (f : IForm) (s : State) : Out :=
  go (if s.sel f.p false = 0 then s else s.writeS f.d (f.imm.signExtend 64)).retire

/-- R145: bits 31:0 are kept. -/
def execSmovh (f : IForm) (s : State) : Out :=
  go (if s.sel f.p false = 0 then s
    else s.writeS f.d (f.imm ++ (s.G.sreg s.cur.2 f.d.toNat).setWidth 32)).retire

/-- R145. -/
def execSadd (f : VForm) (s : State) : Out :=
  scalar f s (satOr (bitAt f.md 1) ((aUni f s).toInt + (bUni f s).toInt) (aUni f s + bUni f s))

/-- R145. -/
def execSsub (f : VForm) (s : State) : Out :=
  scalar f s (satOr (bitAt f.md 1) ((aUni f s).toInt - (bUni f s).toInt) (aUni f s - bUni f s))

/-- R145: SAT saturates the exact product, signed when S = 1 and unsigned when S = 0. -/
def execSmul (f : VForm) (s : State) : Out :=
  scalar f s
    (if bitAt f.md 1 then
      if bitAt f.md 0 then satS 64 ((aUni f s).toInt * (bUni f s).toInt)
      else satU 64 ((aUni f s).toNat * (bUni f s).toNat : Nat)
    else aUni f s * bUni f s)

/-- R145. -/
def execSand (f : VForm) (s : State) : Out := scalar f s (aUni f s &&& bUni f s)

/-- R145. -/
def execSor (f : VForm) (s : State) : Out := scalar f s (aUni f s ||| bUni f s)

/-- R145. -/
def execSxor (f : VForm) (s : State) : Out := scalar f s (aUni f s ^^^ bUni f s)

/-- R145. -/
def execSshl (f : VForm) (s : State) : Out := scalar f s (aUni f s <<< ((bUni f s).toNat % 64))

/-- R145. -/
def execSshr (f : VForm) (s : State) : Out :=
  scalar f s
    (if bitAt f.md 0 then (aUni f s).sshiftRight ((bUni f s).toNat % 64) else aUni f s >>> ((bUni f s).toNat % 64))

/-- R145. -/
def execScmp (f : VForm) (s : State) : Out :=
  scalar f s (if cmpInt (fldN f.md 2 3) (bitAt f.md 0) (aUni f s) (bUni f s) then 1 else 0)

/-- R145. -/
def execSsel (f : VForm) (s : State) : Out := scalar f s (if cUni f s ≠ 0 then aUni f s else bUni f s)

/-! ### Special registers (R98 to R106) -/

/-- Whether a core is forced conservative (R35, R99). -/
def State.forced (s : State) (core : Nat) : Bool := bitAt s.fcons core

/-- SR_MODE (R99). -/
def State.srMode (s : State) (g : Group) : W64 :=
  BitVec.ofNat 64 ((g.cons || s.forced g.core).toNat + 2 * (s.forced g.core).toNat + 4 * g.trapm.toNat)

/-- The special register of an index, as a split of a group reads it (R98). -/
def State.special (s : State) (g : Group) (p : Split) (x : Nat) : W64 :=
  match x with
  | 0x00 => BitVec.ofNat 64 lanes
  | 0x01 => BitVec.ofNat 64 (lowest p.mask)
  | 0x02 => BitVec.ofNat 64 g.slot
  | 0x03 => BitVec.ofNat 64 g.core
  | 0x04 => BitVec.ofNat 64 (clusterOf g.core)
  | 0x05 => BitVec.ofNat 64 (g.core % 8)
  | 0x06 => BitVec.ofNat 64 (s.peer.getD 0)
  | 0x07 => BitVec.ofNat 64 g.ctx
  | 0x08 => BitVec.ofNat 64 g.wgx
  | 0x09 => BitVec.ofNat 64 g.wgy
  | 0x0A => BitVec.ofNat 64 g.wgz
  | 0x0B => BitVec.ofNat 64 g.ginwg
  | 0x0C => BitVec.ofNat 64 (g.teamSize + 256 * g.teamIdx)
  | 0x0D => BitVec.ofNat 64 g.depth
  | 0x0E => BitVec.ofNat 64 g.grid
  | 0x0F => g.task
  | 0x10 => BitVec.ofNat 64 (p.idx + 4 * (g.splits.length - 1))
  | 0x11 => p.mask
  | 0x12 => g.kill
  | 0x13 => s.srMode g
  | 0x14 => if g.preq then 1 else 0
  | 0x15 => s.clk
  | 0x16 => g.seed
  | 0x17 => g.evc
  | 0x18 => g.idempc
  | 0x19 => (sigEnter p.sigb p.ir).setWidth 64
  | 0x1A => p.sigp.setWidth 64
  | 0x1B => g.rflt
  | 0x1C => g.mxit
  | 0x1D => g.drainst
  | 0x1E => g.lqst
  | 0x1F => g.srPaths
  | 0x20 => g.tvec
  | 0x21 => g.tpc
  | 0x22 => g.tmask
  | 0x23 => g.tcause
  | 0x24 => g.taddr
  | 0x25 => g.tframe
  | 0x26 => g.tnrec
  | 0x27 => BitVec.ofNat 64 ((SMap.get (0, 0) s.segid g.core).1 - 1)
  | 0x28 => BitVec.ofNat 64 g.dplace
  | 0x29 => if g.svc then 1 else 0
  | 0x2A => g.wdlim.setWidth 64
  | 0x2B => g.qos.setWidth 64
  | _ => g.mxsave

/-- The special register of an index as the issuing split reads it: a sibling's SWR is seen at the next clause (R106); of SR_MODE that is the
request, of SR_DRAINST the bits that it cleared (R99). -/
def State.srd (s : State) (x : Nat) : W64 :=
  match x with
  | 0x13 => s.srMode { s.G with cons := bitAt (s.ownSpecial 0x13 (if s.G.cons then 1 else 0)) 0 }
  | 0x1D => s.G.drainst ||| s.ownSpecial 0x1D 0
  | x => s.ownSpecial x (s.special s.G s.S x)

/-- R146. Outside trap mode an SRD of SR_RFLT with V = 1 raises RMTFLT (R100). -/
def execSrd (f : VForm) (s : State) : Out :=
  let x := fldN f.md 0 8
  if selV f s ≠ 0 ∧ x = 0x1B ∧ bitAt (s.srd 0x1B) 0 ∧ ¬s.G.trapm then go (s.trap .rmtflt (selV f s) 0)
  else scalar f s (s.srd x)

/-- A group with a special register written (R98, R99, R100, R103, R146, R322). Bits 63:16 of a value for SR_QOS are ignored: the spec does not
say (log 95). -/
def Group.setSpecial (g : Group) (x : Nat) (v : W64) : Group :=
  match x with
  | 0x13 => { g with cons := bitAt v 0 }
  | 0x16 => { g with seed := if v = 0 then 1 else v }
  | 0x1B => if bitAt v 0 then { g with rflt := 0 } else g
  | 0x1D => { g with drainst := w1c g.drainst v }
  | 0x20 => { g with tvec := v }
  | 0x21 => { g with tpc := v }
  | 0x22 => { g with tmask := v }
  | 0x25 => { g with tframe := v }
  | 0x28 => { g with dplace := v.toNat }
  | 0x2A => { g with wdlim := v.setWidth 40 }
  | 0x2B => { g with qos := v.setWidth 16 }
  | 0x2C => { g with mxsave := v }
  | _ => g

/-- What an SWR replaces stays in view of the siblings' clauses in progress (R106): the request of SR_MODE, the bits cleared in SR_DRAINST, and
SR_RFLT where V is cleared. -/
def State.keepSpecial (s : State) (x : Nat) (v : W64) (g : Group) : Group :=
  match x with
  | 0x13 => g.keep s.cur.2 (32768 + x) (if g.cons then 1 else 0)
  | 0x1B => if bitAt v 0 ∧ bitAt g.rflt 0 then g.keep s.cur.2 (32768 + x) g.rflt else g
  | 0x1D => g.keepBits s.cur.2 (32768 + x) (g.drainst &&& v)
  | x => g.keep s.cur.2 (32768 + x) (s.special g s.S x)

/-- R146: privileged registers need SR_PRIV.SVC, and R102 refuses values of SR_DPLACE. -/
def execSwr (f : VForm) (s : State) : Out :=
  let x := fldN f.md 0 8
  let v := aUni f s
  if selV f s = 0 then go s.retire
  else if (x = 0x2A ∨ x = 0x2B) ∧ ¬s.G.svc then go (s.trap .priv (selV f s) 0)
  else if x = 0x28 ∧ 3 ≤ v.toNat then go (s.trap .illop (selV f s) 0)
  else
    go (s.modG fun g => (s.keepSpecial x v g).setSpecial x v).retire

end Sys2Proof.Machine
end

