-- ==== Sys2Proof/Machine/Dispatch.lean ====
section
/-! DEFINITION. The meaning of every instruction and step: one direct call for each constructor of Instr. -/

namespace Sys2Proof.Machine

open Sys2Proof

/-- One instruction, or one step of a unit or of the outside world. -/
def exec (i : Instr) (s : State) : Host.Outcome State Fault Refusal :=
  match i with
  | .nop f => Sys2Proof.Machine.execNop f s
  | .iadd f => Sys2Proof.Machine.execIadd f s
  | .isub f => Sys2Proof.Machine.execIsub f s
  | .imul f => Sys2Proof.Machine.execImul f s
  | .imulh f => Sys2Proof.Machine.execImulh f s
  | .imad f => Sys2Proof.Machine.execImad f s
  | .imin f => Sys2Proof.Machine.execImin f s
  | .imax f => Sys2Proof.Machine.execImax f s
  | .iabs f => Sys2Proof.Machine.execIabs f s
  | .ineg f => Sys2Proof.Machine.execIneg f s
  | .idiv f => Sys2Proof.Machine.execIdiv f s
  | .irem f => Sys2Proof.Machine.execIrem f s
  | .iaddi f => Sys2Proof.Machine.execIaddi f s
  | .imuli f => Sys2Proof.Machine.execImuli f s
  | .movi f => Sys2Proof.Machine.execMovi f s
  | .lop3 f => Sys2Proof.Machine.execLop3 f s
  | .ladd f => Sys2Proof.Machine.execLadd f s
  | .lsub f => Sys2Proof.Machine.execLsub f s
  | .lmul f => Sys2Proof.Machine.execLmul f s
  | .lea f => Sys2Proof.Machine.execLea f s
  | .and f => Sys2Proof.Machine.execAnd f s
  | .or f => Sys2Proof.Machine.execOr f s
  | .xor f => Sys2Proof.Machine.execXor f s
  | .andn f => Sys2Proof.Machine.execAndn f s
  | .shl f => Sys2Proof.Machine.execShl f s
  | .shr f => Sys2Proof.Machine.execShr f s
  | .rot f => Sys2Proof.Machine.execRot f s
  | .bfe f => Sys2Proof.Machine.execBfe f s
  | .bfi f => Sys2Proof.Machine.execBfi f s
  | .popc f => Sys2Proof.Machine.execPopc f s
  | .clz f => Sys2Proof.Machine.execClz f s
  | .brev f => Sys2Proof.Machine.execBrev f s
  | .isetp f => Sys2Proof.Machine.execIsetp f s
  | .fsetp f => Sys2Proof.Machine.execFsetp f s
  | .plop f => Sys2Proof.Machine.execPlop f s
  | .sel f => Sys2Proof.Machine.execSel f s
  | .pmov f => Sys2Proof.Machine.execPmov f s
  | .clmul f => Sys2Proof.Machine.execClmul f s
  | .clmulh f => Sys2Proof.Machine.execClmulh f s
  | .prmt f => Sys2Proof.Machine.execPrmt f s
  | .fadd f => Sys2Proof.Machine.execFadd f s
  | .fsub f => Sys2Proof.Machine.execFsub f s
  | .fmul f => Sys2Proof.Machine.execFmul f s
  | .ffma f => Sys2Proof.Machine.execFfma f s
  | .fmin f => Sys2Proof.Machine.execFmin f s
  | .fmax f => Sys2Proof.Machine.execFmax f s
  | .fclamp f => Sys2Proof.Machine.execFclamp f s
  | .fdiv f => Sys2Proof.Machine.execFdiv f s
  | .fsqrt f => Sys2Proof.Machine.execFsqrt f s
  | .frcp f => Sys2Proof.Machine.execFrcp f s
  | .frsq f => Sys2Proof.Machine.execFrsq f s
  | .frnd f => Sys2Proof.Machine.execFrnd f s
  | .fscale f => Sys2Proof.Machine.execFscale f s
  | .fexpt f => Sys2Proof.Machine.execFexpt f s
  | .hadd2 f => Sys2Proof.Machine.execHadd2 f s
  | .hmul2 f => Sys2Proof.Machine.execHmul2 f s
  | .hfma2 f => Sys2Proof.Machine.execHfma2 f s
  | .hmin2 f => Sys2Proof.Machine.execHmin2 f s
  | .hmax2 f => Sys2Proof.Machine.execHmax2 f s
  | .cvt f => Sys2Proof.Machine.execCvt f s
  | .qpack f => Sys2Proof.Machine.execQpack f s
  | .qunpk f => Sys2Proof.Machine.execQunpk f s
  | .spl6 f => Sys2Proof.Machine.execSpl6 f s
  | .jn6 f => Sys2Proof.Machine.execJn6 f s
  | .fexp2 f => Sys2Proof.Machine.execFexp2 f s
  | .flog2 f => Sys2Proof.Machine.execFlog2 f s
  | .fsin f => Sys2Proof.Machine.execFsin f s
  | .fcos f => Sys2Proof.Machine.execFcos f s
  | .ftanh f => Sys2Proof.Machine.execFtanh f s
  | .fsigm f => Sys2Proof.Machine.execFsigm f s
  | .ferf f => Sys2Proof.Machine.execFerf f s
  | .ateval f => Sys2Proof.Machine.execAteval f s
  | .shfl f => Sys2Proof.Machine.execShfl f s
  | .redx f => Sys2Proof.Machine.execRedx f s
  | .scanx f => Sys2Proof.Machine.execScanx f s
  | .ballot f => Sys2Proof.Machine.execBallot f s
  | .matchKeys f => Sys2Proof.Machine.execMatchKeys f s
  | .elect f => Sys2Proof.Machine.execElect f s
  | .vote f => Sys2Proof.Machine.execVote f s
  | .rdlane f => Sys2Proof.Machine.execRdlane f s
  | .wrlane f => Sys2Proof.Machine.execWrlane f s
  | .xshuf f => Sys2Proof.Machine.execXshuf f s
  | .xshto g sp => Sys2Proof.Machine.execXshto g sp s
  | .smov f => Sys2Proof.Machine.execSmov f s
  | .smovi f => Sys2Proof.Machine.execSmovi f s
  | .smovh f => Sys2Proof.Machine.execSmovh f s
  | .sadd f => Sys2Proof.Machine.execSadd f s
  | .ssub f => Sys2Proof.Machine.execSsub f s
  | .smul f => Sys2Proof.Machine.execSmul f s
  | .sand f => Sys2Proof.Machine.execSand f s
  | .sor f => Sys2Proof.Machine.execSor f s
  | .sxor f => Sys2Proof.Machine.execSxor f s
  | .sshl f => Sys2Proof.Machine.execSshl f s
  | .sshr f => Sys2Proof.Machine.execSshr f s
  | .scmp f => Sys2Proof.Machine.execScmp f s
  | .ssel f => Sys2Proof.Machine.execSsel f s
  | .srd f => Sys2Proof.Machine.execSrd f s
  | .swr f => Sys2Proof.Machine.execSwr f s
  | .bra f => Sys2Proof.Machine.execBra f s
  | .jmp f => Sys2Proof.Machine.execJmp f s
  | .call f => Sys2Proof.Machine.execCall f s
  | .ret f => Sys2Proof.Machine.execRet f s
  | .mjoin f => Sys2Proof.Machine.execMjoin f s
  | .join f => Sys2Proof.Machine.execJoin f s
  | .exit f => Sys2Proof.Machine.execExit f s
  | .kill f => Sys2Proof.Machine.execKill f s
  | .bar f => Sys2Proof.Machine.execBar f s
  | .yield f => Sys2Proof.Machine.execYield f s
  | .waitc f => Sys2Proof.Machine.execWaitc f s
  | .idem f => Sys2Proof.Machine.execIdem f s
  | .trap f => Sys2Proof.Machine.execTrap f s
  | .tretRpl f => Sys2Proof.Machine.execTretRpl f s
  | .tretSkp f => Sys2Proof.Machine.execTretSkp f s
  | .rbsur f => Sys2Proof.Machine.execRbsur f s
  | .rbclm f => Sys2Proof.Machine.execRbclm f s
  | .brk f => Sys2Proof.Machine.execBrk f s
  | .lds f => Sys2Proof.Machine.execLds f s
  | .sts f => Sys2Proof.Machine.execSts f s
  | .atoms f => Sys2Proof.Machine.execAtoms f s
  | .ldsx f => Sys2Proof.Machine.execLdsx f s
  | .stsx f => Sys2Proof.Machine.execStsx f s
  | .ld f => Sys2Proof.Machine.execLd f s
  | .st f => Sys2Proof.Machine.execSt f s
  | .atom f => Sys2Proof.Machine.execAtom f s
  | .sld f => Sys2Proof.Machine.execSld f s
  | .sst f => Sys2Proof.Machine.execSst f s
  | .fence f => Sys2Proof.Machine.execFence f s
  | .fencel f => Sys2Proof.Machine.execFencel f s
  | .fenceh f => Sys2Proof.Machine.execFenceh f s
  | .opfence f => Sys2Proof.Machine.execOpfence f s
  | .invl1 f => Sys2Proof.Machine.execInvl1 f s
  | .pref f => Sys2Proof.Machine.execPref f s
  | .dfill f => Sys2Proof.Machine.execDfill f s
  | .cpy f => Sys2Proof.Machine.execCpy f s
  | .tcpy f => Sys2Proof.Machine.execTcpy f s
  | .chain f => Sys2Proof.Machine.execChain f s
  | .gather f => Sys2Proof.Machine.execGather f s
  | .scatter f => Sys2Proof.Machine.execScatter f s
  | .nrset f => Sys2Proof.Machine.execNrset f s
  | .nred f => Sys2Proof.Machine.execNred f s
  | .mma f => Sys2Proof.Machine.execMma f s
  | .pmma f => Sys2Proof.Machine.execPmma f s
  | .smma f => Sys2Proof.Machine.execSmma f s
  | .accld f => Sys2Proof.Machine.execAccld f s
  | .accst f => Sys2Proof.Machine.execAccst f s
  | .accz f => Sys2Proof.Machine.execAccz f s
  | .drain f => Sys2Proof.Machine.execDrain f s
  | .lqstart f => Sys2Proof.Machine.execLqstart f s
  | .lqstop f => Sys2Proof.Machine.execLqstop f s
  | .atload f => Sys2Proof.Machine.execAtload f s
  | .atswap f => Sys2Proof.Machine.execAtswap f s
  | .msusp f => Sys2Proof.Machine.execMsusp f s
  | .mres f => Sys2Proof.Machine.execMres f s
  | .tspawn f => Sys2Proof.Machine.execTspawn f s
  | .wqry f => Sys2Proof.Machine.execWqry f s
  | .glaunch f => Sys2Proof.Machine.execGlaunch f s
  | .gwait f => Sys2Proof.Machine.execGwait f s
  | .jmpx f => Sys2Proof.Machine.execJmpx f s
  | .tokacq f => Sys2Proof.Machine.execTokacq f s
  | .tokrel f => Sys2Proof.Machine.execTokrel f s
  | .tokqry f => Sys2Proof.Machine.execTokqry f s
  | .tlbinv f => Sys2Proof.Machine.execTlbinv f s
  | .fqpop f => Sys2Proof.Machine.execFqpop f s
  | .fqrpl f => Sys2Proof.Machine.execFqrpl f s
  | .migr f => Sys2Proof.Machine.execMigr f s
  | .cntrd f => Sys2Proof.Machine.execCntrd f s
  | .cntclr f => Sys2Proof.Machine.execCntclr f s
  | .clauseIssue g sp => Sys2Proof.Machine.execClauseIssue g sp s
  | .swapEvent core => Sys2Proof.Machine.execSwapEvent core s
  | .watchdogExpiry g => Sys2Proof.Machine.execWatchdogExpiry g s
  | .memRequestComplete op req land => Sys2Proof.Machine.execMemRequestComplete op req land s
  | .homeAccess op req => Sys2Proof.Machine.execHomeAccess op req s
  | .faultService => Sys2Proof.Machine.execFaultService s
  | .migrationDone op => Sys2Proof.Machine.execMigrationDone op s
  | .groupEnd g => Sys2Proof.Machine.execGroupEnd g s
  | .commandDequeue => Sys2Proof.Machine.execCommandDequeue s
  | .gridAccept ctx prio => Sys2Proof.Machine.execGridAccept ctx prio s
  | .workgroupDispatch core => Sys2Proof.Machine.execWorkgroupDispatch core s
  | .shadowAbandon sh => Sys2Proof.Machine.execShadowAbandon sh s
  | .taskDispatch ctx prio core => Sys2Proof.Machine.execTaskDispatch ctx prio core s
  | .dispatchPassOverLimit cluster => Sys2Proof.Machine.execDispatchPassOverLimit cluster s
  | .driftCreation grid => Sys2Proof.Machine.execDriftCreation grid s
  | .driftArrivalEntry x => Sys2Proof.Machine.execDriftArrivalEntry x s
  | .driftAdmission core => Sys2Proof.Machine.execDriftAdmission core s
  | .driftSpill x => Sys2Proof.Machine.execDriftSpill x s
  | .overflowRingGrow core => Sys2Proof.Machine.execOverflowRingGrow core s
  | .copyOpComplete op => Sys2Proof.Machine.execCopyOpComplete op s
  | .chainEnd op => Sys2Proof.Machine.execChainEnd op s
  | .chainCopy op => Sys2Proof.Machine.execChainCopy op s
  | .chainFill op => Sys2Proof.Machine.execChainFill op s
  | .chainTile op => Sys2Proof.Machine.execChainTile op s
  | .chainSignal op => Sys2Proof.Machine.execChainSignal op s
  | .chainWaitge op => Sys2Proof.Machine.execChainWaitge op s
  | .chainGather op => Sys2Proof.Machine.execChainGather op s
  | .chainScatter op => Sys2Proof.Machine.execChainScatter op s
  | .nredAccept op => Sys2Proof.Machine.execNredAccept op s
  | .latheOpStart op => Sys2Proof.Machine.execLatheOpStart op s
  | .latheOpComplete op => Sys2Proof.Machine.execLatheOpComplete op s
  | .ringCommandFetch core => Sys2Proof.Machine.execRingCommandFetch core s
  | .ringMma core => Sys2Proof.Machine.execRingMma core s
  | .ringSmma core => Sys2Proof.Machine.execRingSmma core s
  | .ringDrain core => Sys2Proof.Machine.execRingDrain core s
  | .waitcnt core => Sys2Proof.Machine.execWaitcnt core s
  | .latheSignal core => Sys2Proof.Machine.execLatheSignal core s
  | .latheStop core => Sys2Proof.Machine.execLatheStop core s
  | .wqryAnswer op => Sys2Proof.Machine.execWqryAnswer op s
  | .preemptDeadline ctx => Sys2Proof.Machine.execPreemptDeadline ctx s
  | .hostWaitLimit op => Sys2Proof.Machine.execHostWaitLimit op s
  | .recoveryLimit peer => Sys2Proof.Machine.execRecoveryLimit peer s
  | .tokenHoldExpiry region => Sys2Proof.Machine.execTokenHoldExpiry region s
  | .scrubVisit slice row found => Sys2Proof.Machine.execScrubVisit slice row found s
  | .hostMemoryAccess h => Sys2Proof.Machine.execHostMemoryAccess h s
  | .controlRegisterWrite off data => Sys2Proof.Machine.execControlRegisterWrite off data s
  | .reset => Sys2Proof.Machine.execReset s
  | .patchgoPatch good => Sys2Proof.Machine.execPatchgoPatch good s
  | .patchgoContinue => Sys2Proof.Machine.execPatchgoContinue s
  | .powerOn => Sys2Proof.Machine.execPowerOn s
  | .functionLevelReset => Sys2Proof.Machine.execFunctionLevelReset s
  | .powerLoss => Sys2Proof.Machine.execPowerLoss s
  | .selfTestDone => Sys2Proof.Machine.execSelfTestDone s
  | .patchWaitTimeout => Sys2Proof.Machine.execPatchWaitTimeout s
  | .linkTrainingDone => Sys2Proof.Machine.execLinkTrainingDone s
  | .negotiate c => Sys2Proof.Machine.execNegotiate c s
  | .ctxCreate c => Sys2Proof.Machine.execCtxCreate c s
  | .ctxDestroy c => Sys2Proof.Machine.execCtxDestroy c s
  | .map c => Sys2Proof.Machine.execMap c s
  | .unmap c => Sys2Proof.Machine.execUnmap c s
  | .migrate c => Sys2Proof.Machine.execMigrate c s
  | .launch c => Sys2Proof.Machine.execLaunch c s
  | .launchCoop c => Sys2Proof.Machine.execLaunchCoop c s
  | .preempt c => Sys2Proof.Machine.execPreempt c s
  | .preemptResume c => Sys2Proof.Machine.execPreemptResume c s
  | .resetContext c => Sys2Proof.Machine.execResetContext c s
  | .queryDevice c => Sys2Proof.Machine.execQueryDevice c s
  | .queryTaskQueues c => Sys2Proof.Machine.execQueryTaskQueues c s
  | .queryFaultQueue c => Sys2Proof.Machine.execQueryFaultQueue c s
  | .queryVersion c => Sys2Proof.Machine.execQueryVersion c s
  | .queryPeerState c => Sys2Proof.Machine.execQueryPeerState c s
  | .setOperatingPoint c => Sys2Proof.Machine.execSetOperatingPoint c s
  | .clearFcons c => Sys2Proof.Machine.execClearFcons c s
  | .setWdlim c => Sys2Proof.Machine.execSetWdlim c s
  | .setQosDefault c => Sys2Proof.Machine.execSetQosDefault c s
  | .setPrefetchThreshold c => Sys2Proof.Machine.execSetPrefetchThreshold c s
  | .setHostWaitLimit c => Sys2Proof.Machine.execSetHostWaitLimit c s
  | .setRecoveryLimit c => Sys2Proof.Machine.execSetRecoveryLimit c s
  | .setDomainRun c => Sys2Proof.Machine.execSetDomainRun c s
  | .unpinRegion c => Sys2Proof.Machine.execUnpinRegion c s
  | .serviceAttach c => Sys2Proof.Machine.execServiceAttach c s
  | .scrubCfg c => Sys2Proof.Machine.execScrubCfg c s
  | .screenCfg c => Sys2Proof.Machine.execScreenCfg c s
  | .linkLockUnlock c => Sys2Proof.Machine.execLinkLockUnlock c s
  | .linkLockLock c => Sys2Proof.Machine.execLinkLockLock c s
  | .linkLockStart c => Sys2Proof.Machine.execLinkLockStart c s
  | .getVersion port => Sys2Proof.Machine.execGetVersion port s
  | .getCapabilities port => Sys2Proof.Machine.execGetCapabilities port s
  | .negotiateAlgorithms port common => Sys2Proof.Machine.execNegotiateAlgorithms port common s
  | .getDigests port => Sys2Proof.Machine.execGetDigests port s
  | .getCertificate port => Sys2Proof.Machine.execGetCertificate port s
  | .challenge port => Sys2Proof.Machine.execChallenge port s
  | .getMeasurements port => Sys2Proof.Machine.execGetMeasurements port s
  | .keyExchange port => Sys2Proof.Machine.execKeyExchange port s
  | .finish port => Sys2Proof.Machine.execFinish port s
  | .keyUpdate port => Sys2Proof.Machine.execKeyUpdate port s
  | .endSession port => Sys2Proof.Machine.execEndSession port s
  | .frameLimitKeyUpdate port => Sys2Proof.Machine.execFrameLimitKeyUpdate port s
  | .frameTagFail port => Sys2Proof.Machine.execFrameTagFail port s
  | .flitReceive port f => Sys2Proof.Machine.execFlitReceive port f s
  | .linkAckReceive port sq => Sys2Proof.Machine.execLinkAckReceive port sq s
  | .replayRequest port sq => Sys2Proof.Machine.execReplayRequest port sq s
  | .laneLossOfLock port => Sys2Proof.Machine.execLaneLossOfLock port s
  | .retrainComplete port => Sys2Proof.Machine.execRetrainComplete port s
  | .widthRestore port => Sys2Proof.Machine.execWidthRestore port s
  | .idlePortNarrow port => Sys2Proof.Machine.execIdlePortNarrow port s
  | .portUp port => Sys2Proof.Machine.execPortUp port s
  | .linkVersionOffer port offer => Sys2Proof.Machine.execLinkVersionOffer port offer s
  | .readRequest p => Sys2Proof.Machine.execReadRequest p s
  | .writeRequest p => Sys2Proof.Machine.execWriteRequest p s
  | .mcwr p => Sys2Proof.Machine.execMcwr p s
  | .atomicRequest p => Sys2Proof.Machine.execAtomicRequest p s
  | .rdata p => Sys2Proof.Machine.execRdata p s
  | .ack p => Sys2Proof.Machine.execAck p s
  | .tokRequest peer region => Sys2Proof.Machine.execTokRequest peer region s
  | .tokGrant region => Sys2Proof.Machine.execTokGrant region s
  | .tokRecall region => Sys2Proof.Machine.execTokRecall region s
  | .tokReturn region => Sys2Proof.Machine.execTokReturn region s
  | .tokQueryAnswer op status => Sys2Proof.Machine.execTokQueryAnswer op status s
  | .pstate peer st => Sys2Proof.Machine.execPstate peer st s
  | .badpkt p => Sys2Proof.Machine.execBadpkt p s
  | .commandAreaAccess h => Sys2Proof.Machine.execCommandAreaAccess h s
  | .romDigestCheckDone good => Sys2Proof.Machine.execRomDigestCheckDone good s
  | .accumulatorPortComplete op => Sys2Proof.Machine.execAccumulatorPortComplete op s
  | .activationBankLoadDone op => Sys2Proof.Machine.execActivationBankLoadDone op s
  | .tokenEntryExpiry region => Sys2Proof.Machine.execTokenEntryExpiry region s

end Sys2Proof.Machine
end

