-- ==== Sys2Proof/Machine/Moves.lean ====
section
/-! DEFINITION. What the units may do next, what every step does besides its instruction, and the choice of what comes next (R9, R26, R40, R277 to R279, R317 to R324). -/

namespace Sys2Proof.Machine

open Sys2Proof

/-! ### What may happen next -/

/-- Clauses that may start: on each core and for each class of pipes, of the splits whose next clause is issuable, those that started one
least recently (R52, R277). -/
def State.clauseMoves (s : State) : List Instr :=
  ((s.groups.map (·.core)).eraseDups.map fun core =>
    (s.firstFor core 0 ++ s.firstFor core 1 ++ s.firstFor core 2).map fun x => Instr.clauseIssue x.1 x.2).flatten

/-- Whether a split's next instruction word may issue: in mid-clause, and neither waiting for a unit nor kept from issue; in trap mode only
the split that trapped issues, and after a TRET a pending trap is entered first (R326, R331). -/
def Group.issues (g : Group) (p : Split) : Bool :=
  g.splits.any (·.idx == p.idx) && p.left != 0 && (p.wait == .none || p.wait == .stall) && !g.ended
    && g.saved.all (·.trapper == p.idx) && !(g.entering && !g.pending.isEmpty)

/-- Whether a group that a swap event has named has still a clause to finish before it moves (R279). -/
def State.stillLeaving (_ : State) (g : Group) : Bool := g.active && g.leaving && g.splits.any g.issues

/-- Swap events, watchdogs, rendezvous that run out, and ends of groups (R22, R144, R279, R321). -/
def State.groupMoves (s : State) : List Instr :=
  let swaps := ((s.groups.map (·.core)).eraseDups.filter fun c =>
    !(s.readyGroups c).isEmpty && decide (SMap.get 0 s.lastSwap c + 256 ≤ s.clk.toNat) && !(s.groups.any fun g => g.core == c && s.stillLeaving g)).map
      Instr.swapEvent
  let dogs := (s.groups.filter fun g => decide (g.limit ≤ g.wdog) && !g.ended).map fun g => Instr.watchdogExpiry g.gid
  let ends := (s.groups.filter (·.ended)).map fun g => Instr.groupEnd g.gid
  let times := (s.groups.map fun g => g.splits.filterMap fun p => match p.wait with
    | .xshuf _ _ t => if t.toNat + 65536 ≤ s.clk.toNat then some (Instr.xshto g.gid p.idx) else none
    | _ => none).flatten
  swaps ++ dogs ++ ends ++ times

/-- Requests that may be performed at home, and those that may complete for some lanes: replies of one slice to one cluster arrive in order
(R42, R182, R203, R350). -/
def State.memoryMoves (s : State) : List Instr :=
  (s.mops.map fun o =>
    let home := ((o.elems.filter (s.performable o)).map (·.req)).eraseDups.map fun r => Instr.homeAccess o.id r
    let done := ((o.elems.filter fun e => match e.stage with | .performed _ => true | _ => false).map (·.req)).eraseDups
    home ++ (done.filter fun r => !s.replyBehind o r).map fun r => Instr.memRequestComplete o.id r (Config.free64 s.tick (9500 + r))).flatten

/-- Operations of the copy engines and the routers (R219, R227, R229, R311). -/
def State.copyMoves (s : State) : List Instr :=
  (s.copies.map fun c => match c.kind with
    | .chain => [Instr.chainEnd c.id, .chainCopy c.id, .chainFill c.id, .chainTile c.id, .chainSignal c.id, .chainWaitge c.id,
        .chainGather c.id, .chainScatter c.id, .copyOpComplete c.id]
    | .nred => [.nredAccept c.id, .copyOpComplete c.id]
    | .migr => [.migrationDone c.id]
    | .drain => []
    | _ => [.copyOpComplete c.id]).flatten

/-- Operations of the Lathes and their rings (R230, R243, R246, R252, R255 to R258). -/
def State.latheMoves (s : State) : List Instr :=
  (s.lathe.map fun o => match o.kind with
    | .accld | .accst | .accz => [Instr.accumulatorPortComplete o.id]
    | .atload => [.activationBankLoadDone o.id]
    | .atswap => []
    | _ => if o.started then [.latheOpComplete o.id] else [.latheOpStart o.id]).flatten ++
  (s.rings.map fun r => [Instr.ringCommandFetch r.core, .ringMma r.core, .ringSmma r.core, .ringDrain r.core, .waitcnt r.core,
    .latheSignal r.core, .latheStop r.core]).flatten

/-- The Spindle units (R18, R274, R275, R281, R284, R340). -/
def State.spindleMoves (s : State) : List Instr :=
  let accepts := (s.launches.map fun l => Instr.gridAccept l.ctx l.prio).eraseDups
  let places := if s.openGrids.isEmpty && s.shadowReqs.isEmpty then [] else (List.range Config.cores).map Instr.workgroupDispatch
  let tasks := (s.ctxs.map fun c => ((List.range 96).filter fun k => (s.taskNext c.id (k / 4) (k % 4)).isSome).map fun k =>
    (coresOf (k / 4)).map fun core => Instr.taskDispatch c.id (k % 4) core).flatten.flatten
  let shadows := (s.shadowReqs.filter fun q => decide (65536 ≤ (s.clk - q.since).toNat)).map fun q => Instr.shadowAbandon q.id
  let limits := ((s.passes.filter fun p => !p.blocks && decide (65536 ≤ (s.clk - p.since).toNat)).map fun p =>
    Instr.dispatchPassOverLimit p.cluster).eraseDups
  accepts ++ places ++ tasks ++ shadows ++ limits ++ s.queries.map fun q => Instr.wqryAnswer q.id

/-- Drift transfers (R289, R292, R293). -/
def State.driftMoves (s : State) : List Instr :=
  ((s.grids.filter fun g => g.desc.drift && decide (g.next < g.total)).map fun g => Instr.driftCreation g.id)
    ++ ((s.xfers.filter (·.stage == .sender)).map fun x => Instr.driftArrivalEntry x.id)
    ++ (((s.xfers.filter (·.stage != .sender)).map (·.toward)).eraseDups.map Instr.driftAdmission)
    ++ ((s.xfers.filter fun x => x.stage != .ring && !x.creation).map fun x => Instr.driftSpill x.id)
    ++ (((s.xfers.filter (·.overflow)).map (·.toward)).eraseDups.map Instr.overflowRingGrow)

/-- The firmware, timers and token table (R39, R199, R309, R313 to R315, R345, R376). -/
def State.deviceMoves (s : State) : List Instr :=
  let queued := s.cmd.isNone && s.dev == .ready && (s.header (.cmd 0) 8).any fun h => h.head != h.tail
  (if s.fqEmpty then [] else [Instr.faultService])
    ++ (if queued then [.commandDequeue] else [])
    ++ ((s.ctxs.filter fun c => c.deadline.any fun d => decide (d.1.toNat ≤ s.clk.toNat)).map fun c => Instr.preemptDeadline c.id)
    ++ ((s.mops.filter fun o => match o.owner with
        | .host _ => o.since != 0 && decide (700 * s.hostWait ≤ (s.clk - o.since).toNat)
        | _ => false).map fun o => Instr.hostWaitLimit o.id)
    ++ ((s.peers.filter (·.2 == .recovering)).map fun p => Instr.recoveryLimit p.1)
    ++ ((s.tokens.filter fun t => t.recalled || !t.waiting.isEmpty).map fun t => Instr.tokenHoldExpiry t.region)
    ++ ((s.tokens.filter fun t => regionHere t.region && t.holder.isNone && !t.pinned && t.waiting.isEmpty).map fun t => Instr.tokenEntryExpiry t.region)
    ++ (s.tokOps.filter fun q => regionHere q.region || q.kind == 1).map fun q => Instr.tokQueryAnswer q.id 0

/-- Every step that a unit of the device may take next. -/
def State.moves (s : State) : List Instr :=
  s.clauseMoves ++ s.groupMoves ++ s.memoryMoves ++ s.copyMoves ++ s.latheMoves ++ s.spindleMoves ++ s.driftMoves ++ s.deviceMoves

/-- A source of the next step. -/
inductive Next where
  /-- The next instruction of the split that issues. -/
  | word
  /-- The oldest event of the outside world. -/
  | input
  /-- The oldest packet received. -/
  | packet
  /-- The command in hand. -/
  | command
  /-- The firmware takes the oldest entry of its event queue (R271). -/
  | event
  /-- A step of a unit. -/
  | unit (i : Instr)
  deriving DecidableEq, Repr

/-- Everything that may come next; nothing in a device without power but the outside world. -/
def State.sources (s : State) : List Next :=
  (if s.inputs.isEmpty then [] else [Next.input]) ++
  (if s.power then
    (if s.G.issues s.S then [.word] else []) ++ (if s.arrived.isEmpty then [] else [.packet]) ++ (if s.cmd.isNone then [] else [.command])
      ++ (if s.events.isEmpty then [] else [.event])
      ++ s.moves.map Next.unit
  else [])

/-- The clause that may start whose split started one least recently. -/
def State.oldestClause (s : State) : Option Next :=
  let age : Instr → Nat := fun i => match i with | .clauseIssue g p => ((s.grp g).split p).started | _ => 0
  (sortOn age s.clauseMoves).head?.map Next.unit

/-- What comes next in one of the steps that are kept for progress, four in 64 (R40, R279; log 94): the word in hand, the clause that has waited
longest, a swap event, or each source in turn; none where it is not among the sources. -/
def State.fairNext (s : State) (all : List Next) : Option Next :=
  let swap : Next → Bool := fun n => match n with | .unit (.swapEvent _) => true | _ => false
  (match s.tick % 64 with
    | 63 => some Next.word
    | 47 => all.find? swap
    | 31 => s.oldestClause
    | 15 => all[s.tick / 64 % all.length]?
    | _ => none).filter all.contains

/-- What comes next: the one thing that may, or an unspecified choice (R9, R13), but in the steps that are kept for progress (R40). -/
def State.next (s : State) : Option Next :=
  match s.sources with
  | [] => none
  | [n] => some n
  | n :: ns => some ((s.fairNext (n :: ns)).getD ((n :: ns).getD (Config.choose s.tick 0 % (n :: ns).length) n))

/-- What comes next happens. An input to a device without power is lost, but for power itself (R384). -/
def State.perform1 (s : State) : Next → Out
  | .word => match s.issue with
    | .stops t => go t
    | .runs i t => exec i t
  | .input => match s.inputs with
    | [] => go s
    | i :: rest => if s.power ∨ i = .powerOn then exec i { s with inputs := rest } else go { s with inputs := rest }
  | .packet => match s.arrived with
    | [] => go s
    | p :: rest => ({ s with arrived := rest } : State).servePacket p
  | .command => match s.cmd with
    | none => go s
    | some c => s.runCommand c
  | .event => go { s with events := s.events.drop 1 }
  | .unit i => exec i s

/-! ### What every step does besides (R23, R38, R153, R157, R158, R185, R194, R214, R230, R278, R321, R324, R337, R358) -/

/-- Whether a split is parked in a way that the watchdog does not count (R321). -/
def State.exempt (s : State) (g : Group) (p : Split) : Bool :=
  (match p.wait with | .fetch _ => true | .remote d _ => SMap.get .absent s.peers d == .recovering | _ => false) ||
  s.mops.any fun o => o.owner == .group g.gid p.idx && o.opc != 0xAA && o.elems.any fun e =>
    match e.stage, e.loc with
    | .pageFault, _ | .writeProtect, _ => true
    | .remoteWait, .peer d _ => SMap.get .absent s.peers d == .recovering
    | _, _ => false

/-- n clocks pass for a group's watchdog of 40 bits (R321). -/
def State.tickDog (s : State) (n : Nat) (g : Group) : Group :=
  if g.ended || (!g.splits.isEmpty && g.splits.all (s.exempt g)) then g else { g with wdog := min (g.wdog + n) (2 ^ 40) }

/-- Whether the clocks that pass now count as an event on a core (R324): clocks, clocks with no issuable active clause, with the Lathe busy,
and stalled on the transaction table. -/
def State.clockEvent (s : State) (core : Nat) (ev : Byte) : Bool :=
  match ev.toNat with
  | 0x01 => true
  | 0x0A => (s.readyFor core 0 ++ s.readyFor core 1 ++ s.readyFor core 2).isEmpty
  | 0x0B =>
    (s.lathe.any fun o => (o.core == core || (o.kind == .pmma && o.core + 1 == core)) && o.started && !(([.accld, .accst, .accz, .atload, .atswap] : List LatheKind).contains o.kind))
      || s.rings.any fun r => r.core == core && r.cmd.isSome
  | 0x0C => s.groups.any fun g => g.core == core && (!(s.txWaiting g.gid).isEmpty
      || ((s.freeTx core g.gid).isNone && g.splits.any fun p => p.wait == .stall
        && (let c := fldN p.ir 56 8; (decide (0x90 ≤ c) && decide (c ≤ 0x94)) || (decide (0xA0 ≤ c) && decide (c ≤ 0xA4)) || c == 0xAB)))
  | _ => false

/-- Clocks pass: SR_CLK, the watchdogs, and the performance counters that count clocks (R98, R321, R324). -/
def State.passClocks (s : State) (n : Nat) : State :=
  let add (m : SMap W64) (k : Nat × Byte) : SMap W64 :=
    if s.clockEvent (k.1 / 16) k.2 then SMap.set 0 m (4096 * 0x60 + k.1) (BitVec.ofNat 64 (min ((SMap.get 0 m (4096 * 0x60 + k.1)).toNat + n) (2 ^ 48 - 1))) else m
  { s with clk := s.clk + BitVec.ofNat 64 n
           groups := s.groups.map (s.tickDog n)
           xfers := s.xfers.map fun x => if x.creation then x else { x with image := s.tickDog n x.image }
           counters := s.perfSel.foldl add s.counters }

/-- Restarts go on once the group's counters are zero and its splits stand at clause boundaries (R337). -/
def State.restarts (s : State) : State :=
  s.groups.foldl (fun t g =>
    let x := t.grp g.gid
    if x.restarting && x.inflight.isEmpty && x.splits.all (fun p => p.left == 0 || p.wait != .none) then (t.blurRestart g.gid).restartGroup g.gid else t) s

/-- Pending traps are entered as soon as they may be (R326, R331). -/
def State.enterAll (s : State) : State := s.groups.foldl (fun t g => t.enterPending g.gid) s

/-- Evaluations that found their queue full are tried again (R271). -/
def State.retryPosts (s : State) : State := s.evalPosts.foldl State.postEval { s with evalPosts := [] }

/-- Packets sent in this step go to their ports (R358). -/
def State.emitNew (before s : State) : State :=
  let new := newPackets before.sent s.sent
  ((new.map (·.port)).eraseDups).foldl (fun t n => t.emit n (new.filter (·.port == n))) s

/-- A counter rises n times, as far as its width lets it (R323). -/
def State.bumpBy (s : State) (index inst n : Nat) : State :=
  let c := min ((s.counter index inst).toNat + n) (2 ^ counterWidth index - 1)
  if n = 0 then s else { s with counters := SMap.set 0 s.counters (4096 * index + inst) (BitVec.ofNat 64 c) }

/-- A performance event occurs n times on a core (R324). -/
def State.perfBy (s : State) (core ev n : Nat) : State :=
  (List.range 16).foldl (fun t j =>
    if (SMap.get 0 t.perfSel (16 * core + j)).toNat = ev then t.bumpBy 0x60 (16 * core + j) n else t) s

/-- Clocks that a scratchpad instruction takes beyond its first: of the banks that its elements reach, the one with the most distinct rows (R187). -/
def bankClocks (o : MemOp) : Nat :=
  let rows := ((o.elems.map fun e => match e.loc with
    | .spm c p => (List.range ((p % 16 + e.size + 15) / 16)).map fun i => (c, (p / 16 + i) % 128, (p / 16 + i) / 128 % 512)
    | _ => []).flatten).eraseDups
  let banks := (rows.map fun r => (r.1, r.2.1)).eraseDups
  (banks.map fun b => (rows.filter fun r => (r.1, r.2.1) == b).length).foldl max 1 - 1

/-- What a performed element adds to the counters that only the hardware's course decides: lateness at its slice and on the request mesh (R351),
an error that ECC corrected in what it read, whose row enters the correction history (R316, R323), and retries at a held lock bit (R183). -/
def State.countElem (s : State) (o : MemOp) (e : Elem) (k : Nat) : State :=
  let slice := ((s.waiterTable e.loc).map (·.1)).getD 0
  let here : Bool := match e.loc with | .mem _ => true | _ => false
  let s := if here && s.lateNow o.deadline o.born o.late k then
      let t := (s.bump 0x02 slice).modOp o.id fun p => { p with late := true }
      if Config.choose s.tick (9000 + k) % 2 = 1 then t.bump 0x01 (Config.choose s.tick (9100 + k) % 24) else t
    else s
  let s := match e.loc with
    | .mem a => if a < Config.tier1Base && o.kind != .store && Config.choose s.tick (9200 + k) % 2 = 1 then (s.bump 0x11 slice).noteRow slice (a / 128 * 128) else s
    | _ => s
  let locks : Bool := o.scratch && (2 ≤ e.win || (match o.kind with | .atomic _ => true | _ => false))
  if locks then s.perfBy o.core 4 (Config.choose s.tick (9300 + k)) else s

/-- The counters of what has happened in a step besides those that its instruction raises (R14, R323, R324; log 4): extra clocks of scratchpad
instructions from bank rows, elements performed, and replies that reach their group late. -/
def State.tallyStep (before s : State) : State :=
  let new := s.mops.filter fun o => o.scratch && decide (before.nextId ≤ o.id)
  let t := new.foldl (fun t o => t.perfBy o.core 5 (bankClocks o)) s
  let t := ((State.performedSince before s).zipIdx).foldl (fun t x => t.countElem x.1.1 x.1.2 x.2) t
  let came := before.mops.filter fun o => o.deadline != 0 && o.elems.any fun e => (match e.stage with | .performed _ => true | _ => false)
    && (s.mop? o.id).all fun p => p.elems.any fun x => x.lane == e.lane && x.reg == e.reg && x.stage == .done
  came.foldl (fun t o =>
    if t.lateNow o.deadline o.born o.late 0 && Config.choose t.tick (9400 + o.id) % 2 = 1 then t.bump 0x01 (24 + Config.choose t.tick (9450 + o.id) % 24)
    else t) t

/-- The split that issues next, among those in mid-clause: an unspecified choice (R9), but in the step that is kept for the word of the split that
was chosen longest ago (R40; log 94). -/
def State.chooseSplit (s : State) : State :=
  let all := (s.groups.map fun g => (g.splits.filter g.issues).map fun p => (g.gid, p.idx, p.served)).flatten
  match all with
  | [] => s
  | c :: _ =>
    let k := if s.tick % 64 = 63 then (sortOn (fun x => x.2.2) all).headD c else all.getD (Config.choose s.tick 1 % all.length) c
    { s with cur := (k.1, k.2.1) }.modS fun p => { p with served := if s.tick % 64 = 63 then s.tick else p.served }

/-- What has become possible within the device happens, and time passes. -/
def State.advance (before s : State) : State :=
  let s := State.noteRaces before (State.noteCmds before (State.noteRewrites before (State.spoilAll before s.noteStrays)))
  let s := State.tallyStep before s
  let s := (s.enterAll.restarts.barriers.settleOwed).grantClaims
  let s := (s.settleTeams.settleSwaps.retryPosts.settleFaults.settleHeld.settleTxs).serveTokWait
  let s := s.sendUnsent.settleWritten.settleWaits
  let s := ((State.emitNew before s).settlePorts.settlePreempts).reschedule
  let s := s.passClocks (Config.elapsed s.tick)
  { s with tick := s.tick + 1 }.chooseSplit

end Sys2Proof.Machine
end

