-- ==== Sys2Proof/Machine/Step.lean ====
section
/-! DEFINITION. One step of the device, and a state whose next step fetches a given instruction. -/

namespace Sys2Proof.Machine

open Sys2Proof

/-- One step: what comes next happens, then what every step does. A device without power takes none (R384). -/
def step (s : State) : Out :=
  if !s.power && s.inputs.isEmpty then .fault .powerOff
  else
    match s.next with
    | none => .next (State.advance s s)
    | some n =>
      match s.perform1 n with
      | .next t => .next (State.advance s t)
      | .fault f => .fault f
      | .refused r => .refused r

/-- The bytes of an instruction word whose bits above nbits are zero, preceded by the header of a clause that holds it alone (R48, R50). -/
def clauseBytes (nbits w : Nat) : List Byte :=
  bytesOf 8 (0xF000000000000000 : W64) ++ bytesOf 8 (BitVec.ofNat 64 (w % 2 ^ nbits))

/-- The group that issues the word: one split in mid-clause. -/
def fetchGroup : Group :=
  { gid := 1, ctx := 1, wg := 1, nblk := 16, svc := true, active := true
    splits := [{ mask := BitVec.allOnes 64, pc := 0x108, hdrPc := 0x100, hdr := 0xF000000000000000, left := 1 }] }

/-- The tables and the code of the context that runs it: a 1 GiB page of tier 0 at address 0 with every permission (R295 to R297). -/
def fetchMem (m : Memory) (nbits w : Nat) : Memory :=
  ((((m.setNum 0x1000 8 (pointerTo 0x2000)).setNum 0x2000 8 (pointerTo 0x3000)).setNum 0x3000 8 0x400FFFF0F)).writeN 0x100 (clauseBytes nbits w)

/-- The state with an instruction stored where step fetches next: a context, one resident group in mid-clause, and nothing else that could come first (log 22). -/
def State.withFetchWord (s : State) (nbits w : Nat) : State :=
  { s with
    inputs := [], arrived := [], cmd := none, power := true, dev := .ready, cur := (1, 0)
    groups := [fetchGroup], wgs := [{ id := 1, ctx := 1, size := 0x100000, live := 1 }], ctxs := [{ id := 1, root := 0x1000, feats := 0x1F }]
    grids := [], launches := [], xfers := [], mops := [], copies := [], lathe := [], rings := [], queries := [], tokOps := [], evalPosts := []
    shadowReqs := [], passes := [], tokens := [], peers := [], fq := {}, cmdMem := resetCmdMem, tlb := [], istore := []
    txs := [], enqReads := [], screens := [], events := []
    mem := fetchMem s.mem nbits w }

end Sys2Proof.Machine
end

