-- ==== Sys2Proof/Safety.lean ====
section
/-! DEFINITION. The terms of the claims: what a sound state is, when an instruction completes as it stands, and what one leaves unchanged. -/

namespace Sys2Proof.Machine

open Sys2Proof

/-! ### Sound states -/

/-- Every memory is in its canonical form. -/
def State.memWf (s : State) : Bool :=
  s.mem.wf && s.spm.wf && s.act.wf && s.cmdMem.wf && s.patch.wf && s.msix.wf

/-- The fixed fields of the firmware command queue's header: BASE, LCAP, ESIZE and TRAPEN (R374). -/
def State.headerFixed (s : State) : Bool :=
  s.cmdMem.num 0 8 == 0x1000 && s.cmdMem.num 8 1 == 10 && s.cmdMem.num 9 1 == 8 && s.cmdMem.num 10 1 % 2 == 0

/-- A group's hard-wired predicate reads true in every lane (R20), whatever its predicate file holds. -/
def Group.p0 (g : Group) : Prop := g.pred 0 = BitVec.allOnes 64

/-- The machine runs: a step that answers a next state. -/
def State.runs (s : State) : Prop := ∃ t, step s = .next t

/-! ### When an instruction completes as it stands -/

/-- The issuing split is a live split of a group that the device holds (R26). -/
def State.issuing (s : State) : Bool := (s.group? s.cur.1).isSome && s.G.splits.any (·.idx == s.cur.2)

/-- The issuing word does not end an END clause whose signature differs from its header's (R53): a mismatch is a UE (R339). -/
def State.signed (s : State) : Bool :=
  decide (2 ≤ s.S.left) || !bitAt s.S.hdr 29 || sigEnter s.S.sigb s.S.ir == fld s.S.hdr 30 16

/-- The instruction is not the last of its clause. -/
abbrev State.midClause (s : State) : Prop := 2 ≤ s.S.left

/-! ### What is left unchanged -/

/-- Outside the issuing group nothing changes: no byte at any location, no tag, poison mark, accumulator word or activation table, no other group, no special state of the device. -/
structure SameOutside (s t : State) : Prop where
  bytes : ∀ l n, t.readLoc l n = s.readLoc l n
  tags : t.tags = s.tags
  poison : t.poison = s.poison ∧ t.spmPoison = s.spmPoison ∧ t.accPoison = s.accPoison
  acc : t.acc = s.acc
  act : t.act = s.act
  others : ∀ g, g ≠ s.cur.1 → t.grp g = s.grp g

/-- Every special register but those listed reads as before for the issuing split. SR_SIGB (0x19) is always listed, since each word enters it (R53). -/
def SameSpecial (but : List Nat) (s t : State) : Prop :=
  ∀ x, x ∉ but → t.special t.G t.S x = s.special s.G s.S x

/-- Every s register reads as before, the trap bank's too. -/
def SameScalar (s t : State) : Prop := t.G.s = s.G.s ∧ t.G.bank = s.G.bank

/-- Every predicate reads as before in every lane. -/
def SamePred (s t : State) : Prop := ∀ p, t.G.pred p = s.G.pred p

/-- Every v register reads as before in every lane. -/
def SameVector (s t : State) : Prop := t.G.v = s.G.v

/-- The issuing split goes on at the next word with the same lanes; the word enters SIGB, which an END clause resets (R53). -/
structure NextWord (s t : State) : Prop where
  cur : t.cur = s.cur
  pc : t.S.pc = s.S.pc + 8
  left : t.S.left = s.S.left - 1
  mask : t.S.mask = s.S.mask
  sigb : t.S.sigb = if s.S.left ≤ 1 ∧ bitAt s.S.hdr 29 = true then 0xFFFF else sigEnter s.S.sigb s.S.ir

/-- An instruction that writes no register at all: only SIGB and the pc move on, and the special registers listed. -/
structure Untouched (but : List Nat) (s t : State) : Prop where
  outside : SameOutside s t
  special : SameSpecial (0x19 :: but) s t
  scalar : SameScalar s t
  pred : SamePred s t
  vector : SameVector s t

/-- A latch keeps its contents in a lane, while the clause goes on. -/
def SameLatch (bl : Nat) (m : Mask) (s t : State) : Prop :=
  s.midClause → ∀ b l, b < 4 → l < 64 → (b ≠ bl ∨ bitAt m l = false) → t.latch b l = s.latch b l

/-- In every lane of m a 32-bit result that P allows is in register d unless w, and in latch bl while the clause goes on (R63, R108); every other element of a v register is as before. -/
structure Wrote32 (d : BitVec 8) (w : Bool) (bl : BitVec 2) (m : Mask) (P : Nat → W32 → Prop) (s t : State) : Prop where
  result : ∀ l, l < 64 → bitAt m l = true → ∃ x, P l x ∧ (w = false → t.G.vreg d.toNat l = x) ∧
    (s.midClause → t.latch bl.toNat l = x.setWidth 64)
  others : ∀ r l, l < 64 → (w = true ∨ r ≠ d.toNat ∨ bitAt m l = false) → t.G.vreg r l = s.G.vreg r l
  latches : SameLatch bl.toNat m s t

/-- In every lane of m a 64-bit result that P allows is in the pair d, d + 1 unless w, and in the whole latch bl while the clause goes on (R63, R107). -/
structure Wrote64 (d : BitVec 8) (w : Bool) (bl : BitVec 2) (m : Mask) (P : Nat → W64 → Prop) (s t : State) : Prop where
  result : ∀ l, l < 64 → bitAt m l = true → ∃ x, P l x ∧
    (w = false → t.G.vreg d.toNat l = fld x 0 32 ∧ t.G.vreg (d.toNat + 1) l = fld x 32 32) ∧
    (s.midClause → t.latch bl.toNat l = x)
  others : ∀ r l, l < 64 → (w = true ∨ (r ≠ d.toNat ∧ r ≠ d.toNat + 1) ∨ bitAt m l = false) → t.G.vreg r l = s.G.vreg r l
  latches : SameLatch bl.toNat m s t

/-- A vector instruction's frame: nothing but v registers, latches, SIGB and the pc changes, and the special registers listed. -/
structure VectorFrame (but : List Nat) (s t : State) : Prop where
  outside : SameOutside s t
  special : SameSpecial (0x19 :: but) s t
  scalar : SameScalar s t
  pred : SamePred s t
  word : NextWord s t

/-- A 32-bit vector instruction completes: it answers a next state with the results P in the selected lanes, and the rest as before. -/
def Completes32 (i : Instr) (f : VForm) (P : State → Nat → W32 → Prop) : Prop :=
  ∀ s : State, s.issuing = true → s.signed = true →
    ∃ t, exec i s = .next t ∧ Wrote32 f.d f.w f.bl (selV f s) (P s) s t ∧ VectorFrame [] s t

/-- A 64-bit vector instruction completes. -/
def Completes64 (i : Instr) (f : VForm) (P : State → Nat → W64 → Prop) : Prop :=
  ∀ s : State, s.issuing = true → s.signed = true →
    ∃ t, exec i s = .next t ∧ Wrote64 f.d f.w f.bl (selV f s) (P s) s t ∧ VectorFrame [] s t

/-- A format I vector instruction completes (R59). -/
def CompletesImm (i : Instr) (f : IForm) (P : State → Nat → W32 → Prop) : Prop :=
  ∀ s : State, s.issuing = true → s.signed = true →
    ∃ t, exec i s = .next t ∧ Wrote32 f.d f.w f.bl (s.sel f.p false) (P s) s t ∧ VectorFrame [] s t

/-- A predicate instruction completes: predicate d takes P in the selected lanes (p0 discards it, R62), no other register changes. -/
def CompletesPred (i : Instr) (f : VForm) (P : State → Nat → Bool) : Prop :=
  ∀ s : State, s.issuing = true → s.signed = true →
    ∃ t, exec i s = .next t ∧
      (∀ l, l < 64 → bitAt (selV f s) l = true → f.d ≠ 0 → bitAt (t.G.pred f.d.toNat) l = P s l) ∧
      (∀ p l, l < 64 → (p ≠ f.d.toNat ∨ f.d = 0 ∨ bitAt (selV f s) l = false) → bitAt (t.G.pred p) l = bitAt (s.G.pred p) l) ∧
      SameVector s t ∧ SameScalar s t ∧ SameSpecial [0x19] s t ∧ SameOutside s t ∧ NextWord s t

/-- The s register d of the issuing split takes x, and no other s register changes. -/
structure WroteScalar (d : BitVec 8) (x : W64) (s t : State) : Prop where
  result : t.G.sreg t.cur.2 d.toNat = x
  others : ∀ r, r ≠ d.toNat → t.G.sreg t.cur.2 r = s.G.sreg s.cur.2 r

/-- A scalar instruction completes: with a selected lane its s register takes x, else it has no effect (R137); nothing else changes. -/
def CompletesScalar (i : Instr) (sel : State → Mask) (d : BitVec 8) (x : State → W64) : Prop :=
  ∀ s : State, s.issuing = true → s.signed = true →
    ∃ t, exec i s = .next t ∧
      (sel s ≠ 0 → s.midClause → WroteScalar d (x s) s t) ∧ (sel s = 0 → SameScalar s t) ∧
      SameVector s t ∧ SamePred s t ∧ SameSpecial [0x19] s t ∧ SameOutside s t ∧ NextWord s t

/-! ### Traps -/

/-- Where the trap frame of the issuing group lies, once its page is walked: the state with the page's marks, and the local address; none where the walk does not end in local memory. -/
def State.frameAt (s : State) : Option (State × Nat) :=
  match s.translate s.G.core s.G.ctx s.G.tframe .store 0 with
  | (u, .ok (.mem a) _) => some (u, a)
  | _ => none

/-- The issuing split can take a trap at once (R326): its group is no shadow (R341) and not in trap mode, holds no other trap, has a vector and an aligned frame in the window-0 space (R104, R178, R332), and no sibling is in mid-clause. -/
def State.canTrap (s : State) : Bool :=
  s.issuing && s.G.saved.isNone && !s.G.trapm && !s.G.shadow && s.G.pending.isEmpty && !s.G.ended &&
  decide (s.G.tvec ≠ 0) && decide (s.G.tframe ≠ 0) && decide (s.G.tframe.toNat % 2048 = 0) &&
  decide (s.G.tframe.toNat < 2 ^ 60) &&
  s.G.splits.all (fun p => p.idx == s.cur.2 || p.left == 0) && s.frameAt.isSome

/-- Trap entry (R326, R327): the five registers, the trap frame with its CRC and lane records, trap mode, and the handler's first clause; registers, accumulators and every byte outside the frame stay. -/
structure TrapEntered (c : Cause) (mask : Mask) (addr : W64) (recs : List LaneRec) (s t : State) : Prop where
  tpc : t.G.tpc = s.S.pc
  tmask : t.G.tmask = mask
  tcause : t.G.tcause = BitVec.ofNat 64 c.code
  taddr : t.G.taddr = addr
  tnrec : t.G.tnrec = BitVec.ofNat 64 recs.length
  mode : t.G.trapm = true
  latches : t.G.latch = []
  split : t.S.pc = s.G.tvec ∧ t.S.left = 0 ∧ t.S.sigb = 0xFFFF ∧ t.S.mask = s.S.mask ∧ t.S.sigp = s.S.sigp ∧ t.cur = s.cur
  kept : ∃ o, t.G.saved = some o ∧ o.trapper = s.cur.2 ∧ o.stack = s.G.stack ∧
    o.splits.map (fun p => (p.idx, p.mask, p.pc, p.sigb, p.sigp)) = s.G.splits.map fun p => (p.idx, p.mask, p.pc, p.sigb, p.sigp)
  registers : t.G.v = s.G.v ∧ t.G.s = s.G.s ∧ t.G.bank = s.G.bank ∧ (∀ p, t.G.pred p = s.G.pred p) ∧ t.acc = s.acc
  special : SameSpecial [0x13, 0x19, 0x21, 0x22, 0x23, 0x24, 0x26] s t
  frame : ∀ u a, s.frameAt = some (u, a) →
    t.mem.readN (a + 0x3FC) 4 = bytesOf 4 (crc32c (t.mem.readN a 0x3FC)) ∧
    t.mem.readN (a + 0x400) (16 * recs.length) = (recs.map LaneRec.bytes).flatten ∧
    (∀ x, x < a ∨ a + 0x400 + 16 * recs.length ≤ x → t.mem.read x = u.mem.read x) ∧ t.spm = s.spm
  others : ∀ g, g ≠ s.cur.1 → t.grp g = s.grp g

/-- An instruction that traps on these operands: it answers the state of trap entry. -/
def TrapsWith (i : Instr) (s : State) (c : Cause) (mask : Mask) (addr : W64) : Prop :=
  ∃ t, exec i s = .next t ∧ TrapEntered c mask addr [] s t

end Sys2Proof.Machine
end

