-- ==== Sys2Proof/Certificates/Slice0/Obligations.lean ====
section
/-! DEFINITION. The statements for the provers. -/

namespace Sys2Proof.Claims

open Sys2Proof Sys2Proof.Machine

/-! ### Integer instructions -/

/-- An exact integer saturated to the signed range of n bits: SatS of R112. -/
def clamp (n : Nat) (x : Int) : Int := max (-(2 ^ (n - 1))) (min (2 ^ (n - 1) - 1) x)

/-- With SAT the saturated signed result, else the result modulo the width. -/
def satRule {n : Nat} (sat : Bool) (exact : Int) (r : BitVec n) : Prop :=
  if sat then r.toInt = clamp n exact else (r.toNat : Int) = exact % 2 ^ n

/-- What R112 and R113 give of a 32-bit result r for operands a, b and c; none for other instructions. -/
def intRule : Instr → Option (VForm × (W32 → W32 → W32 → W32 → Prop))
  | .iadd f => some (f, fun a b _ r => satRule (bitAt f.md 1) (a.toInt + b.toInt) r)
  | .isub f => some (f, fun a b _ r => satRule (bitAt f.md 1) (a.toInt - b.toInt) r)
  | .imul f => some (f, fun a b _ r => satRule (bitAt f.md 1) (a.toInt * b.toInt) r)
  | .imad f => some (f, fun a b c r => satRule (bitAt f.md 1) (a.toInt * b.toInt + c.toInt) r)
  | .imulh f => some (f, fun a b _ r =>
      if bitAt f.md 0 then r.toInt = a.toInt * b.toInt / 2 ^ 32 else r.toNat = a.toNat * b.toNat / 2 ^ 32)
  | .imin f => some (f, fun a b _ r =>
      if bitAt f.md 0 then r.toInt = min a.toInt b.toInt else r.toNat = min a.toNat b.toNat)
  | .imax f => some (f, fun a b _ r =>
      if bitAt f.md 0 then r.toInt = max a.toInt b.toInt else r.toNat = max a.toNat b.toNat)
  | .iabs f => some (f, fun a _ _ r => r.toNat = a.toInt.natAbs)
  | .ineg f => some (f, fun a _ _ r => (r.toNat : Int) = (0 - a.toInt) % 2 ^ 32)
  | .idiv f => some (f, fun a b _ r =>
      if b = 0 then r = 0xFFFFFFFF
      else if bitAt f.md 0 then
        if a = 0x80000000 ∧ b = 0xFFFFFFFF then r = 0x80000000 else r.toInt = a.toInt.tdiv b.toInt
      else r.toNat = a.toNat / b.toNat)
  | .irem f => some (f, fun a b _ r =>
      if b = 0 then r = a
      else if bitAt f.md 0 then r.toInt = a.toInt.tmod b.toInt
      else r.toNat = a.toNat % b.toNat)
  | _ => none

/-- What R112 gives of a 64-bit result r; operands a and b of 64 bits, b and c of LEA of 32. -/
def longRule : Instr → Option (VForm × (State → VForm → Nat → W64 → Prop))
  | .ladd f => some (f, fun s f l r => satRule (bitAt f.md 1) ((aOf64 f s l).toInt + (bOf64 f s l).toInt) r)
  | .lsub f => some (f, fun s f l r => satRule (bitAt f.md 1) ((aOf64 f s l).toInt - (bOf64 f s l).toInt) r)
  | .lmul f => some (f, fun s f l r => satRule (bitAt f.md 1) ((aOf64 f s l).toInt * (bOf64 f s l).toInt) r)
  | .lea f => some (f, fun s f l r =>
      (r.toNat : Int) = ((aOf64 f s l).toNat + (bOf f s l).toInt * 2 ^ ((cOf f s l).toNat % 64)) % 2 ^ 64)
  | _ => none

/-! ### Logic, shifts and bit fields -/

/-- Whether bit i lies in the field that control k selects in w bits (R118): position p in bits 7:0, length in bits 15:8. -/
def inField (w : Nat) (k : W32) (i : Nat) : Prop :=
  fldN k 0 8 % w ≤ i ∧ i < fldN k 0 8 % w + min (fldN k 8 8) (w - fldN k 0 8 % w)

/-- What R117 and R118 give of a result r of w bits: a, b and c operands of w bits, k operand B read as 32 bits; none for other instructions and for POPC and CLZ. -/
def logicRule (w : Nat) : Instr → Option (VForm × (BitVec w → BitVec w → W32 → BitVec w → BitVec w → Prop))
  | .and f => some (f, fun a b _ _ r => ∀ i < w, r.getLsbD i = (a.getLsbD i && b.getLsbD i))
  | .or f => some (f, fun a b _ _ r => ∀ i < w, r.getLsbD i = (a.getLsbD i || b.getLsbD i))
  | .xor f => some (f, fun a b _ _ r => ∀ i < w, r.getLsbD i = (a.getLsbD i ^^ b.getLsbD i))
  | .andn f => some (f, fun a b _ _ r => ∀ i < w, r.getLsbD i = (a.getLsbD i && !b.getLsbD i))
  | .shl f => some (f, fun a _ k _ r => r.toNat = a.toNat * 2 ^ (k.toNat % w) % 2 ^ w)
  | .shr f => some (f, fun a _ k _ r =>
      if bitAt f.md 0 then r.toInt = a.toInt / 2 ^ (k.toNat % w) else r.toNat = a.toNat / 2 ^ (k.toNat % w))
  | .rot f => some (f, fun a _ k _ r => ∀ i < w, r.getLsbD ((i + k.toNat) % w) = a.getLsbD i)
  | .bfe f => some (f, fun a _ k _ r =>
      let p := fldN k 0 8 % w
      let n := min (fldN k 8 8) (w - p)
      let x := a.toNat / 2 ^ p % 2 ^ n
      if bitAt f.md 0 ∧ 0 < n ∧ 2 ^ (n - 1) ≤ x then r.toInt = (x : Int) - 2 ^ n else r.toNat = x)
  | .bfi f => some (f, fun a _ k c r => ∀ i < w,
      (inField w k i → r.getLsbD i = a.getLsbD (i - fldN k 0 8 % w)) ∧ (¬inField w k i → r.getLsbD i = c.getLsbD i))
  | .brev f => some (f, fun a _ _ _ r => ∀ i < w, r.getLsbD (w - 1 - i) = a.getLsbD i)
  | _ => none

/-- POPC and CLZ of a word of w bits (R117). -/
def countRule (w : Nat) : Instr → Option (VForm × (BitVec w → W32 → Prop))
  | .popc f => some (f, fun a r => r.toNat = ((List.range w).filter a.getLsbD).length)
  | .clz f => some (f, fun a r => if a = 0 then r.toNat = w else r.toNat + a.toNat.log2 + 1 = w)
  | _ => none

/-! ### Floating point -/

/-- An exact result: no number, an infinity, a zero with its sign, or num / den 2^e, not zero. -/
inductive Exact where
  | nan
  | inf (neg : Bool)
  | zero (neg : Bool)
  | val (num : Int) (den : Nat) (e : Int)

/-- A finite value in units of 2^E, for E at most its exponent. -/
def units (E : Int) : Fp → Int
  | .fin n m e => (if n then -1 else 1) * (m * 2 ^ (e - E).toNat : Nat)
  | _ => 0

/-- A value as an exact result. -/
def exactOf : Fp → Exact
  | .nan => .nan
  | .inf n => .inf n
  | .fin n m e => if m = 0 then .zero n else .val (if n then -(m : Int) else m) 1 e

/-- An exact sum (R119): a zero sum of opposite signs is +0, and -0 under RD. -/
def exactSum (rnd : Rnd) : Fp → Fp → Exact
  | .nan, _ => .nan
  | _, .nan => .nan
  | .inf a, .inf b => if a = b then .inf a else .nan
  | .inf a, .fin _ _ _ => .inf a
  | .fin _ _ _, .inf b => .inf b
  | .fin a m e, .fin b k g =>
    let n := units (min e g) (.fin a m e) + units (min e g) (.fin b k g)
    if n = 0 then .zero (if a = b then a else decide (rnd = .rd)) else .val n 1 (min e g)

/-- An exact quotient: 0 / 0 and inf / inf are no numbers, a nonzero number over zero is infinite. -/
def exactQuot : Fp → Fp → Exact
  | .nan, _ => .nan
  | _, .nan => .nan
  | .inf _, .inf _ => .nan
  | .inf a, .fin b _ _ => .inf (a != b)
  | .fin a _ _, .inf b => .zero (a != b)
  | .fin a m e, .fin b k g =>
    if k = 0 then (if m = 0 then .nan else .inf (a != b))
    else if m = 0 then .zero (a != b)
    else .val (if a != b then -(m : Int) else m) k (e - g)

/-- A code stands for a finite number. -/
def finite (t : Fmt) (c : Nat) : Bool := match t.value c with | .fin _ _ _ => true | _ => false

/-- The sign of a code. -/
def negative (t : Fmt) (c : Nat) : Bool := decide (c / 2 ^ t.mag % 2 = 1)

/-- Whether x, rounded in a direction to a number of integer spacing u beyond the largest finite one m, exceeds m (R126): x, u and m in one unit. -/
def Overflows (rnd : Rnd) (odd : Bool) (x : Int) (m u : Nat) : Prop :=
  match rnd with
  | .rne => 2 * m + u < 2 * x.natAbs ∨ (2 * m + u = 2 * x.natAbs ∧ odd = true)
  | .rz => m + u ≤ x.natAbs
  | .ru => if x < 0 then m + u ≤ x.natAbs else m < x.natAbs
  | .rd => if x < 0 then m < x.natAbs else m + u ≤ x.natAbs
  | .srnd r => m + u ≤ x.natAbs ∨ (m ≤ x.natAbs ∧ r < (x.natAbs - m) * 2 ^ 32 / u)

/-- One rounding of num / den 2^e, which is not zero, to code c (R119, R126, R127). A value that overflows gives what ovf says. Else, under RNE, the nearest number, of two the one with an even code; under RZ the largest in magnitude that does not exceed it; under RU and RD the least number not below and the greatest not above it; under SRND the one that RZ gives, or the next in magnitude when the random number lies below the fraction cut off. -/
def Rounded (t : Fmt) (rnd : Rnd) (ovf : Bool → Nat → Prop) (num : Int) (den : Nat) (e : Int) (c : Nat) : Prop :=
  let E := min e t.qmin
  let x : Int := num * 2 ^ (e - E).toNat
  let v (d : Nat) : Int := units E (t.value d) * den
  let m : Nat := (v t.top).natAbs
  let truncated (z : Nat) : Prop := finite t z = true ∧ negative t z = decide (num < 0) ∧ (v z).natAbs ≤ x.natAbs ∧
    ∀ d, finite t d = true → (v d).natAbs ≤ x.natAbs → (v d).natAbs ≤ (v z).natAbs
  (Overflows rnd (t.top % 2 == 1) x m (m - (v (t.top - 1)).natAbs) → ovf (decide (num < 0)) c) ∧
  (¬Overflows rnd (t.top % 2 == 1) x m (m - (v (t.top - 1)).natAbs) →
    finite t c = true ∧ negative t c = decide (num < 0) ∧
    match rnd with
    | .rne => ∀ d, finite t d = true →
        (v c - x).natAbs < (v d - x).natAbs ∨ ((v c - x).natAbs = (v d - x).natAbs ∧ (v d = v c ∨ c % 2 = 0))
    | .rz => truncated c
    | .ru => x ≤ v c ∧ ∀ d, finite t d = true → x ≤ v d → v c ≤ v d
    | .rd => v c ≤ x ∧ ∀ d, finite t d = true → v d ≤ x → v d ≤ v c
    | .srnd r => ∃ z, truncated z ∧
        c = if r < (x.natAbs - (v z).natAbs) * 2 ^ 32 / ((v (z + 1)).natAbs - (v z).natAbs) then z + 1 else z)

/-- IEEE 754-2019 overflow (R126): an infinity, or the largest finite number where the direction points toward zero. -/
def ieeeOver (t : Fmt) (rnd : Rnd) (neg : Bool) (c : Nat) : Prop :=
  let largest : Prop := c = t.top + if neg then 2 ^ t.mag else 0
  match rnd with
  | .rne => t.value c = .inf neg
  | .rz => largest
  | .ru => if neg then largest else t.value c = .inf false
  | .rd => if neg then t.value c = .inf true else largest
  | .srnd _ => largest

/-- The code of an exact result (R119): a NaN is the canonical one. -/
def CodeOf (t : Fmt) (rnd : Rnd) (x : Exact) (c : Nat) : Prop :=
  c < 2 ^ (t.mag + 1) ∧
  match x with
  | .nan => some c = t.nan
  | .inf n => t.value c = .inf n
  | .zero n => c = if n then 2 ^ t.mag else 0
  | .val num den e => Rounded t rnd (ieeeOver t rnd) num den e c

/-- SAT of R119 on a code: NaN, negative numbers and -0 give +0, numbers above one give one. -/
def satRange (t : Fmt) (one : Nat) (sat : Bool) (c r : Nat) : Prop :=
  if sat then
    (if t.value c = .nan ∨ negative t c = true then r = 0 else if one < c then r = one else r = c)
  else r = c

/-- The direction of MOD bits 2:0 (R68): RN, RZ, RU, RD. -/
def direction (f : VForm) : Rnd :=
  match fldN f.md 0 3 with | 0 => .rne | 1 => .rz | 2 => .ru | 3 => .rd | _ => .srnd 0

/-- What R120 and R122 give of FADD, FSUB, FMUL, FFMA, FDIV and FRCP: the direction and the exact result of the three operand values. -/
def arithRule : Instr → Option (VForm × Rnd × (Fp → Fp → Fp → Exact))
  | .fadd f => some (f, direction f, fun a b _ => exactSum (direction f) a b)
  | .fsub f => some (f, direction f, fun a b _ => exactSum (direction f) a b.neg)
  | .fmul f => some (f, direction f, fun a b _ => exactOf (mulFp a b))
  | .ffma f => some (f, direction f, fun a b c => exactSum (direction f) (mulFp a b) c)
  | .fdiv f => some (f, direction f, fun a b _ => exactQuot a b)
  | .frcp f => some (f, .rne, fun a _ _ => exactQuot (.fin false 1 0) a)
  | _ => none

/-- What R124 gives of HADD2, HMUL2 and HFMA2 in one half. -/
def packedRule : Instr → Option (VForm × (Fp → Fp → Fp → Exact))
  | .hadd2 f => some (f, fun a b _ => exactSum (direction f) a b)
  | .hmul2 f => some (f, fun a b _ => exactOf (mulFp a b))
  | .hfma2 f => some (f, fun a b c => exactSum (direction f) (mulFp a b) c)
  | _ => none

/-- The half format of MOD bit 9 (R124). -/
def half (f : VForm) : Fmt := if bitAt f.md 9 then bf16 else fp16

/-- One in that format. -/
def halfUnit (f : VForm) : Nat := if bitAt f.md 9 then 0x3F80 else 0x3C00

/-- Where a number's code stands in the order of R121, in which -0 lies below +0. -/
def rank (t : Fmt) (c : Nat) : Int := if negative t c then -1 - (c % 2 ^ t.mag : Nat) else (c % 2 ^ t.mag : Nat)

/-- minimumNumber and maximumNumber of R121 on codes: a NaN gives way to a number, two give the canonical NaN. -/
def MinMax (t : Fmt) (least : Bool) (a b r : Nat) : Prop :=
  if t.value a = .nan then (if t.value b = .nan then some r = t.nan else r = b)
  else if t.value b = .nan then r = a
  else r = if (rank t a ≤ rank t b) = (least = true) then a else b

/-- The exponent unit of FP32 subnormals, in which every FP32 number is an integer. -/
abbrev e32 : Int := -149

/-- The integer of a finite FP32 code in units of 2^-149. -/
def int32 (c : Nat) : Int := units e32 (fp32.value c)

/-- The square root of the positive number m 2^e, rounded to FP32 code c in a direction (R119, R120). -/
def RootRounded (rnd : Rnd) (m : Nat) (e : Int) (c : Nat) : Prop :=
  let x : Nat := m * 2 ^ (e + 298).toNat
  finite fp32 c = true ∧ negative fp32 c = false ∧
  match rnd with
  | .rne => ∀ d, finite fp32 d = true → negative fp32 d = false →
      (int32 c < int32 d → (4 * x : Int) ≤ (int32 c + int32 d) ^ 2) ∧ (int32 d < int32 c → (int32 c + int32 d) ^ 2 ≤ (4 * x : Int))
  | .rz | .rd => int32 c ^ 2 ≤ (x : Int) ∧ ∀ d, finite fp32 d = true → int32 d ^ 2 ≤ (x : Int) → int32 d ≤ int32 c
  | .ru => (x : Int) ≤ int32 c ^ 2 ∧ ∀ d, finite fp32 d = true → negative fp32 d = false → (x : Int) ≤ int32 d ^ 2 → int32 c ≤ int32 d
  | .srnd _ => True

/-- The code of a square root (R120, R122). -/
def RootOf (rnd : Rnd) : Fp → Nat → Prop
  | .nan, c => c = 0x7FC00000
  | .inf n, c => c = if n then 0x7FC00000 else 0x7F800000
  | .fin n m e, c =>
    if m = 0 then c = if n then 0x80000000 else 0
    else if n then c = 0x7FC00000 else RootRounded rnd m e c

/-- The code of a reciprocal square root, to nearest (R122): no midpoint between it and another FP32 number lies between it and the exact value. -/
def RsqrtOf : Fp → Nat → Prop
  | .nan, c => c = 0x7FC00000
  | .inf n, c => c = if n then 0x7FC00000 else 0
  | .fin n m e, c =>
    if m = 0 then c = if n then 0xFF800000 else 0x7F800000
    else if n then c = 0x7FC00000
    else finite fp32 c = true ∧ negative fp32 c = false ∧ ∀ d, finite fp32 d = true → negative fp32 d = false →
      (int32 c < int32 d → (4 * 2 ^ (298 - e).toNat : Int) ≤ (int32 c + int32 d) ^ 2 * m) ∧
      (int32 d < int32 c → (int32 c + int32 d) ^ 2 * m ≤ (4 * 2 ^ (298 - e).toNat : Int))

/-- The number k of units 2^q to which the magnitude m 2^e of a sign rounds (R123, R126, R127). -/
def RoundedInt (rnd : Rnd) (neg : Bool) (m : Nat) (e q : Int) (k : Nat) : Prop :=
  let E := min e q
  let x : Nat := m * 2 ^ (e - E).toNat
  let one : Nat := 2 ^ (q - E).toNat
  let down : Prop := k * one ≤ x ∧ x < k * one + one
  let up : Prop := x ≤ k * one ∧ k * one < x + one
  match rnd with
  | .rne => 2 * (k * one) ≤ 2 * x + one ∧ 2 * x ≤ 2 * (k * one) + one ∧
      (2 * (k * one) = 2 * x + one ∨ 2 * x = 2 * (k * one) + one → k % 2 = 0)
  | .rz => down
  | .ru => if neg then down else up
  | .rd => if neg then up else down
  | .srnd r => k = x / one + if r < x % one * 2 ^ 32 / one then 1 else 0

/-- FRND of R123: the integral value of the direction, the sign kept. -/
def Integral (rnd : Rnd) : Fp → Nat → Prop
  | .nan, c => c = 0x7FC00000
  | .inf n, c => fp32.value c = .inf n
  | .fin n m e, c => finite fp32 c = true ∧ negative fp32 c = n ∧
    ∃ k : Nat, RoundedInt rnd n m e 0 k ∧ (int32 c).natAbs = k * 2 ^ 149

/-- FSCALE of R123: a 2^n rounded once; zeros, infinities and NaN as IEEE scaleB. -/
def Scaled (rnd : Rnd) (n : Int) (a : Fp) (c : Nat) : Prop :=
  match exactOf a with
  | .val num den e => CodeOf fp32 rnd (.val num den (e + n)) c
  | x => CodeOf fp32 rnd x c

/-- FEXPT of R123: the k with 2^k at most |a|, and |a| below 2^(k+1). -/
def ExponentOf : Fp → W32 → Prop
  | .nan, r => r = 0x7FFFFFFF
  | .inf _, r => r = 0x7FFFFFFF
  | .fin _ m e, r =>
    if m = 0 then r = 0x80000000
    else e ≤ r.toInt ∧ 2 ^ (r.toInt - e).toNat ≤ m ∧ m < 2 ^ ((r.toInt - e).toNat + 1)

/-- The negate and absolute modifiers of R119: absolute first, on the sign bit alone. -/
def modified (neg abs : Bool) (x : W32) : W32 :=
  let y := if abs then x &&& 0x7FFFFFFF else x
  if neg then y ^^^ 0x80000000 else y

/-- A code as an FP32 operand reads it (R66): an immediate is the number it names, another operand its 32-bit pattern. -/
def floatOperand (s : State) (x : Src) (l : Nat) (c : Nat) : Prop :=
  match x with
  | .imm n => CodeOf fp32 .rne (exactOf (.fin (decide (n.toInt < 0)) n.toInt.natAbs 0)) c
  | x => c = (s.src32 x l).toNat

/-! ### Conversions -/

/-- Width and signedness of the integer type codes of R69. -/
def integerType : Nat → Option (Nat × Bool)
  | 0 => some (8, true) | 1 => some (8, false) | 2 => some (16, true) | 3 => some (16, false)
  | 4 => some (32, true) | 5 => some (32, false) | 6 => some (64, true) | 7 => some (64, false)
  | _ => none

/-- Format and width of the floating type codes of R69. -/
def floatingType : Nat → Fmt × Nat
  | 8 => (fp32, 32) | 9 => (fp16, 16) | 10 => (bf16, 16) | 11 => (e4m3, 8) | 12 => (e5m2, 8)
  | 13 => (e3m2, 6) | 14 => (e2m3, 6) | _ => (e2m1, 4)

/-- The value that a source pattern holds (R125): the low bits, read as the type. -/
def sourceValue (code : Nat) (x : W64) : Fp :=
  match integerType code with
  | some (w, sg) =>
    let n : Int := (x.toNat % 2 ^ w : Nat)
    let i : Int := if sg ∧ 2 ^ (w - 1) ≤ n then n - 2 ^ w else n
    .fin (decide (i < 0)) i.natAbs 0
  | none => (floatingType code).1.value (x.toNat % 2 ^ (floatingType code).2)

/-- An integer result of CVT (R126): rounded, then saturated to the type's range; NaN gives 0. -/
def ToInteger (rnd : Rnd) (w : Nat) (sg : Bool) (x : Fp) (i : Int) : Prop :=
  let lo : Int := if sg then -(2 ^ (w - 1)) else 0
  let hi : Int := if sg then 2 ^ (w - 1) - 1 else 2 ^ w - 1
  match x with
  | .nan => i = 0
  | .inf n => i = if n then lo else hi
  | .fin n m e => ∃ k : Nat, RoundedInt rnd n m e 0 k ∧ i = max lo (min hi (if n then -(k : Int) else k))

/-- A floating result of CVT (R126): FP32, FP16 and BF16 overflow as IEEE, the narrow formats saturate; an infinity and a NaN as the table gives. -/
def ToFloat (code : Nat) (rnd : Rnd) (x : Fp) (c : Nat) : Prop :=
  let t := (floatingType code).1
  match exactOf x with
  | .nan => c = match code with | 8 => 0x7FC00000 | 9 => 0x7E00 | 10 => 0x7FC0 | 11 => 0x7F | 12 => 0x7E | _ => 0
  | .inf n => c = if code = 11 then 0x7F else (if n then 2 ^ t.mag else 0) +
      match code with | 8 => 0x7F800000 | 9 => 0x7C00 | 10 => 0x7F80 | 12 => 0x7C | 13 => 0x1F | 14 => 0x1F | _ => 0x7
  | .zero n => c = if n then 2 ^ t.mag else 0
  | .val num den e =>
    Rounded t rnd (if code ≤ 10 then ieeeOver t rnd else fun neg c => c = t.top + if neg then 2 ^ t.mag else 0) num den e c

/-- A result of CVT as it lies in the lane (R125). -/
def Converted (dst src : Nat) (rnd : Rnd) (x r : W64) : Prop :=
  match integerType dst with
  | some (w, sg) => ∃ i : Int, ToInteger rnd w sg (sourceValue src x) i ∧
      r.toNat = if w = 64 then (i % 2 ^ 64).toNat else (i % 2 ^ 32).toNat
  | none => ToFloat dst rnd (sourceValue src x) r.toNat

/-- SR_SEED advanced once, as R127 computes it. -/
def nextSeed (x : W64) : W64 :=
  let a := x ^^^ (x <<< 13)
  let b := a ^^^ (a >>> 7)
  b ^^^ (b <<< 17)

/-- The rounding of lane l under MOD bits 2:0 (R68, R127): code 4 draws the lane's random number from the advanced seed. -/
def laneDirection (f : VForm) (s : State) (l : Nat) : Rnd :=
  if fldN f.md 0 3 = 4 then .srnd (fldN ((nextSeed (s.srd 0x16) + BitVec.ofNat 64 l) * 0x9E3779B97F4A7C15) 32 32) else direction f

/-- SR_SEED after a CVT or QPACK (R127): advanced once when code 4 issues to at least one lane. Where the clause does not yet see a sibling's SWR of SR_SEED, the advanced value or the written one stays: the model's choice (log 93). -/
def SeedAfter (f : VForm) (s t : State) : Prop :=
  if fldN f.md 0 3 = 4 ∧ selV f s ≠ 0 then
    t.G.seed = nextSeed (s.srd 0x16) ∨ ((s.S.old.any fun e => e.1 == 32768 + 0x16) = true ∧ t.G.seed = s.G.seed)
  else t.G.seed = s.G.seed

/-- The element formats of QPACK and QUNPK: Emax of R161. -/
def largestExponent : Nat → Int
  | 0 => 8 | 1 => 15 | 2 => 4 | 3 => 2 | 4 => 2 | 7 => 0 | _ => -1

/-- An element of R128 and R129 for the finite value (-1)^neg m 2^e. -/
def Element (code : Nat) (rnd : Rnd) (nsat neg : Bool) (m : Nat) (e : Int) (q : Nat) : Prop :=
  match eltOf code with
  | .float t _ =>
    if m = 0 then q = if neg then 2 ^ t.mag else 0
    else Rounded t rnd (fun neg c =>
      if nsat = true ∧ code = 0 then c = 0x7F
      else c = (if neg then 2 ^ t.mag else 0) + if nsat = true ∧ code = 1 then 0x7C else t.top) (if neg then -(m : Int) else m) 1 e q
  | .int w u => ∃ k : Nat, RoundedInt rnd neg m e u k ∧
      (q : Int) = max (-(2 ^ (w - 1))) (min (2 ^ (w - 1) - 1) (if neg then -(k : Int) else k)) % 2 ^ w

/-- The scale byte of a block that QPACK computes from the values of its selected lanes (R128). -/
def ScaleByte (code : Nat) (xs : List Fp) (sc : Nat) : Prop :=
  if xs.any (fun x => match x with | .fin _ _ _ => false | _ => true) then sc = 0xFF
  else if xs.all (fun x => match x with | .fin _ m _ => m == 0 | _ => true) then sc = 0
  else ∃ n m e, .fin n m e ∈ xs ∧ m ≠ 0 ∧
    (∀ n' m' e', .fin n' m' e' ∈ xs → m' * 2 ^ (e' - min e e').toNat ≤ m * 2 ^ (e - min e e').toNat) ∧
    (sc : Int) = max 0 (min 254 (e + m.log2 - largestExponent code + 127))

/-- A result of QPACK in lane l (R128, R129): scale byte, element, zeros above. -/
def Packed (f : VForm) (s : State) (l : Nat) (r : W32) : Prop :=
  let code := fldN f.md 3 4
  let act := (lanesOf (selV f s)).filter fun k => k / 32 == l / 32
  ∃ sc q, r.toNat = sc * 256 + q ∧ q < 256 ∧
    (if bitAt f.md 7 then sc = fldN (bOf f s (act.headD 0)) 0 8 else ScaleByte code (act.map fun k => fp32.value (s.srcF f.a k)) sc) ∧
    (if sc = 0xFF then q = 0
     else match fp32.value (s.srcF f.a l) with
      | .fin n m e => Element code (laneDirection f s l) (bitAt f.md 8) n m (e + (127 - (sc : Int))) q
      | .nan => q = match code with | 0 => 0x7F | 1 => 0x7E | _ => 0
      | .inf n => match eltOf code with
        | .float t _ => q = if code = 0 then 0x7F else (if n then 2 ^ t.mag else 0) + if code = 1 then 0x7C else t.top
        | .int w _ => (q : Int) = (if n then -(2 ^ (w - 1)) else 2 ^ (w - 1) - 1 : Int) % 2 ^ w)

/-- A result of QUNPK (R130). -/
def Unpacked (code sc q : Nat) (r : Nat) : Prop :=
  if sc = 0xFF then r = 0x7FC00000
  else match exactOf (eltValue code q) with
    | .nan => r = 0x7FC00000
    | .inf n => fp32.value r = .inf n
    | .zero n => r = if n then 0x80000000 else 0
    | .val num den e => Rounded fp32 .rne (ieeeOver fp32 .rne) num den (e + ((sc : Int) - 127)) r

/-! ### Special functions -/

/-- The function that R132 names for an instruction, on FP32 values. -/
def functionOf : Instr → Option (VForm × (Fp → Nat))
  | .fexp2 f => some (f, fexp2)
  | .flog2 f => some (f, flog2)
  | .fsin f => some (f, fsin)
  | .fcos f => some (f, fcos)
  | .ftanh f => some (f, ftanh)
  | .fsigm f => some (f, fsigm)
  | .ferf f => some (f, ferf)
  | _ => none

/-- The special values of R132. -/
def SpecialValues : Prop :=
  (∀ g ∈ [fexp2, flog2, fsin, fcos, ftanh, fsigm, ferf], g .nan = 0x7FC00000) ∧
  (∀ (n : Bool) (e : Int), fexp2 (.fin n 0 e) = 0x3F800000 ∧ flog2 (.fin n 0 e) = 0xFF800000 ∧
    fcos (.fin n 0 e) = 0x3F800000 ∧ fsigm (.fin n 0 e) = 0x3F000000) ∧
  (∀ (n : Bool), ∀ g ∈ [fsin, ftanh, ferf], g (.fin n 0 (-149)) = if n then 0x80000000 else 0) ∧
  fexp2 (.inf true) = 0 ∧ fexp2 (.inf false) = 0x7F800000 ∧ flog2 (.inf false) = 0x7F800000 ∧
  (∀ n, fsin (.inf n) = 0x7FC00000 ∧ fcos (.inf n) = 0x7FC00000 ∧ ftanh (.inf n) = (if n then 0xBF800000 else 0x3F800000) ∧
    ferf (.inf n) = if n then 0xBF800000 else 0x3F800000) ∧
  fsigm (.inf true) = 0 ∧ fsigm (.inf false) = 0x3F800000 ∧
  (∀ (m : Nat) (e : Int), m ≠ 0 → flog2 (.fin true m e) = 0x7FC00000) ∧
  (∀ k : Nat, k ≤ 127 → int32 (fexp2 (.fin false k 0)) = 2 ^ (149 + k)) ∧
  (∀ k : Nat, 0 < k → k ≤ 149 → int32 (fexp2 (.fin true k 0)) = 2 ^ (149 - k)) ∧
  (∀ k : Nat, k ≤ 127 → int32 (flog2 (.fin false 1 k)) = k * 2 ^ 149) ∧
  (∀ k : Nat, 0 < k → k ≤ 149 → int32 (flog2 (.fin false 1 (-k))) = -(k * 2 ^ 149)) ∧
  (∀ (c : Nat) (k : Int), finite fp32 c = true → int32 c = k * 2 ^ 149 → -149 ≤ k → k ≤ 127 →
    int32 (fexp2 (fp32.value c)) = 2 ^ (149 + k).toNat) ∧
  (∀ c, finite fp32 c = true → 128 * 2 ^ 149 ≤ int32 c → fexp2 (fp32.value c) = 0x7F800000) ∧
  (∀ (c j : Nat), finite fp32 c = true → int32 c = 2 ^ j → int32 (flog2 (fp32.value c)) = ((j : Int) - 149) * 2 ^ 149) ∧
  (∀ c, fp32.value c ≠ .nan → finite fp32 (ftanh (fp32.value c)) = true ∧ (int32 (ftanh (fp32.value c))).natAbs ≤ 2 ^ 149) ∧
  (∀ c, fp32.value c ≠ .nan → finite fp32 (fsigm (fp32.value c)) = true ∧ 0 ≤ int32 (fsigm (fp32.value c)) ∧
    int32 (fsigm (fp32.value c)) ≤ 2 ^ 149)

/-- Correctly rounded values of R132 at ordinary operands: pairs of codes. -/
def SampleValues : Prop :=
(∀ p ∈ [(0x3F000000, 0x3FB504F3), (0xBE99999A, 0x3F4FEFC6), (0x406CCCCD, 0x414FEFC6), (0xC30C3333, 0x000001BE), (0x42FFCCCD, 0x7F6EDB51), (0x3A83126F, 0x3F8016B9)], fexp2 (fp32.value p.1) = p.2) ∧
  (∀ p ∈ [(0x40400000, 0x3FCAE00D), (0x3F333333, 0xBF03BB12), (0x3F8CCCCD, 0x3E0CCDBB), (0x7149F2CA, 0x42C750D1), (0x000116C2, 0xC304E08C), (0x3F7D70A4, 0xBC6D8F8B)], flog2 (fp32.value p.1) = p.2) ∧
  (∀ p ∈ [(0x3F800000, 0x3F576AA4), (0xC0200000, 0xBF193578), (0x42C80000, 0xBF01A12E), (0x49742400, 0xBEB33259), (0x3C23D70A, 0x3C23D657), (0x40966666, 0xBF7FFAF8)], fsin (fp32.value p.1) = p.2) ∧
  (∀ p ∈ [(0x3F800000, 0x3F0A5140), (0xC0200000, 0xBF4D17BF), (0x42C80000, 0x3F5CC0EE), (0x49742400, 0x3F6FCEFD), (0x3C23D70A, 0x3F7FFCB9), (0x40966666, 0xBC4AFA9F)], fcos (fp32.value p.1) = p.2) ∧
  (∀ p ∈ [(0x3F000000, 0x3EEC9A9F), (0xBDCCCCCD, 0xBDCC1EBC), (0x40000000, 0x3F76CA83), (0xC1100000, 0xBF7FFFFF), (0x3A83126F, 0x3A83126C)], ftanh (fp32.value p.1) = p.2) ∧
  (∀ p ∈ [(0x3F000000, 0x3F1F597F), (0xBF000000, 0x3EC14D03), (0x40A00000, 0x3F7E4961), (0xC1A00000, 0x310DA433), (0xC2C80000, 0x0000001B)], fsigm (fp32.value p.1) = p.2) ∧
  (∀ p ∈ [(0x3F000000, 0x3F053F7B), (0xBDCCCCCD, 0xBDE652F5), (0x40000000, 0x3F7ECD71), (0xC0600000, 0xBF7FFFF4), (0x3A83126F, 0x3A93E61C)], ferf (fp32.value p.1) = p.2)

/-- The number of a finite FP32 code. -/
noncomputable def number (c : Nat) : ℝ := (int32 c : ℝ) / 2 ^ 149

/-- A finite FP32 code c holds the number nearest to x, of two the one with an even code (R132). -/
def Nearest (x : ℝ) (c : Nat) : Prop :=
  finite fp32 c = true ∧ ∀ d, finite fp32 d = true →
    abs (number c - x) < abs (number d - x) ∨ (abs (number c - x) = abs (number d - x) ∧ (number d = number c ∨ c % 2 = 0))

/-- The error function of R132. -/
noncomputable def errorFunction (x : ℝ) : ℝ := 2 / Real.sqrt Real.pi * ∫ t in (0 : ℝ)..x, Real.exp (-(t ^ 2))

/-- A series decides the rounding at one of its precisions. -/
def Settles (neg : Bool) (f : Nat → Approx) : Prop := ∃ p ∈ precisions, (f p).settle neg ≠ none

/-- The functions of R132: for the finite operand (-1)^n m 2^e of a code that no table row names, the code that the model gives is the exact value rounded once, wherever the model's series decides the rounding at one of its precisions. -/
def RoundedFunctions : Prop :=
  ∀ (c : Nat) (n : Bool) (m : Nat) (e : Int), fp32.value c = .fin n m e → m ≠ 0 →
    (int32 c < 128 * 2 ^ 149 → Settles false (exp2Approx n m e) → Nearest (2 ^ number c) (fexp2 (.fin n m e))) ∧
    (n = false → Settles (log2Neg m e) (log2Approx m e) → Nearest (Real.logb 2 (number c)) (flog2 (.fin n m e))) ∧
    (Settles (trigNeg false n m e) (trigApprox false n m e) → Nearest (Real.sin (number c)) (fsin (.fin n m e))) ∧
    (Settles (trigNeg true n m e) (trigApprox true n m e) → Nearest (Real.cos (number c)) (fcos (.fin n m e))) ∧
    (Settles n (tanhApprox m e) → Nearest (Real.tanh (number c)) (ftanh (.fin n m e))) ∧
    (Settles false (sigmApprox n m e) → Nearest (1 / (1 + Real.exp (-number c))) (fsigm (.fin n m e))) ∧
    (Settles n (erfApprox m e) → Nearest (errorFunction (number c)) (ferf (.fin n m e)))

/-- The segment of an FP32 code in an activation table, by the fields of the code (R251). -/
def tableSegment (c : W32) : Nat :=
  256 * (bitAt c 31).toNat +
    (if fldN c 23 8 < 112 then 0 else if 143 < fldN c 23 8 then 255 else 8 * (fldN c 23 8 - 112) + fldN c 20 3)

/-- ATEVAL of R133 for the modified operand c in a bank of a core. -/
def Activation (s : State) (core bank : Nat) (c : W32) (r : Nat) : Prop :=
  let word (k : Nat) : Fp := fp32.value (s.act.num (16384 * core + 8192 * bank + 8 * tableSegment c + 4 * k) 4)
  if fp32.value c.toNat = .nan then r = 0x7FC00000
  else CodeOf fp32 .rne (exactSum .rne (mulFp (word 0) (fp32.value c.toNat)) (word 1)) r

/-! ### Predicates, selection, cross-lane operations -/

/-- A condition of ISETP and SCMP (R68, R138): EQ, NE, LT, LE, GT, GE. -/
def intCond (code : Nat) (a b : Int) : Bool :=
  match code with
  | 0 => decide (a = b) | 1 => decide (a ≠ b) | 2 => decide (a < b) | 3 => decide (a ≤ b) | 4 => decide (b < a) | _ => decide (b ≤ a)

/-- A word as an integer, signed or not. -/
def asInt {n : Nat} (signed : Bool) (x : BitVec n) : Int := if signed then x.toInt else x.toNat

/-- An FP32 code as a number in the order of comparisons, in which the zeros are equal (R138). -/
def order32 (c : Nat) : Int := if negative fp32 c then -(c % 2 ^ 31 : Nat) else (c % 2 ^ 31 : Nat)

/-- A condition of FSETP (R138) on two FP32 codes. -/
def floatCond (code a b : Nat) : Bool :=
  let unordered := decide (fp32.value a = .nan) || decide (fp32.value b = .nan)
  match code with
  | 6 => !unordered
  | 7 => unordered
  | _ => if code < 6 then !unordered && intCond code (order32 a) (order32 b)
         else unordered || intCond (code - 8) (order32 a) (order32 b)

/-- Bit i of the carry-less product of two words (R138). -/
def productBit (a b : W32) (i : Nat) : Bool :=
  ((List.range (i + 1)).filter fun j => a.getLsbD j && b.getLsbD (i - j)).length % 2 == 1

/-- Result byte i of PRMT (R138). -/
def permuted (a b c : W32) (i : Nat) : Nat :=
  let n := fldN c (4 * i) 4
  let byte := if n % 8 < 4 then fldN a (8 * (n % 8)) 8 else fldN b (8 * (n % 8 - 4)) 8
  if 8 ≤ n then (if 128 ≤ byte then 255 else 0) else byte

/-- The source lane of SHFL for lane l (R139). -/
def sourceLane (f : VForm) (s : State) (l : Nat) : Int :=
  let k : Nat := if bitAt f.md 9 then 64 >>> ((bOf f s l).toNat % 32) else (bOf f s l).toNat
  match fldN f.md 0 2 with | 0 => k | 1 => l - k | 2 => l + k | _ => (l ^^^ k : Nat)

/-- Whether that lane exists. -/
def laneExists (f : VForm) (s : State) (l : Nat) : Bool := decide (0 ≤ sourceLane f s l) && decide (sourceLane f s l < 64)

/-- One step of REDX and SCANX (R140): operation 0 add, 1 min, 2 max, 3 and, 4 or, 5 xor; type 0 signed, 1 unsigned, 2 FP32. -/
def Combined (op ty : Nat) (a b r : W32) : Prop :=
  match op with
  | 0 => if ty = 2 then CodeOf fp32 .rne (exactSum .rne (fp32.value a.toNat) (fp32.value b.toNat)) r.toNat else r = a + b
  | 1 => if ty = 2 then MinMax fp32 true a.toNat b.toNat r.toNat else asInt (ty == 0) r = min (asInt (ty == 0) a) (asInt (ty == 0) b)
  | 2 => if ty = 2 then MinMax fp32 false a.toNat b.toNat r.toNat else asInt (ty == 0) r = max (asInt (ty == 0) a) (asInt (ty == 0) b)
  | 3 => r = a &&& b
  | 4 => r = a ||| b
  | _ => r = a ^^^ b

/-- The identities of R140. -/
def identity (op ty : Nat) : W32 :=
  match op, ty with
  | 0, 2 => 0x80000000
  | 0, _ => 0
  | 1, 0 => 0x7FFFFFFF
  | 1, 1 => 0xFFFFFFFF
  | 1, _ => 0x7FC00000
  | 2, 0 => 0x80000000
  | 2, 1 => 0
  | 2, _ => 0x7FC00000
  | 3, _ => 0xFFFFFFFF
  | _, _ => 0

/-- Element l after j steps of the reduction of R140. -/
def reduced (op ty : Nat) (x : Nat → W32) : Nat → Nat → W32
  | 0, l => x l
  | j + 1, l => reduceOp op ty (reduced op ty x j l) (reduced op ty x j (l + 64 / 2 ^ (j + 1)))

/-- The running value of R141 before lane l. -/
def scanned (op ty : Nat) (x : Nat → W32) : Nat → W32
  | 0 => identity op ty
  | l + 1 => reduceOp op ty (scanned op ty x l) (x l)

/-- Operand A of REDX and SCANX: the model reads an immediate as a number for add, min and max of type f32, sign-extended otherwise (R66). -/
def reductionOperand (f : VForm) (s : State) (l : Nat) : W32 :=
  match f.a with
  | .imm n => if fldN f.md 3 2 = 2 ∧ fldN f.md 0 3 ≤ 2 then BitVec.ofNat 32 (immCode fp32 n) else n.signExtend 32
  | _ => aOf f s l

/-- What lane l contributes to REDX and SCANX. -/
def contributed (f : VForm) (s : State) (l : Nat) : W32 :=
  if bitAt (selV f s) l then reductionOperand f s l else identity (fldN f.md 0 3) (fldN f.md 3 2)

/-- REDX or SCANX completes: result r in the selected lanes, x in the s register that C names when SOUT asks; without a selected lane nothing happens (R137). -/
def CompletesReduction (i : Instr) (f : VForm) (r : State → Nat → W32) (x : State → W32) : Prop :=
  ∀ s : State, s.issuing = true → s.signed = true →
    ∃ t, exec i s = .next t ∧ SamePred s t ∧ SameSpecial [0x19] s t ∧ SameOutside s t ∧ NextWord s t ∧
      (selV f s = 0 → SameVector s t ∧ SameScalar s t) ∧
      (selV f s ≠ 0 → Wrote32 f.d f.w f.bl (selV f s) (fun l y => y = r s l) s t) ∧
      (bitAt f.md 5 = false → SameScalar s t) ∧
      (bitAt f.md 5 = true → selV f s ≠ 0 → s.midClause → ∀ c : BitVec 6, f.c = .s c →
        WroteScalar (c.setWidth 8) (if fldN f.md 3 2 = 0 then (x s).signExtend 64 else (x s).setWidth 64) s t)

/-! ### Scalar instructions and special registers -/

/-- What R145 gives of a format V scalar instruction: its 64-bit result; none for others. -/
def scalarRule : Instr → Option (VForm × (State → W64))
  | .smov f => some (f, fun s => aUni f s)
  | .sadd f => some (f, fun s =>
      if bitAt f.md 1 then BitVec.ofInt 64 (clamp 64 ((aUni f s).toInt + (bUni f s).toInt)) else aUni f s + bUni f s)
  | .ssub f => some (f, fun s =>
      if bitAt f.md 1 then BitVec.ofInt 64 (clamp 64 ((aUni f s).toInt - (bUni f s).toInt)) else aUni f s - bUni f s)
  | .smul f => some (f, fun s =>
      if bitAt f.md 1 then
        if bitAt f.md 0 then BitVec.ofInt 64 (clamp 64 ((aUni f s).toInt * (bUni f s).toInt))
        else BitVec.ofNat 64 (min (2 ^ 64 - 1) ((aUni f s).toNat * (bUni f s).toNat))
      else aUni f s * bUni f s)
  | .sand f => some (f, fun s => aUni f s &&& bUni f s)
  | .sor f => some (f, fun s => aUni f s ||| bUni f s)
  | .sxor f => some (f, fun s => aUni f s ^^^ bUni f s)
  | .sshl f => some (f, fun s => BitVec.ofNat 64 ((aUni f s).toNat * 2 ^ ((bUni f s).toNat % 64)))
  | .sshr f => some (f, fun s =>
      if bitAt f.md 0 then BitVec.ofInt 64 ((aUni f s).toInt / 2 ^ ((bUni f s).toNat % 64))
      else BitVec.ofNat 64 ((aUni f s).toNat / 2 ^ ((bUni f s).toNat % 64)))
  | .scmp f => some (f, fun s =>
      if intCond (fldN f.md 2 3) (asInt (bitAt f.md 0) (aUni f s)) (asInt (bitAt f.md 0) (bUni f s)) then 1 else 0)
  | .ssel f => some (f, fun s => if cUni f s = 0 then bUni f s else aUni f s)
  | _ => none

/-- What SWR of value v makes of a writable special register that read x (R98, R99, R100, R146): SR_MODE's bit 0 asks for CONS beside what the core forces, SR_RFLT and SR_DRAINST clear where ones are written, SR_SEED is never zero, SR_WDLIM and SR_QOS keep 40 and 16 bits. -/
def written (s : State) (index : Nat) (x v : W64) : W64 :=
  match index with
  | 0x13 => (x &&& ~~~1) ||| (if bitAt v 0 || bitAt s.fcons s.G.core then 1 else 0)
  | 0x16 => if v = 0 then 1 else v
  | 0x1B => if bitAt v 0 then 0 else x
  | 0x1D => x &&& ~~~v
  | 0x2A => v &&& 0xFFFFFFFFFF
  | 0x2B => v &&& 0xFFFF
  | _ => v

/-- The CRC-16 of R53 after bits 63:32 of an instruction word, most significant bit first, have entered it. -/
def signature (c : W16) (w : W64) : W16 :=
  (List.range 32).foldl (fun c i => if bitAt c 15 != bitAt w (63 - i) then (c <<< 1) ^^^ 0x1021 else c <<< 1) c

/-- The special registers that software writes (R98). -/
def writable : List Nat := [0x13, 0x16, 0x1B, 0x1D, 0x20, 0x21, 0x22, 0x25, 0x28, 0x2A, 0x2B, 0x2C]

/-! ### Control flow -/

/-- What a control transfer of R148 or R149 asks: hint, taken lanes, target; none for others. -/
def transferOf : Instr → State → Option (Nat × Mask × W64)
  | .bra f, s => some (f.hint.toNat, selC f s, s.S.pc + (f.off.signExtend 64 <<< 3))
  | .call f, s => some (0, selC f s, s.S.pc + (f.off.signExtend 64 <<< 3))
  | .jmp f, s => some (0, selV f s, aUni f s)
  | .ret f, s => some (0, selV f s, aUni f s)
  | _, _ => none

/-- The step of SIGP that R160 gives for lanes m and a code. -/
def pathStep (p : W32) (m : Mask) (code : W32) : W32 := (p.rotateLeft 5) ^^^ (fld m 0 32 ^^^ fld m 32 32) ^^^ code

/-- A transfer by lanes taken of a split with mask all, of a group g, from pc to target (R25, R55, R148, R160). -/
structure Transferred (hint : Nat) (taken : Mask) (target : W64) (s t : State) : Prop where
  cur : t.cur = s.cur
  none : taken = 0 → t.S.pc = s.S.pc + 8 ∧ t.S.mask = s.S.mask ∧ t.S.sigp = pathStep s.S.sigp s.S.mask 2 ∧ t.G.stack = s.G.stack
  all : taken ≠ 0 → taken = s.S.mask →
    t.S.pc = target ∧ t.S.left = 0 ∧ t.S.mask = s.S.mask ∧ t.S.sigp = pathStep s.S.sigp s.S.mask 1 ∧ t.G.stack = s.G.stack
  divides : taken ≠ 0 → taken ≠ s.S.mask → s.divides s.G hint = true →
    t.S.pc = s.S.pc + 8 ∧ t.S.mask = s.S.mask &&& ~~~taken ∧ t.S.sigp = pathStep s.S.sigp (s.S.mask &&& ~~~taken) 4 ∧
    t.G.stack = s.G.stack ∧ t.G.splits.length = s.G.splits.length + 1 ∧
    ∃ q, q ∈ t.G.splits ∧ q.idx = s.G.freeIdx ∧ q.mask = taken ∧ q.pc = target ∧ q.sigp = pathStep s.S.sigp taken 3
  serialises : taken ≠ 0 → taken ≠ s.S.mask → s.divides s.G hint = false → s.G.stack.length < 32 →
    if hint = 1 ∨ (hint = 3 ∧ bitAt taken (lowest s.S.mask) = true) then
      t.S.pc = target ∧ t.S.mask = taken ∧ t.S.sigp = pathStep s.S.sigp taken 3 ∧
      t.G.stack = .deferred (s.S.pc + 8) (s.S.mask &&& ~~~taken) (pathStep s.S.sigp (s.S.mask &&& ~~~taken) 4) s.cur.2 :: s.G.stack
    else
      t.S.pc = s.S.pc + 8 ∧ t.S.mask = s.S.mask &&& ~~~taken ∧ t.S.sigp = pathStep s.S.sigp (s.S.mask &&& ~~~taken) 4 ∧
      t.G.stack = .deferred target taken (pathStep s.S.sigp taken 3) s.cur.2 :: s.G.stack

/-- No trap, kept state or sibling stands in the way of ending lanes: the group is not in trap mode and has one split with an empty stack. -/
def Alone (s : State) : Prop :=
  s.G.saved = none ∧ s.G.pending = [] ∧ s.G.stack = [] ∧ s.G.splits.length = 1 ∧ s.G.cpyFault = none ∧ s.G.mtxFault = none

/-- EXIT or KILL by lanes m of a group of one split (R22, R151): the lanes leave the mask, SIGP steps when some stay, and with the last one the group has ended. -/
structure Ended (m : Mask) (kill : Bool) (s t : State) : Prop where
  killed : t.G.kill = if kill then s.G.kill ||| m else s.G.kill
  stays : s.S.mask &&& ~~~m ≠ 0 → t.S.mask = s.S.mask &&& ~~~m ∧ t.S.pc = s.S.pc + 8 ∧ t.G.ended = s.G.ended ∧
    t.S.sigp = pathStep s.S.sigp (s.S.mask &&& ~~~m) (if kill then 7 else 6)
  last : s.S.mask &&& ~~~m = 0 → t.G.ended = true ∧ t.G.splits = []

end Sys2Proof.Claims

open Sys2Proof Sys2Proof.Machine Sys2Proof.Claims

/-- R112, R113: the integer arithmetic instructions complete with the results of the tables in every selected lane, and change nothing else. -/
def Sys2Proof.Claims.integerArithmetic : Prop :=
  (∀ i f R, intRule i = some (f, R) → Completes32 i f fun s l r => R (aOf f s l) (bOf f s l) (cOf f s l) r) ∧
  (∀ i f R, longRule i = some (f, R) → Completes64 i f fun s l r => R s f l r)

/-- R114: IADDI, IMULI and MOVI complete with their results in every selected lane. -/
def Sys2Proof.Claims.immediateForms : Prop :=
  (∀ f, CompletesImm (.iaddi f) f fun s l r => (r.toNat : Int) = ((s.src32 f.a l).toNat + f.imm.toNat) % 2 ^ 32) ∧
  (∀ f, CompletesImm (.imuli f) f fun s l r => (r.toNat : Int) = ((s.src32 f.a l).toNat * f.imm.toNat) % 2 ^ 32) ∧
  (∀ f, CompletesImm (.movi f) f fun _ _ r => r = f.imm)

/-- R112, R113: the integer arithmetic instructions complete with the results of the tables in every selected lane, and change nothing else; and R114: IADDI, IMULI and MOVI complete with their results in every selected lane. -/
def Obligations.IntegerArithmetic : Prop := Sys2Proof.Claims.integerArithmetic ∧ Sys2Proof.Claims.immediateForms

/-- R115, R116: each result bit of LOP3 is the bit of its table at the index that the three operand bits form; NOP, the all-zero word, changes nothing but SIGB and the pc, and a NOP with a nonzero field is no instruction. -/
def Sys2Proof.Claims.tableLogic : Prop :=
  (∀ f, Completes32 (.lop3 f) f fun s l r => ∀ i < 32,
    r.getLsbD i = bitAt f.md (4 * (bitAt (aOf f s l) i).toNat + 2 * (bitAt (bOf f s l) i).toNat + (bitAt (cOf f s l) i).toNat)) ∧
  (∀ f s, s.issuing = true → s.signed = true → ∃ t, exec (.nop f) s = .next t ∧ Untouched [] s t ∧ NextWord s t) ∧
  decode 0 = .ok (.nop {}) ∧ (∀ w : W64, fldN w 56 8 = 0 → w ≠ 0 → ∃ e, decode w = .error e)

/-- R117, R118: logic, shifts and bit fields, in 32 bits or, with D64, in 64; POPC and CLZ give a 32-bit count of either. -/
def Sys2Proof.Claims.logicShifts : Prop :=
  (∀ i f R, logicRule 32 i = some (f, R) → f.d64 = false →
    Completes32 i f fun s l r => R (aOf f s l) (bOf f s l) (bOf f s l) (cOf f s l) r) ∧
  (∀ i f R, logicRule 64 i = some (f, R) → f.d64 = true →
    Completes64 i f fun s l r => R (aOf64 f s l) (bOf64 f s l) (bOf f s l) (cOf64 f s l) r) ∧
  (∀ i f R, countRule 32 i = some (f, R) → f.d64 = false → Completes32 i f fun s l r => R (aOf f s l) r) ∧
  (∀ i f R, countRule 64 i = some (f, R) → f.d64 = true → Completes32 i f fun s l r => R (aOf64 f s l) r)

/-- R115, R116: each result bit of LOP3 is the bit of its table at the index that the three operand bits form; NOP, the all-zero word, changes nothing but SIGB and the pc, and a NOP with a nonzero field is no instruction; and R117, R118: logic, shifts and bit fields, in 32 bits or, with D64, in 64; POPC and CLZ give a 32-bit count of either. -/
def Obligations.LogicAndShifts : Prop := Sys2Proof.Claims.tableLogic ∧ Sys2Proof.Claims.logicShifts

/-- R66, R107: how an operand reads: a register of the lane, an s register, a latch, an immediate, a constant; and how a 64-bit operand does. -/
def Sys2Proof.Claims.operandReads : Prop :=
  ∀ (s : State) (l : Nat), l < 64 →
    (∀ r, (s.G.split s.cur.2).old = [] → s.src32 (.v r) l = s.G.vreg r.toNat l) ∧
    (∀ r, s.src32 (.s r) l = (s.G.sreg s.cur.2 r.toNat).setWidth 32) ∧
    (∀ b, s.src32 (.b b) l = (s.latch b.toNat l).setWidth 32) ∧
    (∀ n : BitVec 7, (s.src32 (.imm n) l).toInt = n.toInt) ∧
    (∀ n : BitVec 7, (s.src64 (.imm n) l).toInt = n.toInt) ∧
    (∀ r, (s.G.split s.cur.2).old = [] → s.src64 (.v r) l = s.G.vreg (r.toNat + 1) l ++ s.G.vreg r.toNat l) ∧
    (∀ r, s.src64 (.s r) l = s.G.sreg s.cur.2 r.toNat) ∧ (∀ b, s.src64 (.b b) l = s.latch b.toNat l) ∧
    (s.src32 (.const 0) l).toNat = l ∧ s.src32 (.const 1) l = 64 ∧ s.src32 (.const 2) l = 0x3F800000 ∧
    s.src32 (.const 3) l = 0x3F000000 ∧ s.src32 (.const 4) l = 0x40000000 ∧ s.src32 (.const 5) l = 0xBF800000 ∧
    s.src32 (.const 6) l = 0xFFFFFFFF ∧ s.src32 (.const 7) l = 0x80000000 ∧ s.src64 (.const 6) l = BitVec.allOnes 64 ∧
    (∀ k : BitVec 3, k ≠ 6 → s.src64 (.const k) l = (s.src32 (.const k) l).setWidth 64)

/-- R66, R119: the operands of FP32 instructions: an immediate becomes its number, every other operand is its bit pattern; the modifiers act on the sign bit. -/
def Sys2Proof.Claims.floatOperands : Prop :=
  ∀ (s : State) (f : VForm) (l : Nat), l < 64 →
    (∀ x, floatOperand s x l (s.srcF x l)) ∧
    (∀ c : W32, c.toNat = s.srcF f.a l → fA f s l = (modified (bitAt f.md 3) (bitAt f.md 4) c).toNat) ∧
    (∀ c : W32, c.toNat = s.srcF f.b l → fB f s l = (modified (bitAt f.md 5) (bitAt f.md 6) c).toNat) ∧
    (∀ c : W32, c.toNat = s.srcF f.c l → fC f s l = (modified (bitAt f.md 7) false c).toNat)

/-- R66, R107: how an operand reads: a register of the lane, an s register, a latch, an immediate, a constant; and how a 64-bit operand does; and R119: the operands of FP32 instructions: an immediate becomes its number, every other operand is its bit pattern; the modifiers act on the sign bit. -/
def Obligations.OperandReads : Prop := Sys2Proof.Claims.operandReads ∧ Sys2Proof.Claims.floatOperands

/-- R119, R120, R122: FADD, FSUB, FMUL, FFMA, FDIV and FRCP give the exact result rounded once in the IEEE 754-2019 direction, NaN canonical, then SAT. -/
def Obligations.FloatArithmetic : Prop :=
  ∀ i f rnd ex, arithRule i = some (f, rnd, ex) → fldN f.md 0 3 ≤ 3 → Completes32 i f fun s l r =>
    ∃ c, CodeOf fp32 rnd (ex (fp32.value (fA f s l)) (fp32.value (fB f s l)) (fp32.value (fC f s l))) c ∧
      satRange fp32 0x3F800000 (bitAt f.md 8) c r.toNat

/-- R120, R122: FSQRT and FRSQ, correctly rounded, with their special values. -/
def Sys2Proof.Claims.floatRoots : Prop :=
  (∀ f, fldN f.md 0 3 ≤ 3 → Completes32 (.fsqrt f) f fun s l r =>
    ∃ c, RootOf (direction f) (fp32.value (fA f s l)) c ∧ satRange fp32 0x3F800000 (bitAt f.md 8) c r.toNat) ∧
  (∀ f, Completes32 (.frsq f) f fun s l r =>
    ∃ c, RsqrtOf (fp32.value (fA f s l)) c ∧ satRange fp32 0x3F800000 (bitAt f.md 8) c r.toNat)

/-- R121, R123: FMIN, FMAX, FCLAMP (the maximum before the minimum), FRND, FSCALE and FEXPT. -/
def Sys2Proof.Claims.floatSelections : Prop :=
  (∀ f, Completes32 (.fmin f) f fun s l r =>
    ∃ c, MinMax fp32 true (fA f s l) (fB f s l) c ∧ satRange fp32 0x3F800000 (bitAt f.md 8) c r.toNat) ∧
  (∀ f, Completes32 (.fmax f) f fun s l r =>
    ∃ c, MinMax fp32 false (fA f s l) (fB f s l) c ∧ satRange fp32 0x3F800000 (bitAt f.md 8) c r.toNat) ∧
  (∀ f, Completes32 (.fclamp f) f fun s l r =>
    ∃ m c, MinMax fp32 false (fA f s l) (fB f s l) m ∧ MinMax fp32 true m (fC f s l) c ∧
      satRange fp32 0x3F800000 (bitAt f.md 8) c r.toNat) ∧
  (∀ f, fldN f.md 0 3 ≤ 3 → Completes32 (.frnd f) f fun s l r =>
    ∃ c, Integral (direction f) (fp32.value (fA f s l)) c ∧ satRange fp32 0x3F800000 (bitAt f.md 8) c r.toNat) ∧
  (∀ f, fldN f.md 0 3 ≤ 3 → Completes32 (.fscale f) f fun s l r =>
    ∃ c, Scaled (direction f) (bOf f s l).toInt (fp32.value (fA f s l)) c ∧ satRange fp32 0x3F800000 (bitAt f.md 8) c r.toNat) ∧
  (∀ f, Completes32 (.fexpt f) f fun s l r => ExponentOf (fp32.value (fA f s l)) r)

/-- R120, R122: FSQRT and FRSQ, correctly rounded, with their special values; and R121, R123: FMIN, FMAX, FCLAMP (the maximum before the minimum), FRND, FSCALE and FEXPT. -/
def Obligations.FloatRootsAndSelections : Prop := Sys2Proof.Claims.floatRoots ∧ Sys2Proof.Claims.floatSelections

/-- R124: HADD2, HMUL2, HFMA2, HMIN2 and HMAX2 compute each half by itself, in FP16 or BF16. -/
def Sys2Proof.Claims.packedHalves : Prop :=
  (∀ i f ex, packedRule i = some (f, ex) → fldN f.md 0 3 ≤ 3 → Completes32 i f fun s l r => ∀ hi : Bool,
    ∃ c, CodeOf (half f) (direction f) (ex ((half f).value (hA f s hi l)) ((half f).value (hB f s hi l)) ((half f).value (hC f s hi l))) c ∧
      satRange (half f) (halfUnit f) (bitAt f.md 8) c (fldN r (if hi then 16 else 0) 16)) ∧
  (∀ f, Completes32 (.hmin2 f) f fun s l r => ∀ hi : Bool,
    ∃ c, MinMax (half f) true (hA f s hi l) (hB f s hi l) c ∧
      satRange (half f) (halfUnit f) (bitAt f.md 8) c (fldN r (if hi then 16 else 0) 16)) ∧
  (∀ f, Completes32 (.hmax2 f) f fun s l r => ∀ hi : Bool,
    ∃ c, MinMax (half f) false (hA f s hi l) (hB f s hi l) c ∧
      satRange (half f) (halfUnit f) (bitAt f.md 8) c (fldN r (if hi then 16 else 0) 16))

/-- R125, R126, R127: CVT converts between every pair of types, to a pair for a 64-bit integer type and else to a register; SRND advances SR_SEED once. -/
def Sys2Proof.Claims.conversion : Prop :=
  ∀ f : VForm, fldN f.md 0 3 ≤ 4 → ∀ s : State, s.issuing = true → s.signed = true →
    ∃ t, exec (.cvt f) s = .next t ∧ VectorFrame [0x16] s t ∧ SeedAfter f s t ∧
      (if f.cvtDst = 6 ∨ f.cvtDst = 7 then
        Wrote64 f.d f.w f.bl (selV f s) (fun l r => Converted f.cvtDst f.cvtSrc (laneDirection f s l) (cvtIn f s l) r) s t
      else Wrote32 f.d f.w f.bl (selV f s)
        (fun l r => Converted f.cvtDst f.cvtSrc (laneDirection f s l) (cvtIn f s l) (r.setWidth 64)) s t)

/-- R128, R129, R127, R130: QPACK quantises blocks of 32 lanes with a shared scale; QUNPK gives the value back as FP32. -/
def Sys2Proof.Claims.blockQuantisation : Prop :=
  (∀ f : VForm, fldN f.md 0 3 ≤ 4 → fldN f.md 3 4 ∈ [0, 1, 2, 3, 4, 7, 8, 9, 10, 11, 12, 13, 14] →
    ∀ s : State, s.issuing = true → s.signed = true →
      ∃ t, exec (.qpack f) s = .next t ∧ VectorFrame [0x16] s t ∧ SeedAfter f s t ∧
        Wrote32 f.d f.w f.bl (selV f s) (Packed f s) s t) ∧
  (∀ f : VForm, fldN f.md 3 4 ∈ [0, 1, 2, 3, 4, 7, 8, 9, 10, 11, 12, 13, 14] → Completes32 (.qunpk f) f fun s l r =>
    Unpacked (fldN f.md 3 4) (fldN (aOf f s l) 8 8) (fldN (aOf f s l) 0 (eltWidth (fldN f.md 3 4))) r.toNat)

/-- R125, R126, R127: CVT converts between every pair of types, to a pair for a 64-bit integer type and else to a register; SRND advances SR_SEED once; and R128, R129, R130: QPACK quantises blocks of 32 lanes with a shared scale; QUNPK gives the value back as FP32. The model's own choices here: log 72, 73 and 74. -/
def Obligations.ConversionAndQuantisation : Prop := Sys2Proof.Claims.conversion ∧ Sys2Proof.Claims.blockQuantisation

/-- R131: SPL6 and JN6 move the eight 6-bit codes between their packed form and the nibble and 2-bit planes. -/
def Sys2Proof.Claims.planesOfSix : Prop :=
  (∀ f, Completes64 (.spl6 f) f fun s l r => r.toNat / 2 ^ 48 = 0 ∧ ∀ i < 8,
    fldN r (4 * i) 4 = fldN (aOf64 f s l) (6 * i) 4 ∧ fldN r (32 + 2 * i) 2 = fldN (aOf64 f s l) (6 * i + 4) 2) ∧
  (∀ f, Completes64 (.jn6 f) f fun s l r => r.toNat / 2 ^ 48 = 0 ∧ ∀ i < 8,
    fldN r (6 * i) 4 = fldN (aOf64 f s l) (4 * i) 4 ∧ fldN r (6 * i + 4) 2 = fldN (aOf64 f s l) (32 + 2 * i) 2)

/-- R124: HADD2, HMUL2, HFMA2, HMIN2 and HMAX2 compute each half by itself, in FP16 or BF16; and R131: SPL6 and JN6 move the eight 6-bit codes between their packed form and the nibble and 2-bit planes. -/
def Obligations.PackedAndPlanes : Prop := Sys2Proof.Claims.packedHalves ∧ Sys2Proof.Claims.planesOfSix

/-- R132: the special functions, each a fixed function of its operand, with the special values, the exact cases and the ranges of the table, and with the correctly rounded value at some ordinary operands; SAT as R119. -/
def Obligations.SpecialFunctions : Prop :=
  SpecialValues ∧ SampleValues ∧ ∀ i f g, functionOf i = some (f, g) → Completes32 i f fun s l r =>
    satRange fp32 0x3F800000 (bitAt f.md 8) (fp32.canon (g (fp32.value (fA f s l)))) r.toNat

/-- R132: FEXP2, FLOG2, FSIN, FCOS, FTANH, FSIGM and FERF deliver the exact value of the real function, rounded once to nearest, at every finite operand at which the model's series decides the rounding; that it always does is the model's belief (log 113). -/
def Obligations.SpecialFunctionsRounded : Prop := RoundedFunctions

/-- R133, R251: ATEVAL evaluates the segment of the bank that is active when it issues, fused and rounded once. -/
def Obligations.ActivationEvaluates : Prop :=
  ∀ f, Completes32 (.ateval f) f fun s l r => ∀ c : W32, c.toNat = fA f s l →
    ∃ x, Activation s s.G.core (s.activeBank s.G.core) c x ∧ satRange fp32 0x3F800000 (bitAt f.md 8) x r.toNat

/-- R138, R45: the instructions that write a predicate in the selected lanes. -/
def Obligations.PredicateResults : Prop :=
  (∀ f, CompletesPred (.isetp f) f fun s l =>
    if bitAt f.md 4 then intCond (fldN f.md 0 3) (asInt (bitAt f.md 3) (aOf64 f s l)) (asInt (bitAt f.md 3) (bOf64 f s l))
    else intCond (fldN f.md 0 3) (asInt (bitAt f.md 3) (aOf f s l)) (asInt (bitAt f.md 3) (bOf f s l))) ∧
  (∀ f, fldN f.md 0 4 ≤ 13 → CompletesPred (.fsetp f) f fun s l => floatCond (fldN f.md 0 4) (s.srcF f.a l) (s.srcF f.b l)) ∧
  (∀ f, CompletesPred (.plop f) f fun s l =>
    bitAt f.md (4 * (s.srcP f.a l).toNat + 2 * (s.srcP f.b l).toNat + (s.srcP f.c l).toNat)) ∧
  (∀ f, bitAt f.md 0 = true → CompletesPred (.pmov f) f fun s l => decide (aOf f s l ≠ 0)) ∧
  (∀ f, bitAt f.md 0 = false → CompletesPred (.elect f) f fun s l => (List.range l).all fun k => !bitAt (selV f s) k) ∧
  (∀ f, bitAt f.md 0 = true → CompletesPred (.elect f) f fun s l =>
    bitAt (aOf64 f s l) l && (List.range l).all fun k => !bitAt (aOf64 f s l) k) ∧
  (∀ f, fldN f.md 0 2 ≤ 2 → CompletesPred (.vote f) f fun s _ =>
    match fldN f.md 0 2 with
    | 0 => (List.range 64).all fun k => !bitAt (selV f s) k || decide (aOf f s k ≠ 0)
    | 1 => (List.range 64).any fun k => bitAt (selV f s) k && decide (aOf f s k ≠ 0)
    | _ => (List.range 64).all fun k => (List.range 64).all fun j =>
        !bitAt (selV f s) k || !bitAt (selV f s) j || decide (aOf f s k = aOf f s j))

/-- R138: SEL, PMOV from a predicate, the carry-less products and the byte permute. -/
def Obligations.SelectionsAndBytes : Prop :=
  (∀ f, Completes32 (.sel f) f fun s l r => r = if s.srcP f.c l then aOf f s l else bOf f s l) ∧
  (∀ f, bitAt f.md 0 = false → Completes32 (.pmov f) f fun s l r => r = if s.srcP f.a l then 1 else 0) ∧
  (∀ f, Completes32 (.clmul f) f fun s l r => ∀ i < 32, r.getLsbD i = productBit (aOf f s l) (bOf f s l) i) ∧
  (∀ f, Completes32 (.clmulh f) f fun s l r =>
    r.getLsbD 31 = false ∧ ∀ i < 31, r.getLsbD i = productBit (aOf f s l) (bOf f s l) (i + 32)) ∧
  (∀ f, Completes32 (.prmt f) f fun s l r => ∀ i < 4, fldN r (8 * i) 8 = permuted (aOf f s l) (bOf f s l) (cOf f s l) i)

/-- R139: SHFL reads every source lane before it writes, an absent source lane gives the lane's own value, and the in-range predicate is written where MOD bit 2 asks. -/
def Obligations.LaneShuffle : Prop :=
  ∀ (f : VForm) (s : State), s.issuing = true → s.signed = true →
    ∃ t, exec (.shfl f) s = .next t ∧ SameScalar s t ∧ SameSpecial [0x19] s t ∧ SameOutside s t ∧ NextWord s t ∧
      Wrote32 f.d f.w f.bl (selV f s)
        (fun l r => r = aOf f s (if laneExists f s l then (sourceLane f s l).toNat else l)) s t ∧
      (bitAt f.md 2 = false → SamePred s t) ∧
      (bitAt f.md 2 = true → ∀ p l, l < 64 → bitAt (t.G.pred p) l =
        if p = fldN f.md 3 3 ∧ p ≠ 0 ∧ bitAt (selV f s) l = true then laneExists f s l else bitAt (s.G.pred p) l)

/-- R140, R141: REDX reduces by the tree over all 64 lanes, SCANX folds in ascending order, lanes that are not selected giving the identity; one step is the operation of the type. The model's own choice here: log 62. -/
def Obligations.Reductions : Prop :=
  (∀ op ty a b, op ≤ 5 → ty ≤ 2 → Combined op ty a b (reduceOp op ty a b)) ∧
  (∀ f : VForm, fldN f.md 0 3 ≤ 5 → fldN f.md 3 2 ≤ 2 → CompletesReduction (.redx f) f
    (fun s _ => reduced (fldN f.md 0 3) (fldN f.md 3 2) (contributed f s) 6 0)
    (fun s => reduced (fldN f.md 0 3) (fldN f.md 3 2) (contributed f s) 6 0)) ∧
  (∀ f : VForm, fldN f.md 0 3 ≤ 5 → fldN f.md 3 2 ≤ 2 → CompletesReduction (.scanx f) f
    (fun s l => scanned (fldN f.md 0 3) (fldN f.md 3 2) (contributed f s) (if bitAt f.md 6 then l else l + 1))
    (fun s => scanned (fldN f.md 0 3) (fldN f.md 3 2) (contributed f s) 64))

/-- R142, R143: BALLOT and MATCH give masks of selected lanes, RDLANE reads one lane into an s register, WRLANE writes one lane, selected or not. -/
def Obligations.MasksAndLanes : Prop :=
  (∀ f, Completes64 (.ballot f) f fun s _ r => ∀ l < 64, bitAt r l = (bitAt (selV f s) l && decide (aOf f s l ≠ 0))) ∧
  (∀ f, Completes64 (.matchKeys f) f fun s l r => ∀ k < 64, bitAt r k = (bitAt (selV f s) k &&
    if bitAt f.md 0 then decide (aOf64 f s k = aOf64 f s l) else decide (aOf f s k = aOf f s l))) ∧
  (∀ f, CompletesScalar (.rdlane f) (selV f) f.d fun s => (aOf f s ((bUni f s).toNat % 64)).setWidth 64) ∧
  (∀ (f : VForm) (s : State), s.issuing = true → s.signed = true →
    ∃ t, exec (.wrlane f) s = .next t ∧ VectorFrame [] s t ∧
      Wrote32 f.d f.w f.bl (if selV f s = 0 then 0 else (1 : Mask) <<< ((bUni f s).toNat % 64))
        (fun _ r => r = (aUni f s).setWidth 32) s t)

/-- R145: the scalar instructions act once where a lane is selected and write their 64-bit result; SMOVI and SMOVH take a 32-bit immediate. -/
def Obligations.ScalarArithmetic : Prop :=
  (∀ i f x, scalarRule i = some (f, x) → CompletesScalar i (selV f) f.d x) ∧
  (∀ f, CompletesScalar (.smovi f) (fun s => s.sel f.p false) f.d fun _ => f.imm.signExtend 64) ∧
  (∀ f, CompletesScalar (.smovh f) (fun s => s.sel f.p false) f.d fun s =>
    f.imm ++ (s.G.sreg s.cur.2 f.d.toNat).setWidth 32)

/-- R98, R99, R103: what each of the special registers reads, of its split, its group, its core or the machine. -/
def Obligations.SpecialRegisters : Prop :=
  ∀ (s : State) (g : Group) (p : Split),
    s.special g p 0x00 = 64 ∧ (p.mask ≠ 0 → bitAt p.mask (s.special g p 0x01).toNat = true ∧ ∀ l, bitAt p.mask l = true → (s.special g p 0x01).toNat ≤ l) ∧
    s.special g p 0x02 = BitVec.ofNat 64 g.slot ∧ s.special g p 0x03 = BitVec.ofNat 64 g.core ∧
    s.special g p 0x04 = BitVec.ofNat 64 (g.core / 8) ∧ s.special g p 0x05 = BitVec.ofNat 64 (g.core % 8) ∧
    (s.peer = none → s.special g p 0x06 = 0) ∧ (∀ k, s.peer = some k → s.special g p 0x06 = BitVec.ofNat 64 k) ∧
    s.special g p 0x07 = BitVec.ofNat 64 g.ctx ∧ s.special g p 0x08 = BitVec.ofNat 64 g.wgx ∧ s.special g p 0x09 = BitVec.ofNat 64 g.wgy ∧
    s.special g p 0x0A = BitVec.ofNat 64 g.wgz ∧ s.special g p 0x0B = BitVec.ofNat 64 g.ginwg ∧
    s.special g p 0x0C = BitVec.ofNat 64 (g.teamSize + 256 * g.teamIdx) ∧ s.special g p 0x0D = BitVec.ofNat 64 g.depth ∧
    s.special g p 0x0E = BitVec.ofNat 64 g.grid ∧ s.special g p 0x0F = g.task ∧
    s.special g p 0x10 = BitVec.ofNat 64 (p.idx + 4 * (g.splits.length - 1)) ∧ s.special g p 0x11 = p.mask ∧ s.special g p 0x12 = g.kill ∧
    s.special g p 0x14 = (if g.preq then 1 else 0) ∧ s.special g p 0x15 = s.clk ∧ s.special g p 0x17 = g.evc ∧ s.special g p 0x18 = g.idempc ∧
    s.special g p 0x1B = g.rflt ∧ s.special g p 0x1C = g.mxit ∧ s.special g p 0x1D = g.drainst ∧ s.special g p 0x1E = g.lqst ∧
    ((∀ x, g.count x < 64) → (s.special g p 0x1F).toNat < 2 ^ 36 ∧ fldN (s.special g p 0x1F) 0 6 = g.count .scr ∧
      fldN (s.special g p 0x1F) 6 6 = g.count .glb ∧ fldN (s.special g p 0x1F) 12 6 = g.count .rmt ∧ fldN (s.special g p 0x1F) 18 6 = g.count .cpy ∧
      fldN (s.special g p 0x1F) 24 6 = g.count .mtx ∧ fldN (s.special g p 0x1F) 30 6 = g.count .qry) ∧
    (∀ k n, SMap.get (0, 0) s.segid g.core = (k + 1, n) → s.special g p 0x27 = BitVec.ofNat 64 k) ∧
    (∀ n, SMap.get (0, 0) s.segid g.core = (0, n) → s.special g p 0x27 = 0) ∧ s.special g p 0x19 = (signature p.sigb p.ir).setWidth 64 ∧ s.special g p 0x28 = BitVec.ofNat 64 g.dplace ∧
    s.special g p 0x29 = (if g.svc then 1 else 0) ∧ s.special g p 0x2A = g.wdlim.setWidth 64 ∧ s.special g p 0x2B = g.qos.setWidth 64 ∧
    s.special g p 0x2C = g.mxsave ∧ s.special g p 0x16 = g.seed ∧ s.special g p 0x1A = p.sigp.setWidth 64 ∧
    s.special g p 0x20 = g.tvec ∧ s.special g p 0x21 = g.tpc ∧ s.special g p 0x22 = g.tmask ∧ s.special g p 0x23 = g.tcause ∧
    s.special g p 0x24 = g.taddr ∧ s.special g p 0x25 = g.tframe ∧ s.special g p 0x26 = g.tnrec ∧
    bitAt (s.special g p 0x13) 0 = (g.cons || bitAt s.fcons g.core) ∧ bitAt (s.special g p 0x13) 1 = bitAt s.fcons g.core ∧
    bitAt (s.special g p 0x13) 2 = g.trapm ∧ (s.special g p 0x13).toNat < 8

/-- R146, R100: SRD copies a special register, as it stands at issue, into an s register; SWR writes one and changes no other register. -/
def Sys2Proof.Claims.specialReadsAndWrites : Prop :=
  (∀ f : VForm, fldN f.md 0 8 ≠ 0x1B → CompletesScalar (.srd f) (selV f) f.d fun s => s.srd (fldN f.md 0 8)) ∧
  (∀ (f : VForm) (s : State), fldN f.md 0 8 = 0x1B → s.issuing = true → s.signed = true → bitAt (s.srd 0x1B) 0 = false ∨ s.G.trapm = true →
    ∃ t, exec (.srd f) s = .next t ∧ (selV f s ≠ 0 → s.midClause → WroteScalar f.d (s.srd 0x1B) s t) ∧ (selV f s = 0 → SameScalar s t) ∧
      SameVector s t ∧ SamePred s t ∧ SameSpecial [0x19] s t ∧ SameOutside s t ∧ NextWord s t) ∧
  (∀ (f : VForm) (s : State), s.issuing = true → s.signed = true → selV f s ≠ 0 → fldN f.md 0 8 ∈ writable →
    (fldN f.md 0 8 = 0x2A ∨ fldN f.md 0 8 = 0x2B → s.G.svc = true) → (fldN f.md 0 8 = 0x28 → (aUni f s).toNat < 3) →
    ∃ t, exec (.swr f) s = .next t ∧
      t.special t.G t.S (fldN f.md 0 8) = written s (fldN f.md 0 8) (s.special s.G s.S (fldN f.md 0 8)) (aUni f s) ∧
      SameSpecial [0x19, fldN f.md 0 8] s t ∧ SameVector s t ∧ SameScalar s t ∧ SamePred s t ∧ SameOutside s t ∧ NextWord s t)

/-- R100, R102, R146: an SRD of SR_RFLT whose V is set raises RMTFLT outside trap mode; an SWR of a privileged register without SR_PRIV.SVC raises PRIV, one of a value of SR_DPLACE that R102 refuses raises ILLOP. -/
def Sys2Proof.Claims.specialRefusals : Prop :=
  (∀ (f : VForm) (s : State), s.canTrap = true → selV f s ≠ 0 → fldN f.md 0 8 = 0x1B → bitAt (s.srd 0x1B) 0 = true →
    TrapsWith (.srd f) s .rmtflt (selV f s) 0) ∧
  (∀ (f : VForm) (s : State), s.canTrap = true → selV f s ≠ 0 → fldN f.md 0 8 = 0x2A ∨ fldN f.md 0 8 = 0x2B → s.G.svc = false →
    TrapsWith (.swr f) s .priv (selV f s) 0) ∧
  (∀ (f : VForm) (s : State), s.canTrap = true → selV f s ≠ 0 → fldN f.md 0 8 = 0x28 → 3 ≤ (aUni f s).toNat →
    TrapsWith (.swr f) s .illop (selV f s) 0)

/-- R146, R100: SRD copies a special register, as it stands at issue, into an s register; SWR writes one and changes no other register; and R100, R102, R146: an SRD of SR_RFLT whose V is set raises RMTFLT outside trap mode; an SWR of a privileged register without SR_PRIV.SVC raises PRIV, one of a value of SR_DPLACE that R102 refuses raises ILLOP. The model's own choices here: log 11. -/
def Obligations.SpecialAccesses : Prop := Sys2Proof.Claims.specialReadsAndWrites ∧ Sys2Proof.Claims.specialRefusals

/-- R25, R148, R149, R160: BRA, JMP, RET and CALL go on, jump, divide the split or defer a path, with the steps of SIGP; CALL writes its link. -/
def Obligations.Branches : Prop :=
  ∀ (i : Instr) (s : State) (hint : Nat) (taken : Mask) (target : W64), transferOf i s = some (hint, taken, target) →
    s.issuing = true → s.signed = true → s.outsideSegment s.G target = false →
    (taken ≠ 0 → taken ≠ s.S.mask → s.divides s.G hint = false → s.G.stack.length < 32) →
    ∃ t, exec i s = .next t ∧ Transferred hint taken target s t ∧ SameVector s t ∧ SamePred s t ∧ SameOutside s t ∧
      SameSpecial [0x01, 0x10, 0x11, 0x19, 0x1A] s t ∧
      (∀ f, i = .call f → taken ≠ 0 →
        (if s.G.trapm = true ∧ 56 ≤ f.d.toNat then SMap.get 0 t.G.bank f.d.toNat else SMap.get 0 t.G.s f.d.toNat) = s.S.pc + 8) ∧
      ((∀ f, i ≠ .call f) ∨ taken = 0 → SameScalar s t)

/-- R147, R150: MJOIN pushes a join record for the split's lanes; JOIN enters the innermost record, and then resumes a path that the split has deferred, waits, or, when the last expected lane arrives, merges the waiting splits into one with the lowest index. -/
def Obligations.Joins : Prop :=
  (∀ (f : CForm) (s : State), s.issuing = true → s.signed = true → selC f s ≠ 0 → s.G.stack.length < 32 →
    ∃ t, exec (.mjoin f) s = .next t ∧ Untouched [] s t ∧ NextWord s t ∧
      t.G.stack = .joinRec (s.S.pc + (f.off.signExtend 64 <<< 3)) s.S.mask 0 0 [] 0 [] :: s.G.stack) ∧
  (∀ (f : CForm) (s : State) (x : W64) (e q : Mask) (g : W32) (ws : List Nat) (k : W64) (ps : List Nat) (es : List StackEntry),
    s.issuing = true → s.signed = true → selC f s ≠ 0 → s.cur.2 < 4 → (∀ j ∈ ws, s.G.splits.any (·.idx == j) = true) →
    s.G.stack = .joinRec x e q g ws k ps :: es →
    ∃ t, exec (.join f) s = .next t ∧ SameVector s t ∧ SameScalar s t ∧ SamePred s t ∧ SameOutside s t ∧
      (q ||| s.S.mask ≠ e → t.S.wait = .join s.S.sigb ∧
        t.G.stack = .joinRec x e (q ||| s.S.mask) (g ^^^ s.S.sigp) (ws ++ [s.cur.2]) (s.S.pc + 8) (ps ++ s.S.past).eraseDups :: es) ∧
      (q ||| s.S.mask = e → e ≠ 0 → ∃ p, p ∈ t.G.splits ∧ p.idx = (ws ++ [s.cur.2]).foldl min 3 ∧ p.mask = e ∧
        p.pc = s.S.pc + 8 ∧ p.sigb = 0xFFFF ∧ p.sigp = pathStep (g ^^^ s.S.sigp) e 5 ∧ p.wait = .none)) ∧
  (∀ (f : CForm) (s : State) (pc : W64) (m : Mask) (sp : W32) (x : W64) (e q : Mask) (g : W32) (ws : List Nat) (k : W64) (ps : List Nat) (es : List StackEntry),
    s.issuing = true → s.signed = true → selC f s ≠ 0 →
    s.G.stack = .deferred pc m sp s.cur.2 :: .joinRec x e q g ws k ps :: es →
    ∃ t, exec (.join f) s = .next t ∧ t.S.pc = pc ∧ t.S.mask = m ∧ t.S.sigp = sp ∧ t.S.sigb = 0xFFFF ∧
      t.G.stack = .joinRec x e (q ||| s.S.mask) (g ^^^ s.S.sigp) ws (s.S.pc + 8) (ps ++ s.S.past).eraseDups :: es)

/-- R22, R151, R160: EXIT and KILL end the selected lanes; KILL records them in SR_KILL. -/
def Obligations.EndingLanes : Prop :=
  ∀ (f : CForm) (s : State), s.issuing = true → s.signed = true → selC f s ≠ 0 → Alone s →
    (∃ t, exec (.exit f) s = .next t ∧ Ended (selC f s) false s t ∧ SameVector s t ∧ SameScalar s t ∧ SamePred s t ∧ SameOutside s t) ∧
    (∃ t, exec (.kill f) s = .next t ∧ Ended (selC f s) true s t ∧ SameVector s t ∧ SameScalar s t ∧ SamePred s t ∧ SameOutside s t)

/-- R152, R153, R154: YIELD marks the split, BAR arrives and, alone in its workgroup with quiet counters, passes at once, IDEM opens and closes a region. -/
def Obligations.YieldBarrierRegion : Prop :=
  (∀ (f : CForm) (s : State), s.issuing = true → s.signed = true → selC f s ≠ 0 →
    ∃ t, exec (.yield f) s = .next t ∧ t.S.yielded = true ∧ Untouched [] s t ∧ NextWord s t) ∧
  (∀ (f : VForm) (s : State), s.issuing = true → s.signed = true → selV f s ≠ 0 →
    (∀ w n, ((s.modS fun p => { p with bars := p.bars.filter (· != fldN f.md 0 4) ++ [fldN f.md 0 4] }).retire).barrierDone w n = false) →
    ∃ t, exec (.bar f) s = .next t ∧ t.S.bars = s.S.bars.filter (· != fldN f.md 0 4) ++ [fldN f.md 0 4] ∧ Untouched [] s t ∧ NextWord s t) ∧
  (∀ (f : VForm) (s : State) (g : Group), s.issuing = true → s.signed = true → selV f s ≠ 0 → s.groups = [g] → g.gid = s.cur.1 →
    g.ended = false → g.splits.length = 1 → g.quiet [.scr, .glb] = true →
    ∃ t, exec (.bar f) s = .next t ∧ t.S.bars = [] ∧ Untouched [] s t ∧ NextWord s t) ∧
  (∀ (f : VForm) (s : State), s.issuing = true → s.signed = true → selV f s ≠ 0 → aUni f s = 1 →
    ∃ t, exec (.idem f) s = .next t ∧ t.G.idempc = s.S.hdrPc ∧ t.G.restart = some (s.S.mask, s.S.sigp, s.G.stack.length) ∧
      Untouched [0x18] s t ∧ NextWord s t) ∧
  (∀ (f : VForm) (s : State), s.issuing = true → s.signed = true → selV f s ≠ 0 → aUni f s = 0 →
    ∃ t, exec (.idem f) s = .next t ∧ t.G.idempc = 0 ∧ Untouched [0x18] s t ∧ NextWord s t)

/-- R155, R326, R327: TRAP and BRK take the trap of their cause with their code in SR_TADDR: the five registers, the frame with its CRC, trap mode, the handler's first clause. -/
def Sys2Proof.Claims.softwareTraps : Prop :=
  (∀ (f : IForm) (s : State), s.canTrap = true → s.sel f.p false ≠ 0 →
    TrapsWith (.trap f) s .swtrap (s.sel f.p false) (f.imm.setWidth 64)) ∧
  (∀ (f : CForm) (s : State), s.canTrap = true → selC f s ≠ 0 →
    TrapsWith (.brk f) s .brkpt (selC f s) ((fld f.off 0 16).setWidth 64))

/-- R156, R327: TRET leaves trap mode when the frame's CRC matches; the splits and the stack are those of the opaque block, and the interrupted split goes on at SR_TPC for the lanes of SR_TMASK under RPL, past it under SKP. Outside trap mode it raises ILLOP. -/
def Sys2Proof.Claims.trapReturns : Prop :=
  (∀ (f : VForm) (s : State) (o : Opaque) (q : Split) (u : State) (a : Nat) (p : W64) (h w : W64),
    s.issuing = true → s.signed = true → selV f s ≠ 0 → s.G.saved = some o → s.G.strip = false → s.G.pending = [] → s.G.restarting = false →
    s.mops = [] → o.trapper = s.cur.2 → o.splits = [q] → q.idx = s.cur.2 → o.stack = [] →
    s.translate s.G.core s.G.ctx s.G.tframe .load 0 = (u, .ok (.mem a) p) →
    natOfBytes (u.mem.readN (a + 0x3FC) 4) = (crc32c (u.mem.readN a 0x3FC)).toNat →
    u.clauseAt s.G.ctx { q with sigp := o.sigp } s.G.tpc = some (h, w) → s.G.tpc ≠ h →
    (∃ t, exec (.tretRpl f) s = .next t ∧ t.G.trapm = false ∧ t.G.saved = none ∧ t.G.stack = [] ∧ t.S.pc = s.G.tpc ∧
      t.S.mask = q.mask ∧ t.S.replay = some (s.G.tmask &&& q.mask) ∧ t.S.sigb = q.sigb ∧ t.S.sigp = o.sigp ∧
      t.G.v = s.G.v ∧ t.G.s = s.G.s ∧ t.G.bank = s.G.bank) ∧
    (2 ≤ ((h + BitVec.ofNat 64 (8 * (fldN w 56 4 + 2))) - s.G.tpc).toNat / 8 →
      ∃ t, exec (.tretSkp f) s = .next t ∧ t.G.trapm = false ∧ t.G.saved = none ∧ t.G.stack = [] ∧ t.S.pc = s.G.tpc + 8 ∧
      t.S.mask = q.mask ∧ t.S.replay = none ∧ t.S.sigp = o.sigp ∧ t.G.v = s.G.v ∧ t.G.s = s.G.s ∧ t.G.bank = s.G.bank)) ∧
  (∀ (f : VForm) (s : State), s.canTrap = true → selV f s ≠ 0 →
    TrapsWith (.tretRpl f) s .illop (selV f s) 0 ∧ TrapsWith (.tretSkp f) s .illop (selV f s) 0)

/-- R155, R326, R327: TRAP and BRK take the trap of their cause with their code in SR_TADDR: the five registers, the frame with its CRC, trap mode, the handler's first clause; and R156, R327: TRET leaves trap mode when the frame's CRC matches; the splits and the stack are those of the opaque block, and the interrupted split goes on at SR_TPC for the lanes of SR_TMASK under RPL, past it under SKP. Outside trap mode it raises ILLOP. -/
def Obligations.SoftwareTrapsAndReturns : Prop := Sys2Proof.Claims.softwareTraps ∧ Sys2Proof.Claims.trapReturns

/-- R157, R158: RBSUR keeps its first blocks and owes the rest to the pool, RBCLM queues a claim for its workgroup; a block number that R157 or R158 refuses raises ILLOP. -/
def Obligations.RegisterBlocks : Prop :=
  (∀ (f : VForm) (s : State), s.issuing = true → s.signed = true → selV f s ≠ 0 →
    1 ≤ (aUni f s).toInt → (aUni f s).toInt < s.G.nblk → (aUni f s).toInt ≤ 16 →
    ∃ t, exec (.rbsur f) s = .next t ∧ (t.G.nblk : Int) = (aUni f s).toInt ∧ (t.G.owed : Int) = s.G.owed + (s.G.nblk - (aUni f s).toInt) ∧
      (∀ r l : Nat, l < 64 → (r : Int) < 16 * (aUni f s).toInt → t.G.vreg r l = s.G.vreg r l) ∧
      (∀ r l : Nat, l < 64 → 16 * (aUni f s).toInt ≤ (r : Int) → t.G.vreg r l = 0) ∧
      SameSpecial [0x19] s t ∧ SameScalar s t ∧ SamePred s t ∧ SameOutside s t ∧ NextWord s t) ∧
  (∀ (f : VForm) (s : State), s.issuing = true → s.signed = true → selV f s ≠ 0 →
    0 < (aUni f s).toInt → s.G.nblk + (aUni f s).toInt ≤ 16 → s.wgs.any (·.id == s.G.wg) = true →
    ∃ t, exec (.rbclm f) s = .next t ∧ (t.wgOf s.G.wg).claims = (s.wgOf s.G.wg).claims ++ [(s.cur.1, (aUni f s).toNat)] ∧
      t.S.claim = some (s.S.pc, s.S.left, s.S.sigb) ∧ Untouched [] s t ∧ NextWord s t) ∧
  (∀ (f : VForm) (s : State), s.canTrap = true → selV f s ≠ 0 → (aUni f s).toInt < 1 ∨ 16 < (aUni f s).toInt →
    TrapsWith (.rbsur f) s .illop (selV f s) 0) ∧
  (∀ (f : VForm) (s : State), s.canTrap = true → selV f s ≠ 0 → (aUni f s).toInt < 0 ∨ 16 < s.G.nblk + (aUni f s).toInt →
    TrapsWith (.rbclm f) s .illop (selV f s) 0)

/-! ### Memory -/

namespace Sys2Proof.Claims

/-- The machine with another split issuing. -/
def at' (g i : Nat) (s : State) : State := { s with cur := (g, i) }

/-- The counters of the issuing group rise by n, no other does (R317). -/
def Counts (n : Path → Nat) (s t : State) : Prop := ∀ p, t.G.count p = s.G.count p + n p

/-- Exactly one path is counted once. -/
def one (p : Path) : Path → Nat := fun q => if q = p then 1 else 0

/-- What a lane instruction of the memory pipe asks: its format, the operation that it begins, and its elements in ascending lane order, with the address of each (R200, R207 to R211, R217). -/
def access : Instr → State → Option (MForm × MemOp × List Elem)
  | .lds f, s => some (f, s.newOp f 0x90 .load, laneElems f s (scrAddr f s) false)
  | .sts f, s => some (f, s.newOp f 0x91 .store, laneElems f s (scrAddr f s) true)
  | .atoms f, s => some (f, s.newOp f 0x92 (.atomic (aopOf f)), atomElems f s fun l => (s.src32 f.a l + (aoff f).signExtend 32).setWidth 64)
  | .ldsx f, s => some (f, s.newOp f 0x93 .load, blockElems f s false)
  | .stsx f, s => some (f, s.newOp f 0x94 .store, blockElems f s true)
  | .ld f, s => some (f, s.newOp f 0xA0 .load, laneElems f s (glbAddr f s) false)
  | .st f, s => some (f, s.newOp f 0xA1 .store, laneElems f s (glbAddr f s) true)
  | .atom f, s => some (f, s.newOp f 0xA2 (.atomic (aopOf f)), atomElems f s fun l => s.src64 f.a l + (aoff f).signExtend 64)
  | .sld f, s => some (f, { s.newOp f 0xA3 .load with
      d := f.d.toNat + (if s.G.trapm = true ∧ 56 ≤ f.d.toNat then 64 else 0), toS := true }, oneElem f s false)
  | .sst f, s => some (f, s.newOp f 0xA4 .store, oneElem f s true)
  | .dfill f, s => some (f, s.newOp f 0xAB (.fill (decide (f.b = .imm 1))), fillElems f s)
  | _, _ => none

/-- The byte of a scratchpad to which an address leads, when a workgroup of the context holds it (R179); a MCAST store names its own workgroup's offset on every core of the cluster, of which the first stands for all (R184). -/
def ScratchByte (s : State) (o : MemOp) (va : W64) (l : Loc) : Prop :=
  fldN va 20 4 = 0 ∧
  if fldN va 28 4 = 13 ∧ o.kind = .store then
    (bitAt va 27 = true → fldN va 24 3 = 0 ∧ fldN va 0 20 < (s.wgOf s.G.wg).size) ∧
    l = .spm (8 * (o.core / 8)) ((s.wgOf s.G.wg).base + fldN va 0 20)
  else if bitAt va 27 = true then
    fldN va 24 3 = 0 ∧ fldN va 0 20 < (s.wgOf s.G.wg).size ∧ l = .spm o.core ((s.wgOf s.G.wg).base + fldN va 0 20)
  else
    (∃ w, s.holder (8 * (o.core / 8) + fldN va 24 3) (fldN va 0 20) = some w ∧ w.ctx = o.ctx) ∧
    l = .spm (8 * (o.core / 8) + fldN va 24 3) (fldN va 0 20)

/-- An element passes the checks of R178 to R181 and R202 and is placed as x; t is s with the marks that the translation leaves. -/
def Placed (s : State) (o : MemOp) (e : Elem) (t : State) (x : Elem) : Prop :=
  if o.scratch = true then
    ∃ l, t = s ∧ ScratchByte s o e.va l ∧ winSize (fldN e.va 28 4) e.size = true ∧ fldN e.va 0 20 % e.size = 0 ∧
      fldN e.va 28 4 ≠ 15 ∧ (1 < fldN e.va 28 4 → o.opc = 0x90 ∨ o.opc = 0x91) ∧ x = e.at l (fldN e.va 28 4) false false
  else
    ∃ l p, e.va.toNat < 2 ^ 60 ∧ winSize (fldN e.va 56 4) e.size = true ∧ e.va.toNat % e.size = 0 ∧
      s.translate o.core o.ctx e.va o.ask (fldN e.va 56 4) = (t, .ok l p) ∧ windowRefused o e (fldN e.va 56 4) p = false ∧
      (o.opc = 0xAB → bitAt p 4 = true) ∧ x = e.at l (fldN e.va 56 4) (bitAt p 4) (bitAt p 37)

/-- The elements of a list are placed one after the other. -/
def PlacedAll (o : MemOp) : State → List Elem → State → List Elem → Prop
  | s, [], t, xs => t = s ∧ xs = []
  | s, e :: es, t, x :: xs => ∃ u, Placed s o e u x ∧ PlacedAll o u es t xs
  | _, _ :: _, _, [] => False

/-- The accumulators, banks, tags and poison marks stay, and so does every other group. -/
structure Apart (s t : State) : Prop where
  acc : t.acc = s.acc
  act : t.act = s.act
  tags : t.tags = s.tags
  poison : t.poison = s.poison ∧ t.spmPoison = s.spmPoison ∧ t.accPoison = s.accPoison
  others : ∀ g, g ≠ s.cur.1 → t.grp g = s.grp g

/-- An operation apart from whether the lines that its replies bring may still enter L1 (R186). -/
def withoutFill (o : MemOp) : MemOp := { o with elems := o.elems.map fun e => { e with nofill := false } }

/-- Every register of the issuing group stays, and its special registers but those listed; the split goes on at the next word. -/
structure Registers (but : List Nat) (s t : State) : Prop where
  vector : SameVector s t
  scalar : SameScalar s t
  pred : SamePred s t
  special : SameSpecial (0x19 :: but) s t
  word : NextWord s t

/-- What a release waits for is met (R205, R220): no copy fault or remote failure is due, and the counters of the scope are zero. -/
def Released (scope : Nat) (s : State) : Prop :=
  s.G.cpyFault = none ∧ (5 ≤ scope → bitAt (s.srd 0x1B) 0 = false) ∧ s.G.quiet (scopePaths scope) = true

/-- The addresses of the lanes of LDS, STS, ATOMS, LD, ST and ATOM. -/
def laneAccess : Instr → State → Option (MForm × Bool × (Nat → W64))
  | .lds f, s => some (f, true, scrAddr f s)
  | .sts f, s => some (f, true, scrAddr f s)
  | .atoms f, s => some (f, true, fun l => (s.src32 f.a l + (aoff f).signExtend 32).setWidth 64)
  | .ld f, s => some (f, false, glbAddr f s)
  | .st f, s => some (f, false, glbAddr f s)
  | .atom f, s => some (f, false, fun l => s.src64 f.a l + (aoff f).signExtend 64)
  | _, _ => none

/-- An address out of range: bits 23:20 of a scratchpad address are not zero (R179), bits 63:60 of a global one are not (R178). -/
def outOfRange (scratch : Bool) (va : W64) : Prop := if scratch then fldN va 20 4 ≠ 0 else fldN va 60 4 ≠ 0

/-- Only the n bytes at a location may change. -/
structure OnlyBytes (l : Loc) (n : Nat) (s t : State) : Prop where
  mem : ∀ a, (∀ j < n, l.add j ≠ .mem a) → t.mem.read a = s.mem.read a
  spm : ∀ k, (∀ j < n, ∀ c x, l.add j = .spm c x → spmKey c x ≠ k) → t.spm.read k = s.spm.read k
  rest : t.cmdMem = s.cmdMem ∧ t.acc = s.acc ∧ t.act = s.act ∧ t.tags = s.tags

/-- The one element e of request r of operation o of a group may be performed now, in scratchpad or in local memory, on a word that keeps no tag, and no shadow, hold, poison mark or L1 line takes part. -/
structure OneElement (o : MemOp) (e : Elem) (r : Nat) (s : State) : Prop where
  op : s.mop? o.id = some o
  sound : o.faults = []
  group : ∃ g i, o.owner = .group g i ∧ (s.grp g).shadow = false
  only : (o.elems.filter fun x => x.req == r && s.performable o x) = [e]
  home : (∃ c x, e.loc = .spm c x) ∨ ∃ a, e.loc = .mem a
  plain : e.dpage = false ∧ o.hold = false ∧ s.poisoned e.loc e.size = false ∧ s.l1Find o.core e.loc = none
  size : e.size = 1 ∨ e.size = 2 ∨ e.size = 4 ∨ e.size = 8 ∨ e.size = 16 ∨ e.size = 32

/-- The element is performed with a result. -/
def Performed (o : MemOp) (e : Elem) (x : BitVec 256) (t : State) : Prop :=
  ∃ p, t.mop? o.id = some p ∧ ∃ y ∈ p.elems, y.lane = e.lane ∧ y.reg = e.reg ∧ y.stage = .performed x

/-- The bytes at a location hold a number. -/
def Holds (t : State) (l : Loc) (n : Nat) (v : Nat) : Prop := t.num l n = v % 2 ^ (8 * n)

/-- What a store through a window makes of an element (R180): ADDI, MAXI, MAXU, MINI, MINU, OR, AND, XOR. -/
def windowValue (win n : Nat) (old x : BitVec n) : BitVec n :=
  match win with
  | 2 => old + x
  | 4 => if old.toInt < x.toInt then x else old
  | 5 => if old.toNat < x.toNat then x else old
  | 6 => if x.toInt < old.toInt then x else old
  | 7 => if x.toNat < old.toNat then x else old
  | 8 => old ||| x
  | 9 => old &&& x
  | _ => old ^^^ x

/-- The window whose operation an atomic makes (R70): ADD, MINI, MINU, MAXI, MAXU, AND, OR, XOR. -/
def atomicWindow : Nat → Option Nat
  | 0 => some 2 | 2 => some 6 | 3 => some 7 | 4 => some 4 | 5 => some 5 | 6 => some 9 | 7 => some 8 | 8 => some 10 | _ => none

end Sys2Proof.Claims

/-- R144: XSHUF with a partner that waits for it gives each side the other's operand in the lanes that the other selects, its own elsewhere, and both go on; without one the split waits; after 65,536 clocks the wait ends in XSHTO with nothing written. The model's own choice here: log 81. -/
def Obligations.Rendezvous : Prop :=
  (∀ (f f' : VForm) (s : State) (g i : Nat), s.issuing = true → s.signed = true → selV f s ≠ 0 → (bUni f s).toNat < 2 ^ 13 →
    s.partner s.G (fldN (bUni f s) 0 8) (fldN (bUni f s) 8 5) = some (g, i) → g ≠ s.cur.1 →
    (at' g i s).issuing = true → (at' g i s).signed = true → decode (at' g i s).S.ir = .ok (.xshuf f') →
    ∃ t, exec (.xshuf f) s = .next t ∧
      Wrote32 f.d f.w f.bl (selV f s) (fun l r => r = if bitAt (selV f' (at' g i s)) l then aOf f' (at' g i s) l else aOf f s l) s t ∧
      Wrote32 f'.d f'.w f'.bl (selV f' (at' g i s)) (fun l r => r = if bitAt (selV f s) l then aOf f s l else aOf f' (at' g i s) l)
        (at' g i s) (at' g i t) ∧
      NextWord s t ∧ NextWord (at' g i s) (at' g i t) ∧ (∀ l n, t.readLoc l n = s.readLoc l n) ∧
      ∀ h, h ≠ s.cur.1 → h ≠ g → t.grp h = s.grp h) ∧
  (∀ (f : VForm) (s : State), s.issuing = true → selV f s ≠ 0 → (bUni f s).toNat < 2 ^ 13 →
    s.partner s.G (fldN (bUni f s) 0 8) (fldN (bUni f s) 8 5) = none →
    ∃ t, exec (.xshuf f) s = .next t ∧ t.S.wait = .xshuf (fldN (bUni f s) 0 8) (fldN (bUni f s) 8 5) s.clk ∧ t.S.pc = s.S.pc ∧
      SameVector s t ∧ SameOutside s t) ∧
  (∀ (g i core slot : Nat) (since : W64) (f : VForm) (s : State), (at' g i s).canTrap = true → (at' g i s).S.wait = .xshuf core slot since →
    since.toNat + 65536 ≤ s.clk.toNat → decode (at' g i s).S.ir = .ok (.xshuf f) →
    ∃ t, exec (.xshto g i) s = .next t ∧ t.cur = s.cur ∧
      TrapEntered .xshto (selV f (at' g i s)) (bUni f (at' g i s)) [] (at' g i s) (at' g i t))

/-- R200, R202, R203, R207 to R211, R217: a lane instruction of the memory pipe whose elements pass the checks begins one operation with these elements, counts once on every path that they reach, and goes on; its effect on memory and registers comes later. -/
def Sys2Proof.Claims.memoryInstructions : Prop :=
  ∀ (i : Instr) (s : State) (f : MForm) (o : MemOp) (es : List Elem) (u : State) (xs : List Elem), access i s = some (f, o, es) →
    s.issuing = true → s.signed = true → selM f s ≠ 0 → s.S.acqs = [] → (2 ≤ f.ord.toNat → Released f.scope.toNat s) →
    s.passing (.group s.cur.1 s.cur.2) = false → es ≠ [] → PlacedAll o s es u xs → (∀ x ∈ xs, o.passed x = true) → (∀ p, s.G.count p < 63) → s.tokOps = [] →
    s.txFull { o with elems := xs } = false →
    ∃ t, exec i s = .next t ∧
      (∃ ms, t.mops = ms ++ [{ o with elems := xs.map fun x => { x with drop := s.G.restarting } }] ∧ ms.map withoutFill = s.mops.map withoutFill) ∧
      (∀ p, t.G.count p = s.G.count p + if xs.any (fun x => Elem.path o x == p) then 1 else 0) ∧
      t.S.acqs = (if f.ord.toNat % 2 = 1 then [s.nextId] else []) ∧
      Registers [0x1F] s t ∧ Apart s t ∧ (∀ l n, t.readLoc l n = u.readLoc l n)

/-- R178, R179, R202, R328: when every lane's address is out of range the instruction performs nothing and takes RANGE for its lanes, with the lowest lane's address and one record a lane. -/
def Sys2Proof.Claims.memoryTraps : Prop :=
  ∀ (i : Instr) (s : State) (f : MForm) (scratch : Bool) (addr : Nat → W64), laneAccess i s = some (f, scratch, addr) →
    s.canTrap = true → selM f s ≠ 0 → s.S.acqs = [] → f.ord.toNat < 2 → s.tokOps = [] → s.passing (.group s.cur.1 s.cur.2) = false → (∀ p, s.G.count p < 63) →
    (∀ l < 64, bitAt (selM f s) l = true → outOfRange scratch (addr l)) →
    ∃ t recs, exec i s = .next t ∧ TrapEntered .range (selM f s) (addr (lowest (selM f s))) recs s t ∧
      recs.map (·.lane) = (List.range 64).filter (bitAt (selM f s) ·) ∧ (∀ r ∈ recs, r.addr = addr r.lane ∧ r.cause = .range) ∧
      t.mops.map withoutFill = s.mops.map withoutFill ∧ ∀ p, t.G.count p = s.G.count p

/-- R200, R202, R203, R207 to R211, R217: a lane instruction of the memory pipe whose elements pass the checks begins one operation with these elements, counts once on every path that they reach, and goes on; its effect on memory and registers comes later; and R178, R179, R202, R328: when every lane's address is out of range the instruction performs nothing and takes RANGE for its lanes, with the lowest lane's address and one record a lane. -/
def Obligations.MemoryInstructions : Prop := Sys2Proof.Claims.memoryInstructions ∧ Sys2Proof.Claims.memoryTraps

/-- R180, R182, R185, R211: performed at its home, a load returns the bytes there and changes none; a store writes its data; a store through windows 2 and 4 to 10 and an atomic replace the old value by the operation's, the atomic returning the old; no other byte changes. -/
def Obligations.HomeAccesses : Prop :=
  ∀ (o : MemOp) (e : Elem) (r : Nat) (s : State), OneElement o e r s →
    (o.kind = .load → e.win ≤ 1 → ∃ t, exec (.homeAccess o.id r) s = .next t ∧
      Performed o e (BitVec.ofNat 256 (s.num e.loc e.size)) t ∧ OnlyBytes e.loc 0 s t) ∧
    (o.kind = .load → e.win = 11 → ∃ t, exec (.homeAccess o.id r) s = .next t ∧
      Performed o e (BitVec.ofNat 256 (s.num e.loc e.size)) t ∧ Holds t e.loc e.size 0 ∧ OnlyBytes e.loc e.size s t) ∧
    (o.kind = .load → e.win = 12 → s.num e.loc e.size ≠ 0 → ∃ t, exec (.homeAccess o.id r) s = .next t ∧
      Performed o e (BitVec.ofNat 256 (s.num e.loc e.size)) t ∧ OnlyBytes e.loc 0 s t) ∧
    (o.kind = .load → e.win = 12 → s.num e.loc e.size = 0 → e.stage = .todo → s.waiterFull e.loc = false → ∃ t, exec (.homeAccess o.id r) s = .next t ∧
      OnlyBytes e.loc 0 s t ∧ ∃ p, t.mop? o.id = some p ∧ ∃ y ∈ p.elems, y.lane = e.lane ∧ y.reg = e.reg ∧ ∃ n, y.stage = .waiting n) ∧
    (o.kind = .store → e.win ≤ 1 ∨ e.win = 11 ∨ e.win = 12 → ∃ t, exec (.homeAccess o.id r) s = .next t ∧ Performed o e 0 t ∧
      Holds t e.loc e.size e.data.toNat ∧ OnlyBytes e.loc e.size s t) ∧
    (o.kind = .store → e.win = 2 ∨ (4 ≤ e.win ∧ e.win ≤ 10) → e.size = 4 ∨ e.size = 8 → ∃ t, exec (.homeAccess o.id r) s = .next t ∧ Performed o e 0 t ∧
      Holds t e.loc e.size (windowValue e.win (8 * e.size) (BitVec.ofNat _ (s.num e.loc e.size)) (e.data.setWidth _)).toNat ∧
      OnlyBytes e.loc e.size s t) ∧
    (∀ a w, o.kind = .atomic a → atomicWindow a = some w → e.size = 4 ∨ e.size = 8 → ∃ t, exec (.homeAccess o.id r) s = .next t ∧
      Performed o e (BitVec.ofNat 256 (s.num e.loc e.size)) t ∧
      Holds t e.loc e.size (windowValue w (8 * e.size) (BitVec.ofNat _ (s.num e.loc e.size)) (e.data.setWidth _)).toNat ∧
      OnlyBytes e.loc e.size s t) ∧
    (o.kind = .atomic 9 → e.size = 4 ∨ e.size = 8 → ∃ t, exec (.homeAccess o.id r) s = .next t ∧
      Performed o e (BitVec.ofNat 256 (s.num e.loc e.size)) t ∧ Holds t e.loc e.size e.data.toNat ∧ OnlyBytes e.loc e.size s t) ∧
    (o.kind = .atomic 10 → e.size = 4 ∨ e.size = 8 → ∃ t, exec (.homeAccess o.id r) s = .next t ∧
      Performed o e (BitVec.ofNat 256 (s.num e.loc e.size)) t ∧
      Holds t e.loc e.size (if e.data.toNat % 2 ^ 64 = s.num e.loc e.size then e.swap.toNat else s.num e.loc e.size) ∧ OnlyBytes e.loc e.size s t)

/-- R203, R207, R210, R318: when a performed element completes its value is in the lane's registers from D up, the lowest register lowest, or in the s register of SLD; an operation all of whose elements are done leaves, and its counts are done. -/
def Obligations.Landings : Prop :=
  ∀ (o : MemOp) (e : Elem) (r g i : Nat) (land : Mask) (x : BitVec 256) (s : State), s.mop? o.id = some o → o.owner = .group g i → o.hold = false → o.faults = [] →
    (o.kind = .load ∨ ∃ a, o.kind = .atomic a) → (o.elems.filter fun y => y.req == r && bitAt land y.lane) = [e] → e.stage = .performed x →
    (∀ y ∈ o.elems, y.lane = e.lane → y.reg = e.reg → y = e) → e.drop = false → e.dropRegs = [] → s.replyBehind o r = false → e.lane < 64 → (s.grp g).late = false → (s.group? g).isSome = true → o.ord = 0 →
    ∃ t, exec (.memRequestComplete o.id r land) s = .next t ∧ (∀ l n, t.readLoc l n = s.readLoc l n) ∧
      (∀ h, h ≠ g → t.grp h = s.grp h) ∧ (∀ p, (t.grp g).pred p = (s.grp g).pred p) ∧
      (o.toS = false → (t.grp g).s = (s.grp g).s ∧ (t.grp g).bank = (s.grp g).bank ∧ ∀ k l, l < 64 → (t.grp g).vreg k l =
        if l = e.lane ∧ o.d + e.reg ≤ k ∧ k < o.d + e.reg + (e.size + 3) / 4 ∧ k < 16 * (s.grp g).nblk then fld x (32 * (k - (o.d + e.reg))) 32
        else (s.grp g).vreg k l) ∧
      (o.toS = true → o.d < 64 → (t.grp g).v = (s.grp g).v ∧ (t.grp g).bank = (s.grp g).bank ∧
        ∀ k, SMap.get 0 (t.grp g).s k = if k = o.d then fld x 0 64 else SMap.get 0 (s.grp g).s k) ∧
      ((∀ y ∈ o.elems, y = e ∨ y.stage = .done) → (∀ p ∈ o.paths, ∀ q ∈ (t.grp g).inflight, q.id = o.id → q.path = p → q.done = true) ∧
        ∀ q ∈ t.mops, q.id ≠ o.id)

/-- R205, R206, R212 to R216: FENCE and FENCEH pass when the counters of their scope are zero and wait otherwise, an acquire leaving no line in the core's L1; FENCEL waits for the split's stores that have still to leave, and marks those that have; OPFENCE makes register and scratchpad writes visible to the Lathe; INVL1 drops the lines that its lanes name; PREF only adds lines that hold what memory holds. -/
def Sys2Proof.Claims.fences : Prop :=
  (∀ (f : MForm) (s : State), s.issuing = true → s.signed = true → selM f s ≠ 0 → s.S.acqs = [] →
    (2 ≤ f.ord.toNat → s.G.cpyFault = none ∧ (5 ≤ f.scope.toNat → bitAt (s.srd 0x1B) 0 = false)) →
    (s.G.quiet (scopePaths f.scope.toNat) = true → ∃ t, exec (.fence f) s = .next t ∧ Untouched [] s t ∧ NextWord s t ∧
      t.l1 = if f.ord.toNat % 2 = 1 ∧ 4 ≤ f.scope.toNat then s.l1.filter (·.core != s.G.core) else s.l1) ∧
    (s.G.quiet (scopePaths f.scope.toNat) = false → exec (.fence f) s = .next s.stall)) ∧
  (∀ (f : MForm) (s : State), s.issuing = true → s.signed = true → selM f s ≠ 0 → (∀ o ∈ s.mops, s.buffered o = false) → ∃ t, exec (.fencel f) s = .next t ∧ Untouched [] s t ∧ NextWord s t ∧
    t.mops.map (·.id) = s.mops.map (·.id) ∧ ∀ o ∈ t.mops, s.S.past.contains o.id = true → o.pendingStore = true → o.fenced = true ∧ (0 < s.nextId → o.leftBy ≠ 0)) ∧
  (∀ (f : MForm) (s : State) (o : MemOp), selM f s ≠ 0 → o ∈ s.mops → s.buffered o = true → exec (.fencel f) s = .next s.stall) ∧
  (∀ (f : MForm) (s : State), s.issuing = true → s.signed = true → selM f s ≠ 0 → s.G.quiet (scopePaths f.scope.toNat) = true →
    (∀ o ∈ s.mops, s.serialises f.scope.toNat o = false) → ∃ t, exec (.fenceh f) s = .next t ∧ Untouched [] s t ∧ NextWord s t ∧
      t.l1 = if 4 ≤ f.scope.toNat then s.l1.filter (·.core != s.G.core) else s.l1) ∧
  (∀ (f : MForm) (s : State), s.issuing = true → s.signed = true → selM f s ≠ 0 →
    (∀ o ∈ s.mops, ∀ i, o.owner = .group s.cur.1 i → o.scratch = true → o.pendingStore = false) →
    ∃ t, exec (.opfence f) s = .next t ∧ Untouched [] s t ∧ NextWord s t ∧ t.G.unfenced = [] ∧ t.G.unfencedSpm = []) ∧
  (∀ (f : MForm) (s : State), s.issuing = true → s.signed = true → ∃ t, exec (.invl1 f) s = .next t ∧ Untouched [] s t ∧ NextWord s t ∧
    (∀ x ∈ t.l1, x ∈ s.l1) ∧ ∀ l < 64, bitAt (selM f s) l = true → ∀ loc p,
      s.deviceLoc s.G.ctx (glbAddr f s l &&& 0x00FFFFFFFFFFFFFF) = some (loc, p) → ∀ x ∈ t.l1, ¬(x.core = s.G.core ∧ x.loc = (s.selfLoc loc).line)) ∧
  (∀ (f : MForm) (s : State), s.issuing = true → s.signed = true → ∃ t, exec (.pref f) s = .next t ∧ Untouched [] s t ∧ NextWord s t ∧
    ∀ x ∈ t.l1, x ∈ s.l1 ∨ (x.core = s.G.core ∧ ∀ b ∈ x.bytes, s.readLoc (x.loc.add b.1) 1 = [b.2]))

/-- R320, R220, R244, R100: WAITC goes on when its path's counter is at most the operand and waits otherwise; a copy or Lathe fault that is due, or a remote failure, is raised when the wait is over. -/
def Sys2Proof.Claims.counterWaits : Prop :=
  (∀ (f : VForm) (s : State), s.issuing = true → s.signed = true → selV f s ≠ 0 → s.G.count (pathOf (fldN f.md 0 3)) ≤ (aUni f s).toNat →
    (fldN f.md 0 3 = 3 → s.G.cpyFault = none) → (fldN f.md 0 3 = 4 → s.G.mtxFault = none) → (fldN f.md 0 3 = 2 → bitAt (s.srd 0x1B) 0 = false) →
    ∃ t, exec (.waitc f) s = .next t ∧ Untouched [] s t ∧ NextWord s t) ∧
  (∀ (f : VForm) (s : State), selV f s ≠ 0 → (aUni f s).toNat < s.G.count (pathOf (fldN f.md 0 3)) → exec (.waitc f) s = .next s.stall) ∧
  (∀ (f : VForm) (s : State) (c : Cause) (a : W64), s.canTrap = true → selV f s ≠ 0 → s.G.count .cpy ≤ (aUni f s).toNat → fldN f.md 0 3 = 3 →
    s.G.cpyFault = some (c, a) → TrapsWith (.waitc f) s c s.S.mask a) ∧
  (∀ (f : VForm) (s : State) (c : Cause) (a : W64) (k : Bool), s.canTrap = true → selV f s ≠ 0 → s.G.count .mtx ≤ (aUni f s).toNat → fldN f.md 0 3 = 4 →
    s.G.mtxFault = some (c, a, k) → TrapsWith (.waitc f) s c s.S.mask a) ∧
  (∀ (f : VForm) (s : State), s.canTrap = true → selV f s ≠ 0 → s.G.count .rmt ≤ (aUni f s).toNat → fldN f.md 0 3 = 2 →
    bitAt (s.srd 0x1B) 0 = true → TrapsWith (.waitc f) s .rmtflt (selV f s) 0)

/-- R205, R206, R212 to R216: FENCE and FENCEH pass when the counters of their scope are zero and wait otherwise, an acquire leaving no line in the core's L1; FENCEL waits for the split's stores that have still to leave, and marks those that have; OPFENCE makes register and scratchpad writes visible to the Lathe; INVL1 drops the lines that its lanes name; PREF only adds lines that hold what memory holds; and R320, R220, R244, R100: WAITC goes on when its path's counter is at most the operand and waits otherwise; a copy or Lathe fault that is due, or a remote failure, is raised when the wait is over. -/
def Obligations.FencesAndWaits : Prop := Sys2Proof.Claims.fences ∧ Sys2Proof.Claims.counterWaits

/-! ### Copies and reductions -/

namespace Sys2Proof.Claims

/-- The operation that a copy instruction begins (R219). -/
def copyOf : Instr → State → Option (VForm × CopyKind)
  | .cpy f, _ => some (f, .cpy)
  | .tcpy f, _ => some (f, .tcpy)
  | .chain f, _ => some (f, .chain)
  | .gather f, _ => some (f, .gather)
  | .scatter f, _ => some (f, .scatter)
  | .nrset f, _ => some (f, .nrset)
  | .nred f, _ => some (f, .nred)
  | _, _ => none

/-- A copy address that names n bytes of the allotment of an operation's workgroup, aligned, through window 0 (R218, R179). -/
def OwnBytes (s : State) (c : CopyOp) (n : Nat) (a : W64) : Prop :=
  bitAt a 63 = true ∧ fldN a 32 31 = 0 ∧ fldN a 28 4 = 0 ∧ bitAt a 27 = true ∧ fldN a 20 7 = 0 ∧
    fldN a 0 20 % n = 0 ∧ fldN a 0 20 + n ≤ (s.wgOf c.wg).size

/-- Where the first of them lies. -/
def ownKey (s : State) (c : CopyOp) (a : W64) : Nat := spmKey c.core ((s.wgOf c.wg).base + fldN a 0 20)

/-- None of them carries a poison mark (R335). -/
def Unmarked (s : State) (c : CopyOp) (n : Nat) (a : W64) : Prop :=
  s.poisoned (.spm c.core ((s.wgOf c.wg).base + fldN a 0 20)) n = false

/-- Moves within the allotment, whose destinations neither meet each other nor a source: every destination takes its source's bytes, or the bytes given, and nothing else changes. -/
structure Moved (c : CopyOp) (ms : List Move) (s t : State) : Prop where
  done : ∀ m ∈ ms, ∀ i < m.n, t.spm.read (ownKey s c m.toward + i) =
    match m.from' with | some a => s.spm.read (ownKey s c a + i) | none => m.data.getD i 0
  rest : ∀ k, (∀ m ∈ ms, k < ownKey s c m.toward ∨ ownKey s c m.toward + m.n ≤ k) → t.spm.read k = s.spm.read k
  memory : t.mem = s.mem ∧ t.tags = s.tags ∧ t.acc = s.acc ∧ t.act = s.act

/-- Moves of an operation that Moved speaks of. -/
structure OwnMoves (s : State) (c : CopyOp) (ms : List Move) : Prop where
  sizes : ∀ m ∈ ms, m.n = 1 ∨ m.n = 2 ∨ m.n = 4 ∨ m.n = 8
  dests : ∀ m ∈ ms, OwnBytes s c m.n m.toward
  sources : ∀ m ∈ ms, ∀ a, m.from' = some a → OwnBytes s c m.n a
  datas : ∀ m ∈ ms, m.from' = none → m.data.length = m.n
  apart : ms.Pairwise fun m m' => ownKey s c m.toward + m.n ≤ ownKey s c m'.toward ∨ ownKey s c m'.toward + m'.n ≤ ownKey s c m.toward
  clear : ∀ m ∈ ms, ∀ m' ∈ ms, ∀ a, m'.from' = some a → ownKey s c m.toward + m.n ≤ ownKey s c a ∨ ownKey s c a + m'.n ≤ ownKey s c m.toward

/-- An operation that has not begun, of a group that is no shadow and is not screened. -/
structure Fresh (c : CopyOp) (s : State) : Prop where
  op : s.copy? c.id = some c ∧ c.id < s.nextId
  start : c.park = none ∧ c.moves = none ∧ c.got = [] ∧ c.raced = [] ∧ c.puts = none ∧ c.made = 0 ∧ c.acks = []
  waits : ∀ w ∈ s.engineWaits, w.1 ≠ c.id
  group : (s.grp c.gid).shadow = false ∧ (s.grp c.gid).screened = false

/-- The operation is over and counts complete (R219). -/
def CopyOver (c : CopyOp) (t : State) : Prop :=
  (∀ x ∈ t.copies, x.id ≠ c.id) ∧ ∀ q ∈ (t.grp c.gid).inflight, q.id = c.id → q.path = .cpy → q.done = true

/-- The chain goes on with its next entry (R227). -/
def NextEntry (c : CopyOp) (t : State) : Prop :=
  ∃ d, t.copy? c.id = some d ∧ d.entry = c.entry + 1 ∧ d.puts = none ∧ d.park = none ∧ d.a = c.a

/-- An entry of a chain that the engine reads without a change of the state. -/
structure AtEntry (c : CopyOp) (e : Entry) (s : State) : Prop where
  fresh : Fresh c s
  chain : c.kind = .chain ∧ c.entry < 8
  entry : s.chainEntry c = (s, .ok e)

/-- What an operation is over with: its last write, or that of its entry. -/
def WritesOver (c : CopyOp) (t : State) : Prop := if c.kind = .chain then NextEntry c t else CopyOver c t

/-- The event with which an operation goes on once it knows its moves or its writes. -/
def engineEvent (c : CopyOp) : Option Instr :=
  match c.kind with
  | .cpy | .tcpy | .gather | .scatter => some (.copyOpComplete c.id)
  | .chain =>
    match c.started with
    | 1 => some (.chainCopy c.id) | 2 => some (.chainFill c.id) | 3 => some (.chainTile c.id)
    | 6 => some (.chainGather c.id) | 7 => some (.chainScatter c.id) | _ => none
  | _ => none

/-- What a move writes, as its source stands: address and bytes. -/
def fetched (s : State) (c : CopyOp) (m : Move) : W64 × List Byte :=
  (m.toward, match m.from' with | some a => (List.range m.n).map fun i => s.spm.read (ownKey s c a + i) | none => m.data)

/-- Address and bytes of writes. -/
def written' (ps : List Put) : List (W64 × List Byte) := ps.map fun p => (p.toward, p.data)

/-- Writes within the allotment, whose destinations do not meet. -/
structure OwnWrites (s : State) (c : CopyOp) (ws : List (W64 × List Byte)) : Prop where
  sizes : ∀ w ∈ ws, w.2.length = 1 ∨ w.2.length = 2 ∨ w.2.length = 4 ∨ w.2.length = 8
  dests : ∀ w ∈ ws, OwnBytes s c w.2.length w.1
  apart : ws.Pairwise fun w x => ownKey s c w.1 + w.2.length ≤ ownKey s c x.1 ∨ ownKey s c x.1 + x.2.length ≤ ownKey s c w.1

/-- These writes are made, and no other byte changes. -/
structure WritesMade (c : CopyOp) (ws : List (W64 × List Byte)) (s t : State) : Prop where
  done : ∀ w ∈ ws, ∀ i < w.2.length, t.spm.read (ownKey s c w.1 + i) = w.2.getD i 0
  rest : ∀ k, (∀ w ∈ ws, k < ownKey s c w.1 ∨ ownKey s c w.1 + w.2.length ≤ k) → t.spm.read k = s.spm.read k
  memory : t.mem = s.mem ∧ t.tags = s.tags ∧ t.acc = s.acc ∧ t.act = s.act

/-- An operation in progress, of a group that is no shadow and is not screened: it waits for nothing, and its group has stored to none of its bytes. -/
structure Underway (c : CopyOp) (s : State) : Prop where
  op : s.copy? c.id = some c ∧ c.id < s.nextId
  free : c.park = none ∧ c.raced = [] ∧ c.acks = [] ∧ c.entry < 8
  waits : ∀ w ∈ s.engineWaits, w.1 ≠ c.id
  group : (s.grp c.gid).shadow = false ∧ (s.grp c.gid).screened = false

/-- The first k of the writes ps are made in all, of which m were before; with the last one the operation or the entry is over. -/
def WritesTo (c : CopyOp) (ps : List Put) (m k : Nat) (s t : State) : Prop :=
  WritesMade c ((written' ps).take k |>.drop m) s t ∧ (k = ps.length → WritesOver c t) ∧
    (k < ps.length → ∃ d, t.copy? c.id = some d ∧ d.puts = some ps ∧ d.made = k)

/-- What an entry of a chain moves (R227): COPY, FILL, TILE, GATHER, SCATTER. -/
def chainMoves (s : State) (c : CopyOp) (e : Entry) : Option (Instr × List Move) :=
  match e.op with
  | 1 => some (.chainCopy c.id, (List.range (e.count / 4)).map fun i =>
      { from' := some (e.from' + BitVec.ofNat 64 (4 * i)), toward := e.toward + BitVec.ofNat 64 (4 * i) })
  | 2 => some (.chainFill c.id, (List.range (e.count / 4)).map fun i =>
      { data := bytesOf 4 e.value, toward := e.toward + BitVec.ofNat 64 (4 * i) })
  | 3 => match s.planTile c e.from' e.toward e.value with | (_, .ok ms) => some (.chainTile c.id, ms) | _ => none
  | 6 => match s.planRows c e.toward e.from' e.value false with | (_, .ok ms) => some (.chainGather c.id, ms) | _ => none
  | 7 => match s.planRows c e.toward e.from' e.value true with | (_, .ok ms) => some (.chainScatter c.id, ms) | _ => none
  | _ => none

/-- Conditions on the count and the addresses of COPY and FILL (R221, R227), and on the count of TILE. -/
def countGood (e : Entry) : Prop :=
  match e.op with
  | 1 => e.count % 4 = 0 ∧ e.toward.toNat % 4 = 0 ∧ e.from'.toNat % 4 = 0
  | 2 => e.count % 4 = 0 ∧ e.toward.toNat % 4 = 0
  | 3 => e.count = 0
  | _ => True

/-- A plan is read without a change of the state. -/
def planStays (s : State) (c : CopyOp) (e : Entry) : Prop :=
  match e.op with
  | 3 => (s.planTile c e.from' e.toward e.value).1 = s
  | 6 => (s.planRows c e.toward e.from' e.value false).1 = s
  | 7 => (s.planRows c e.toward e.from' e.value true).1 = s
  | _ => True

/-- The result of an element of a reduction (R175): a NaN, or infinities of both signs, give a NaN; an infinity itself; else the exact sum in units of 2^-149, rounded once. -/
def SumCode (a : BitVec 320 × Bool × Bool × Bool) (c : Nat) : Prop :=
  if a.2.1 = true ∨ (a.2.2.1 = true ∧ a.2.2.2 = true) then c = 0x7FC00000
  else if a.2.2.1 = true then c = 0x7F800000
  else if a.2.2.2 = true then c = 0xFF800000
  else CodeOf fp32 .rne (if a.1.toInt = 0 then .zero false else .val a.1.toInt 1 (-149)) c

/-- An FP32 number in units of 2^-149 (R175). -/
def inUnits (x : Nat) : Int := units (-149) (fp32.value x)

end Sys2Proof.Claims

/-- R219, R318: a copy instruction begins one operation with its operands, counts it on CPY and goes on; with 63 counted it waits. -/
def Obligations.CopyInstructions : Prop :=
  ∀ (i : Instr) (s : State) (f : VForm) (k : CopyKind), copyOf i s = some (f, k) → selV f s ≠ 0 →
    (s.issuing = true → s.signed = true → s.G.count .cpy < 63 →
      ∃ t, exec i s = .next t ∧ Untouched [0x1F] s t ∧ NextWord s t ∧ Counts (one .cpy) s t ∧
        t.copies = s.copies ++ [{ id := s.nextId, gid := s.cur.1, kind := k, ctx := s.G.ctx, pc := s.S.pc, core := s.G.core, wg := s.G.wg
                                  a := aUni f s, b := bUni f s, c := cUni f s }]) ∧
    (63 ≤ s.G.count .cpy → exec i s = .next s.stall)

/-- R219, R221, R227: a CPY of whole words within an allotment reads its sources, then writes them in any order, each event taking one or more steps, and counts complete with the last; an END entry completes its chain; COPY, FILL, TILE, GATHER and SCATTER entries make their moves in the same way, one of a single move in one event; SIGNAL adds its value, WAITGE passes once its word is at least the value, and the chain goes on with the next entry. The model's own choices here: log 13. -/
def Obligations.CopyEngine : Prop :=
  (∀ (c : CopyOp) (s : State), Fresh c s → c.kind = .cpy → fldN c.c 32 32 = 0 → fldN c.c 0 32 % 4 = 0 → c.a.toNat % 4 = 0 → c.b.toNat % 4 = 0 →
    let ms : List Move := (List.range (fldN c.c 0 32 / 4)).map fun i =>
      { from' := some (c.b + BitVec.ofNat 64 (4 * i)), toward := c.a + BitVec.ofNat 64 (4 * i) }
    OwnMoves s c ms →
      (ms.length ≤ 1 → ∃ t, exec (.copyOpComplete c.id) s = .next t ∧ Moved c ms s t ∧ CopyOver c t) ∧
      (1 < ms.length → ∃ t k, exec (.copyOpComplete c.id) s = .next t ∧ 0 < k ∧ k ≤ ms.length ∧
        (k < ms.length → Moved c [] s t ∧ ∃ d, t.copy? c.id = some d ∧ d.moves = some ms ∧ d.puts = none ∧
          written' d.got = (ms.take k).map (fetched s c)) ∧
        (k = ms.length → ∃ ps n, (written' ps).Perm (ms.map (fetched s c)) ∧ 0 < n ∧ n ≤ ps.length ∧ WritesTo c ps 0 n s t))) ∧
  (∀ (c : CopyOp) (s : State) (i : Instr) (ms : List Move), Underway c s → engineEvent c = some i → c.puts = none → c.made = 0 → c.moves = some ms →
    c.got.length < ms.length → OwnMoves s c ms → (written' c.got).map (·.1) = (ms.take c.got.length).map (·.toward) →
    (∀ p ∈ c.got, ∀ m ∈ ms, m.toward = p.toward → p.data.length = m.n ∧ p.release = false) →
    ∃ t k, exec i s = .next t ∧ c.got.length < k ∧ k ≤ ms.length ∧
      (k < ms.length → Moved c [] s t ∧ ∃ d, t.copy? c.id = some d ∧ d.moves = some ms ∧ d.puts = none ∧
        written' d.got = written' c.got ++ ((ms.take k).drop c.got.length).map (fetched s c)) ∧
      (k = ms.length → ∃ ps n, (written' ps).Perm (written' c.got ++ (ms.drop c.got.length).map (fetched s c)) ∧ 0 < n ∧ n ≤ ps.length ∧
        WritesTo c ps 0 n s t)) ∧
  (∀ (c : CopyOp) (s : State) (i : Instr) (ps : List Put), Underway c s → engineEvent c = some i → c.puts = some ps → c.made < ps.length →
    OwnWrites s c (written' ps) → (∀ p ∈ ps, p.release = false) →
    ∃ t k, exec i s = .next t ∧ c.made < k ∧ k ≤ ps.length ∧ WritesTo c ps c.made k s t) ∧
  (∀ (c : CopyOp) (e : Entry) (s : State), AtEntry c e s → e.op = 0 → ∃ t, exec (.chainEnd c.id) s = .next t ∧ CopyOver c t ∧ Moved c [] s t) ∧
  (∀ (c : CopyOp) (e : Entry) (s : State) (i : Instr) (ms : List Move), AtEntry c e s → countGood e → planStays s c e →
    chainMoves s c e = some (i, ms) → OwnMoves s c ms →
      (ms.length ≤ 1 → ∃ t, exec i s = .next t ∧ Moved c ms s t ∧ NextEntry c t) ∧
      (1 < ms.length → ∃ t k, exec i s = .next t ∧ 0 < k ∧ k ≤ ms.length ∧
        (k < ms.length → Moved c [] s t ∧ ∃ d, t.copy? c.id = some d ∧ d.started = e.op ∧ d.moves = some ms ∧ d.puts = none ∧
          written' d.got = (ms.take k).map (fetched s c)) ∧
        (k = ms.length → ∃ ps n, (written' ps).Perm (ms.map (fetched s c)) ∧ 0 < n ∧ n ≤ ps.length ∧ WritesTo c ps 0 n s t))) ∧
  (∀ (c : CopyOp) (e : Entry) (s : State), AtEntry c e s → e.op = 4 → OwnBytes s c 4 e.toward →
    ∃ t, exec (.chainSignal c.id) s = .next t ∧ NextEntry c t ∧
      t.spm.num (ownKey s c e.toward) 4 = (s.spm.num (ownKey s c e.toward) 4 + fldN e.value 0 32) % 2 ^ 32 ∧
      ∀ k, k < ownKey s c e.toward ∨ ownKey s c e.toward + 4 ≤ k → t.spm.read k = s.spm.read k) ∧
  (∀ (c : CopyOp) (e : Entry) (s : State), AtEntry c e s → e.op = 5 → OwnBytes s c 4 e.from' → Unmarked s c 4 e.from' →
    ∃ t, exec (.chainWaitge c.id) s = .next t ∧ Moved c [] s t ∧
      (fldN e.value 0 32 ≤ s.spm.num (ownKey s c e.from') 4 → NextEntry c t ∧ t.l1 = s.l1.filter (·.core != c.core)) ∧
      (s.spm.num (ownKey s c e.from') 4 < fldN e.value 0 32 → t.l1 = s.l1 ∧ ∃ d, t.copy? c.id = some d ∧ d.entry = c.entry))

/-- R175, R228, R229: NRSET opens its reduction; an accepted contribution adds every element exactly, in any order, and notes a NaN or an infinity; the last one starts the root's writes: the exact sum of each element, rounded once, at the element's place in RESULT, and at the end, with a release, an add of 1 at DONE, if there is one. -/
def Obligations.NetworkReductions : Prop :=
  (∀ (c : CopyOp) (r : Nat) (s : State), Fresh c s → c.kind = .nrset → s.engineRecord c c.a 32 32 false = (s, .ok r) → recN r 184 72 = 0 →
    1 ≤ recN r 128 32 → recN r 128 32 ≤ 65535 → 1 ≤ recN r 160 16 → recN r 160 16 ≤ 2048 → (∀ x ∈ s.reductions, x.id ≠ recN r 176 8) →
    copyWin (BitVec.ofNat 64 (recN r 0 64)) = 0 →
    ∃ t x, exec (.copyOpComplete c.id) s = .next t ∧ CopyOver c t ∧ t.reductions = s.reductions ++ [x] ∧ x.id = recN r 176 8 ∧ x.ctx = c.ctx ∧
      x.result = BitVec.ofNat 64 (recN r 0 64) ∧ x.doneAt = BitVec.ofNat 64 (recN r 64 64) ∧ x.ncont = recN r 128 32 ∧ x.nelem = recN r 160 16 ∧
      x.accepted = 0 ∧ x.sums = List.replicate x.nelem (0, false, false, false)) ∧
  (∀ (c : CopyOp) (r : Reduction) (s : State), Fresh c s → c.kind = .nred → fldN c.a 8 56 = 0 →
    (s.reductions.filter fun x => x.id == fldN c.a 0 8) = [r] → r.ctx = c.ctx → r.accepted < r.ncont → r.sums.length = r.nelem →
    (∀ i < r.nelem, OwnBytes s c 4 (c.b + BitVec.ofNat 64 (4 * i)) ∧ Unmarked s c 4 (c.b + BitVec.ofNat 64 (4 * i))) →
    ∃ t q, exec (.nredAccept c.id) s = .next t ∧ Moved c [] s t ∧ CopyOver c t ∧ q ∈ t.reductions ∧ q.id = r.id ∧ q.accepted = r.accepted + 1 ∧
      (∀ i < r.nelem, ∀ x a, x = s.spm.num (ownKey s c (c.b + BitVec.ofNat 64 (4 * i))) 4 → a = r.sums.getD i (0, false, false, false) →
        (finite fp32 x = true → q.sums.getD i (0, false, false, false) = (a.1 + BitVec.ofInt 320 (inUnits x), a.2)) ∧
        (fp32.value x = .nan → q.sums.getD i (0, false, false, false) = (a.1, true, a.2.2)) ∧
        (fp32.value x = .inf false → q.sums.getD i (0, false, false, false) = (a.1, a.2.1, true, a.2.2.2)) ∧
        (fp32.value x = .inf true → q.sums.getD i (0, false, false, false) = (a.1, a.2.1, a.2.2.1, true))) ∧
      (q.accepted = r.ncont → ∃ d ∈ t.copies, d.kind = .nred ∧ d.puts = some q.puts)) ∧
  (∀ (x : BitVec 320), CodeOf fp32 .rne (if x.toInt = 0 then .zero false else .val x.toInt 1 (-149)) (exactResult (x, false, false, false))) ∧
  (∀ r : Reduction, r.puts.length = r.sums.length + (if r.doneAt = 0 then 0 else 1) ∧
    (r.doneAt ≠ 0 → r.puts.getLast? = some { toward := withWin r.doneAt 2, data := bytesOf 4 (1 : W32), release := true }) ∧
    ∀ i < r.sums.length, ∃ code, r.puts[i]? = some { toward := r.result + BitVec.ofNat 64 (4 * i), data := bytesOf 4 (BitVec.ofNat 32 code) } ∧
      SumCode (r.sums.getD i (0, false, false, false)) code)

/-! ### The Lathe -/

namespace Sys2Proof.Claims

/-- The kind of a team instruction. -/
def teamOf : Instr → Option (VForm × LatheKind)
  | .mma f => some (f, .mma)
  | .pmma f => some (f, .pmma)
  | .smma f => some (f, .smma)
  | _ => none

/-- The register that A names. -/
def aBase (f : VForm) : Nat := match f.a with | .v r => r.toNat | _ => 0

/-- The accumulator word that D names (R231): an s register, or a band word at columns 32 k and rows 64 r. -/
def accWordOf (f : VForm) (s : State) : W64 :=
  if bitAt f.d 7 then BitVec.ofNat 64 (64 * (f.d.toNat / 32 % 4) + 2 ^ 8 * (32 * (f.d.toNat % 32))) else s.G.sreg s.cur.2 (f.d.toNat % 64)

/-- The matrix engine takes the group's instruction (R240, R244, R263): no fault is due, the group is not in trap mode, and MTX has room. -/
def LatheOpen (s : State) : Prop := s.G.mtxFault = none ∧ s.G.trapm = false ∧ s.G.strip = false ∧ s.G.count .mtx < 63

/-- A region lies in the 256 rows and the 544 columns of the store, and no other workgroup holds its bands (R232, R233). -/
def RegionFree (s : State) (row rows col cols : Nat) : Prop :=
  row + rows ≤ 256 ∧ col + cols ≤ 544 ∧ ∀ b < 17, col / 32 ≤ b → b ≤ (col + cols - 1) / 32 →
    SMap.get 0 s.bands (32 * s.G.core + b) = 0 ∨ SMap.get 0 s.bands (32 * s.G.core + b) = s.G.wg

/-- The bands of a region are the workgroup's. -/
def Claimed (s t : State) (col cols : Nat) : Prop :=
  ∀ b < 17, col / 32 ≤ b → b ≤ (col + cols - 1) / 32 → SMap.get 0 t.bands (32 * s.G.core + b) = s.G.wg

/-- The group goes on, and nothing outside it changes but the Lathe's own state and accumulator words. -/
structure LatheIssued (s t : State) : Prop where
  registers : Registers [0x1F] s t
  count : Counts (one .mtx) s t
  bytes : ∀ l n, t.readLoc l n = s.readLoc l n
  rest : t.tags = s.tags ∧ t.act = s.act ∧ ∀ g, g ≠ s.cur.1 → t.grp g = s.grp g

/-- The registers that ACCLD and ACCST name, and the columns (R246). -/
def moveOf : Instr → Option (VForm × LatheKind)
  | .accld f => some (f, .accld)
  | .accst f => some (f, .accst)
  | _ => none

/-- Only the words of a region of an accumulator store may change. -/
def OnlyRegion (core row rows col cols : Nat) (s t : State) : Prop :=
  ∀ c r k, r < 256 → k < 1024 → (c ≠ core ∨ r < row ∨ row + rows ≤ r ∨ k < col ∨ col + cols ≤ k) → t.accWord c r k = s.accWord c r k

/-- An operation of the accumulator port whose turn it is, with no operation of the Lathe in flight, and no poison mark in the store. -/
structure PortTurn (o : LatheOp) (s : State) : Prop where
  only : s.lathe = [o]
  rows : accRow o.acc + (if o.kind = .accz then o.n1 else 64) ≤ 256 ∧ accCol o.acc + o.n2 ≤ 1024
  group : (s.group? o.gid).isSome = true ∧ (s.grp o.gid).restarting = false
  unmarked : s.accPoison = []

/-- The operation is over: it has left, and its counts are done (R243). -/
def LatheOver (o : LatheOp) (gs : List Nat) (t : State) : Prop :=
  (∀ x ∈ t.lathe, x.id ≠ o.id) ∧ ∀ g ∈ gs, ∀ q ∈ (t.grp g).inflight, q.id = o.id → q.path = .mtx → q.done = true

/-- A command of a ring that can go on: the ring is its core's, has the command in hand, and nothing parks or stops it. -/
structure InHand (core : Nat) (r : Ring) (c : BitVec 512) (op : Nat) (s : State) : Prop where
  ring : s.rings = [r] ∧ r.core = core
  cmd : r.cmd = some c ∧ r.park = none ∧ r.stopAsked = false ∧ r.out = none ∧ r.failed = none
  op : cmdOp c = op ∧ cmdBad c = false

/-- The ring goes on with its next command (R255, R260). -/
def NextCommand (r : Ring) (t : State) : Prop :=
  ∃ q, t.rings = [q] ∧ q.num = r.num + 1 ∧ q.iter = 0 ∧ q.cmd = none ∧ q.state = .running

/-- The next iteration of a command, or its next command (R259). -/
def NextIteration (r : Ring) (c : BitVec 512) (t : State) : Prop :=
  match nextIter c r.iter with
  | some v => ∃ q, t.rings = [q] ∧ q.num = r.num ∧ q.iter = v ∧ q.cmd = some c
  | none => NextCommand r t

/-- The order of the iterations (R259): level 0 is innermost, every level runs from 0 to its bound. -/
def IterAfter (c : BitVec 512) (v w : W64) : Prop :=
  ∃ k < 5, iterAt v k < boundAt c k ∧ (∀ j < k, boundAt c j ≤ iterAt v j ∧ iterAt w j = 0) ∧ iterAt w k = iterAt v k + 1 ∧
    (∀ j < 5, k < j → iterAt w j = iterAt v j) ∧ fldN w 60 4 = 0

/-- The code of element i of a block of n elements of width w that x holds (R168, R169). -/
def codeAt (w n i x : Nat) : Nat :=
  match w with
  | 7 => x / 2 ^ (4 * i) % 16 + 16 * (x / 2 ^ (4 * n + 2 * i) % 4) + 64 * (x / 2 ^ (6 * n + i) % 2)
  | 6 => x / 2 ^ (4 * i) % 16 + 16 * (x / 2 ^ (4 * n + 2 * i) % 4)
  | 5 => x / 2 ^ (4 * i) % 16 + 16 * (x / 2 ^ (4 * n + i) % 2)
  | 3 => x / 2 ^ (2 * i) % 4 + 4 * (x / 2 ^ (2 * n + i) % 2)
  | w => x / 2 ^ (w * i) % 2 ^ w

/-- The operands of a team operation on a core, none of whose members has an unfenced store (R237 to R239): the A words of the rows of its members, B, the scales and the metadata from the allotment. -/
structure OperandsOf (s : State) (o : LatheOp) (core : Nat) (m : MatSrc) : Prop where
  shape : m.f = fmtOf o.fmt ∧ m.k = fldN o.bdesc 29 11
  a : ∀ r c, (∀ i < (m.f.aBytes + 3) / 4, o.adata.any (·.1 == 64 * r + c * ((m.f.aBytes + 3) / 4) + i) = true) →
    ∀ j < (m.f.aBytes + 3) / 4, m.aBlock r c / 2 ^ (32 * j) % 2 ^ 32 = (SMap.get 0 o.adata (64 * r + c * ((m.f.aBytes + 3) / 4) + j)).toNat
  aScale : ∀ r c, m.aScale r c = if scaled m.f.afmt = false then 127 else if fldN o.scale 0 20 = 0 then 0x7F
    else s.spm.num (spmKey o.core ((s.wgOf o.wg).base + (fldN o.scale 0 20 + r * (m.k / m.f.len) + c))) 1
  mask : ∀ r c, m.meta' r c = s.spm.num (spmKey o.core ((s.wgOf o.wg).base + (fldN o.scale 40 20 + 8 * (r * (m.k / 48) + c)))) 8
  b : ∀ n j, m.bElt n j =
    if m.f.bt then s.spm.num (spmKey core ((s.wgOf o.wg).base + (fldN o.bdesc 0 20 + j * fldN o.bdesc 40 16 + n * eltWidth m.f.bfmt / 8))) (eltWidth m.f.bfmt / 8)
    else codeAt (eltWidth m.f.bfmt) m.f.len (j % m.f.len)
      (s.spm.num (spmKey core ((s.wgOf o.wg).base + (fldN o.bdesc 0 20 + n * fldN o.bdesc 40 16 + j / m.f.len * m.f.bBytes))) m.f.bBytes)
  bScale : ∀ n c, m.bScale n c = if scaled m.f.bfmt = false then 127 else if fldN o.scale 20 20 = 0 then 0x7F
    else s.spm.num (spmKey core ((s.wgOf o.wg).base + (fldN o.scale 20 20 +
      if m.f.bt then c * fldN o.bdesc 20 9 + n else (n * fldN o.bdesc 40 16 + c * m.f.bBytes) / m.f.bBytes))) 1

/-- What a drain computes of element (r, n), by the stages that its control word enables (R249): scale, bias, activation, clamp. -/
def StageValue (s : State) (j : Job) (r n y : Nat) : Prop :=
  let value (a : Int) : Fp := fp32.value (s.spm.num (spmKey j.core ((s.wgOf j.wg).base + a.toNat)) 4)
  let sc : Int := recN j.desc 352 32 + 4 * (match fldN j.cw 6 2 with | 0 => 0 | 1 => (r : Int) | _ => n + j.dcol)
  let bi : Int := recN j.desc 384 32 + 4 * (if bitAt j.cw 8 then (r : Int) else n + j.dcol)
  ∃ x0 x1 x2 x3 : Nat, x0 = (s.accWord j.core (j.row + r) (j.col.toNat + n)).toNat ∧
    (if bitAt j.cw 0 then CodeOf fp32 .rne (exactOf (mulFp (fp32.value x0) (value sc))) x1 else x1 = x0) ∧
    (if bitAt j.cw 1 then CodeOf fp32 .rne (exactSum .rne (fp32.value x1) (value bi)) x2 else x2 = x1) ∧
    (if bitAt j.cw 2 then Activation s j.core j.bank (BitVec.ofNat 32 x2) x3 else x3 = x2) ∧
    (if bitAt j.cw 3 then ∃ m, MinMax fp32 false x3 (recN j.desc 416 32) m ∧ MinMax fp32 true m (recN j.desc 448 32) y else y = x3)

/-- The rounding of draw k of a drain (R127, R248, R249). -/
def drainRounding (j : Job) (k : Nat) : Rnd :=
  match fldN j.cw 20 3 with
  | 0 => .rne | 1 => .rz | 2 => .ru | 3 => .rd
  | _ => .srnd (fldN ((j.seed + BitVec.ofNat 64 k) * 0x9E3779B97F4A7C15) 32 32)

/-- The element q that the convert stage makes of y under scale byte sc (R173, R174). What NaN and the infinities become in KB and MXINT8 is the model's choice (log 107). -/
def ConvertedTo (j : Job) (fmt : Nat) (rnd : Rnd) (sc : Nat) (zeros : Bool) (y q : Nat) : Prop :=
  if fmt = 15 then q = y
  else if sc = 0xFF ∨ (bitAt j.cw 19 = true ∧ zeros = true) then q = 0
  else match fp32.value y with
    | .fin n m e => Element fmt rnd (bitAt j.cw 23) n m (e + (127 - (sc : Int))) q
    | .nan => q = match fmt with | 0 => 0x7F | 1 => 0x7E | 5 => 0x7FC0 | 6 => 0x7E00 | _ => 0
    | .inf n => match eltOf fmt with
      | .float t _ => q = if fmt = 0 then 0x7F else (if n then 2 ^ t.mag else 0) +
          match fmt with | 1 => 0x7C | 5 => 0x7F80 | 6 => 0x7C00 | _ => t.top
      | .int w _ => (q : Int) = (if n then -(2 ^ (w - 1)) else 2 ^ (w - 1) - 1 : Int) % 2 ^ w

/-- One output of a drain: the tile, or with trans the transposed copy (R249). -/
structure Output where
  trans : Bool
  fmt : Nat
  base : W64
  scales : W64
  pitch : Nat
  lines : Nat
  len : Nat
  shift : Int

/-- The outputs that a control word asks for. -/
def outputsOf (j : Job) : List Output :=
  let bb (fmt : Nat) : Nat := blockLen (fldN j.cw 17 2) * eltWidth fmt / 8
  let copy (k : Nat) : W64 := BitVec.ofNat 64 (recN j.desc (64 * k) 64)
  let rows := recN j.desc 320 16
  let cols := recN j.desc 336 16
  { trans := false, fmt := fldN j.cw 9 4, base := copy 0, scales := copy 2, pitch := recN j.desc 256 32, lines := rows, len := cols
    shift := j.dout * bb (fldN j.cw 9 4) } ::
  if bitAt j.cw 5 then [{ trans := true, fmt := fldN j.cw 13 4, base := copy 1, scales := copy 3, pitch := recN j.desc 288 32, lines := cols, len := rows
                          shift := j.dtout * bb (fldN j.cw 13 4) }] else []

/-- Address of line i, and of its first scale byte, for blocks of bb bytes (R238, R249). -/
def Output.line (o : Output) (i : Nat) : W64 := o.base + BitVec.ofInt 64 (o.shift + ((i * o.pitch : Nat) : Int))
@[inherit_doc Output.line] def Output.scaleLine (o : Output) (bb i : Nat) : W64 := o.scales + BitVec.ofInt 64 ((o.shift + ((i * o.pitch : Nat) : Int)) / bb)

/-- What an engine's operation of a job names by SELF. -/
def engineOf (j : Job) : CopyOp := { core := j.core, wg := j.wg }

/-- n bytes from a copy address lie in the job's allotment, one after the other. -/
def OwnRange (s : State) (j : Job) (a : W64) (n : Nat) : Prop :=
  ∀ x < n, OwnBytes s (engineOf j) 1 (a + BitVec.ofNat 64 x) ∧ ownKey s (engineOf j) (a + BitVec.ofNat 64 x) = ownKey s (engineOf j) a + x

/-- The bytes of a scratchpad that the outputs take: first key and length. -/
def drainRanges (s : State) (j : Job) : List (Nat × Nat) :=
  let l := blockLen (fldN j.cw 17 2)
  ((outputsOf j).map fun o =>
    ((List.range o.lines).map fun i => (ownKey s (engineOf j) (o.line i), o.len * eltWidth o.fmt / 8)) ++
    if scaled o.fmt then (List.range o.lines).map fun i => (ownKey s (engineOf j) (o.scaleLine (l * eltWidth o.fmt / 8) i), o.len / l) else []).flatten

/-- The outputs of a drain lie in its allotment, aligned, in whole blocks, and meet neither each other nor the bytes given; nothing is unfenced. -/
structure DrainFits (s : State) (j : Job) (beside : List (Nat × Nat)) : Prop where
  fenced : j.old = []
  lines : ∀ o ∈ outputsOf j, ∀ i < o.lines, OwnRange s j (o.line i) (o.len * eltWidth o.fmt / 8) ∧
    (8 ≤ eltWidth o.fmt → (o.line i).toNat % (eltWidth o.fmt / 8) = 0)
  blocks : ∀ o ∈ outputsOf j, scaled o.fmt = true → o.len % blockLen (fldN j.cw 17 2) = 0 ∧
    ∀ i < o.lines, OwnRange s j (o.scaleLine (blockLen (fldN j.cw 17 2) * eltWidth o.fmt / 8) i) (o.len / blockLen (fldN j.cw 17 2))
  apart : (drainRanges s j ++ beside).Pairwise fun a b => a.1 + a.2 ≤ b.1 ∨ b.1 + b.2 ≤ a.1
  store : j.row + j.rows ≤ 256 ∧ 0 ≤ j.col ∧ j.col.toNat + j.cols ≤ 1024

/-- Element n of line i of an output holds q (R168, R169). -/
def Held (s t : State) (j : Job) (o : Output) (i n q : Nat) : Prop :=
  let l := blockLen (fldN j.cw 17 2)
  let w := eltWidth o.fmt
  if 8 ≤ w then t.spm.num (ownKey s (engineOf j) (o.line i) + n * w / 8) (w / 8) = q
  else codeAt w l (n % l) (t.spm.num (ownKey s (engineOf j) (o.line i) + n / l * (l * w / 8)) (l * w / 8)) = q

/-- What a drain leaves (R173, R174, R238, R247 to R250): every output element is the converted stage value, every scale byte that of its block, or 0x7F; with INIT the region is zero; SR_DRAINST only gathers; no other byte of memory or scratchpad changes but those given, and no other accumulator word. -/
structure Drained (s t : State) (j : Job) (beside : List (Nat × Nat)) : Prop where
  outputs : ∃ y : Nat → Nat → Nat, (∀ r < j.rows, ∀ n < j.cols, StageValue s j r n (y r n)) ∧
    ∀ o ∈ outputsOf j,
      let l := blockLen (fldN j.cw 17 2)
      let at' (i n : Nat) : Nat := if o.trans then y n i else y i n
      let block (i n : Nat) : List Nat := (List.range (min l (o.len - n / l * l))).map fun x => at' i (n / l * l + x)
      ∃ sc : Nat → Nat → Nat,
        (∀ i < o.lines, ∀ n < o.len, (if bitAt j.cw 19 then ScaleByte o.fmt ((block i n).map fp32.value) (sc i (n / l)) else sc i (n / l) = 0x7F) ∧
          (scaled o.fmt = true → t.spm.num (ownKey s (engineOf j) (o.scaleLine (l * eltWidth o.fmt / 8) i) + n / l) 1 = sc i (n / l))) ∧
        ∀ i < o.lines, ∀ n < o.len, ∃ q, Held s t j o i n q ∧
          ConvertedTo j o.fmt (drainRounding j (if o.trans then n * j.cols + i else i * j.cols + n)) (sc i (n / l))
            ((block i n).all fun c => c % 2 ^ 31 == 0) (at' i n) q
  region : ∀ r < j.rows, ∀ n < j.cols, t.accWord j.core (j.row + r) (j.col.toNat + n) =
    if j.init then 0 else s.accWord j.core (j.row + r) (j.col.toNat + n)
  acc : OnlyRegion j.core j.row j.rows j.col.toNat j.cols s t
  spm : ∀ k, (∀ a ∈ drainRanges s j ++ beside, k < a.1 ∨ a.1 + a.2 ≤ k) → t.spm.read k = s.spm.read k
  mem : t.mem = s.mem ∧ t.act = s.act
  status : (t.grp j.gid).drainst &&& (s.grp j.gid).drainst = (s.grp j.gid).drainst ∧
    ∀ i, 3 ≤ i → bitAt (t.grp j.gid).drainst i = bitAt (s.grp j.gid).drainst i

end Sys2Proof.Claims

/-- R230, R231, R234, R240: MMA, PMMA and SMMA whose operands pass the checks arrive at their team's operation, count on MTX and go on; a group alone in its team makes the operation ready. A reserved format raises MXFLT with BADFMT, a K of 0 with SHAPE. The model's own choices here: log 14. -/
def Obligations.TeamInstructions : Prop :=
  (∀ (i : Instr) (f : VForm) (k : LatheKind) (s : State), teamOf i = some (f, k) → s.issuing = true → s.signed = true → LatheOpen s →
    s.lathe = [] → s.rings = [] → s.G.teamIdx = 0 →
    s.mmaCheck k (aBase f) (accWordOf f s) (bUni f s) (s.G.sreg s.cur.2 (srcS f.c)) (s.G.sreg s.cur.2 (srcS f.c + 1)) = none →
    ∃ t o, exec i s = .next t ∧ LatheIssued s t ∧ t.lathe = [o] ∧ o.kind = k ∧ o.core = s.G.core ∧ o.wg = s.G.wg ∧ o.gid = s.cur.1 ∧
      o.acc = accWordOf f s ∧ o.bdesc = bUni f s ∧ o.fmt = s.G.sreg s.cur.2 (srcS f.c) ∧ o.scale = s.G.sreg s.cur.2 (srcS f.c + 1) ∧
      o.reuse = bitAt f.md 10 ∧ o.members.map (fun a => (a.gid, a.idx, a.mask, a.areg)) = [(s.cur.1, 0, selV f s, aBase f)] ∧
      o.started = false ∧ Claimed s t (accCol (accWordOf f s)) (min (bN (bUni f s)) 192) ∧
      (o.order.isSome = true ↔ ∀ g ∈ s.groups, g.wg = s.G.wg → g.ginwg / g.teamSize = s.G.ginwg / s.G.teamSize → g.ended = false →
        g.gid = s.cur.1)) ∧
  (∀ (i : Instr) (f : VForm) (k : LatheKind) (s : State), teamOf i = some (f, k) → s.canTrap = true → LatheOpen s →
    (fldN (s.G.sreg s.cur.2 (srcS f.c)) 0 4 = 15 ∨ fldN (s.G.sreg s.cur.2 (srcS f.c)) 4 4 = 15 → TrapsWith i s .mxflt (selV f s) 1) ∧
    (fmtBad (k == .smma) (s.G.sreg s.cur.2 (srcS f.c)) = false → fldN (bUni f s) 29 11 = 0 → TrapsWith i s .mxflt (selV f s) 2))

/-- R231, R233, R240, R246: ACCLD, ACCST and ACCZ within the store and its bands claim the bands, begin one move, which for ACCST takes the registers of the selected lanes as they are, count on MTX and go on; at their turn the port moves the registers of the selected lanes from or into the region's rows, or writes zeros, and changes nothing else. -/
def Obligations.AccumulatorMoves : Prop :=
  (∀ (i : Instr) (f : VForm) (k : LatheKind) (s : State) (n : Nat), moveOf i = some (f, k) → s.issuing = true → s.signed = true → selV f s ≠ 0 →
    LatheOpen s → (bUni f s).toInt = n → n = 1 ∨ n = 2 ∨ n = 4 ∨ n = 8 ∨ n = 16 ∨ n = 32 → aBase f % n = 0 → aBase f + n ≤ 16 * s.G.nblk →
    fldN (accWordOf f s) 18 46 = 0 → RegionFree s (accRow (accWordOf f s)) 64 (accCol (accWordOf f s)) n →
    ∃ t o, exec i s = .next t ∧ LatheIssued s t ∧ t.lathe = s.lathe ++ [o] ∧ o.kind = k ∧ o.acc = accWordOf f s ∧ o.n1 = aBase f ∧ o.n2 = n ∧
      o.mask = selV f s ∧ o.gid = s.cur.1 ∧ o.core = s.G.core ∧ Claimed s t (accCol (accWordOf f s)) n ∧
      (k = .accst → ∀ l < 64, bitAt (selV f s) l = true → ∀ j < n, SMap.get 0 o.adata (64 * l + j) = s.src32 (.v (BitVec.ofNat 8 (aBase f + j))) l)) ∧
  (∀ (f : VForm) (s : State), s.issuing = true → s.signed = true → selV f s ≠ 0 → LatheOpen s → 1 ≤ (aUni f s).toNat → 1 ≤ (bUni f s).toNat →
    fldN (accWordOf f s) 18 46 = 0 → RegionFree s (accRow (accWordOf f s)) (aUni f s).toNat (accCol (accWordOf f s)) (bUni f s).toNat →
    ∃ t o, exec (.accz f) s = .next t ∧ LatheIssued s t ∧ t.lathe = s.lathe ++ [o] ∧ o.kind = .accz ∧ o.acc = accWordOf f s ∧
      o.n1 = (aUni f s).toNat ∧ o.n2 = (bUni f s).toNat ∧ o.gid = s.cur.1 ∧ o.core = s.G.core) ∧
  (∀ (o : LatheOp) (s : State), PortTurn o s →
    (o.kind = .accld → o.n1 + o.n2 ≤ 16 * (s.grp o.gid).nblk → o.n1 + o.n2 ≤ o.cut → ∃ t, exec (.accumulatorPortComplete o.id) s = .next t ∧ LatheOver o [o.gid] t ∧
      t.acc = s.acc ∧ (t.grp o.gid).s = (s.grp o.gid).s ∧ ∀ r l, l < 64 → (t.grp o.gid).vreg r l =
        if bitAt o.mask l = true ∧ o.n1 ≤ r ∧ r < o.n1 + o.n2 then s.accWord o.core (accRow o.acc + l) (accCol o.acc + (r - o.n1)) else (s.grp o.gid).vreg r l) ∧
    (o.kind = .accst → ∃ t, exec (.accumulatorPortComplete o.id) s = .next t ∧ LatheOver o [o.gid] t ∧ (t.grp o.gid).v = (s.grp o.gid).v ∧
      (∀ l < 64, bitAt o.mask l = true → ∀ j < o.n2, t.accWord o.core (accRow o.acc + l) (accCol o.acc + j) = SMap.get 0 o.adata (64 * l + j)) ∧
      OnlyRegion o.core (accRow o.acc) 64 (accCol o.acc) o.n2 s t) ∧
    (o.kind = .accz → ∃ t, exec (.accumulatorPortComplete o.id) s = .next t ∧ LatheOver o [o.gid] t ∧ (t.grp o.gid).v = (s.grp o.gid).v ∧
      (∀ i < o.n1, ∀ j < o.n2, t.accWord o.core (accRow o.acc + i) (accCol o.acc + j) = 0) ∧
      OnlyRegion o.core (accRow o.acc) o.n1 (accCol o.acc) o.n2 s t))

/-- R173, R174, R240, R244, R247 to R250, R252, R262: DRAIN with a good control word is ready at once; it starts on the descriptor that it finds in its workgroup's allotment, and completes with its outputs, scale bytes and region as the rules give; ATLOAD begins a load of its table and ATSWAP, with no load before it, swaps the banks; MSUSP saves the handler strip in its save area, where it changes no other byte, and takes it, MRES restores it and gives it back. The model's own choices here: log 38. -/
def Obligations.DrainBanksStrip : Prop :=
  (∀ (f : VForm) (s : State), s.issuing = true → s.signed = true → selV f s ≠ 0 → LatheOpen s → fldN (accWordOf f s) 19 45 = 0 →
    cwBad (aUni f s) = false → ∃ t o, exec (.drain f) s = .next t ∧ LatheIssued s t ∧ t.acc = s.acc ∧ t.lathe = s.lathe ++ [o] ∧ o.kind = .drain ∧
      o.acc = accWordOf f s ∧ o.fmt = aUni f s ∧ o.bdesc = bUni f s ∧ o.gid = s.cur.1 ∧ o.order.isSome = true ∧ o.started = false) ∧
  (∀ (f : VForm) (s : State), s.canTrap = true → selV f s ≠ 0 → LatheOpen s → fldN (accWordOf f s) 19 45 = 0 → cwBad (aUni f s) = true →
    TrapsWith (.drain f) s .mxflt (selV f s) 7) ∧
  (∀ (o : LatheOp) (d : Nat) (s : State), s.latheOp? o.id = some o → s.mayStart o = true → o.kind = .drain → o.bdesc.toNat < 2 ^ 32 →
    s.ownRecord o.core o.wg o.ctx o.bdesc.toNat = some d → s.unmarked = true →
    let p : LatheOp := { o with desc := d, bank := s.activeBank o.core, n1 := recN d 320 16, n2 := recN d 336 16 }
    s.drainCheck p.job = none → ∃ t, exec (.latheOpStart o.id) s = .next t ∧
      t.latheOp? o.id = some { p with started := true, seed := if fldN o.fmt 20 3 = 4 then nextSeed (s.grp o.gid).seed else 0 } ∧
      ((s.group? o.gid).isSome = true → (t.grp o.gid).seed = if fldN o.fmt 20 3 = 4 then nextSeed (s.grp o.gid).seed else (s.grp o.gid).seed) ∧
      t.mem = s.mem ∧ t.spm = s.spm) ∧
  (∀ (o : LatheOp) (s : State), s.latheOp? o.id = some o → o.kind = .drain → o.started = true → s.behind o = false → o.spoiled = false →
    o.out = none ∧ o.failed = none ∧ o.park = none → s.unmarked = true → cwBad o.fmt = false → DrainFits s o.job [] →
    (s.grp o.gid).screened = false ∧ (s.grp o.gid).shadow = false → (∀ w ∈ s.engineWaits, w.1 ≠ o.id) →
    ∃ t, exec (.latheOpComplete o.id) s = .next t ∧ LatheOver o [o.gid] t ∧ Drained s t o.job []) ∧
  (∀ (f : VForm) (s : State) (core off : Nat), s.issuing = true → s.signed = true → selV f s ≠ 0 → LatheOpen s → s.lathe = [] →
    s.reach s.G.core s.G.wg s.G.ctx (aUni f s).toNat 4096 64 = some (core, off) →
    ∃ t o, exec (.atload f) s = .next t ∧ LatheIssued s t ∧ t.acc = s.acc ∧ t.actBank = s.actBank ∧ t.lathe = [o] ∧ o.kind = .atload ∧
      o.n1 = core ∧ o.n2 = off ∧ o.core = s.G.core) ∧
  (∀ (f : VForm) (s : State), s.canTrap = true → selV f s ≠ 0 → LatheOpen s → s.reach s.G.core s.G.wg s.G.ctx (aUni f s).toNat 4096 64 = none →
    TrapsWith (.atload f) s .mxflt (selV f s) 5) ∧
  (∀ (f : VForm) (s : State), s.issuing = true → s.signed = true → selV f s ≠ 0 → LatheOpen s → s.lathe = [] →
    ∃ t, exec (.atswap f) s = .next t ∧ Registers [0x1F] s t ∧ t.acc = s.acc ∧ t.act = s.act ∧ t.lathe = [] ∧
      SMap.get 0 t.actBank s.G.core = 1 - SMap.get 0 s.actBank s.G.core) ∧
  (∀ (o : LatheOp) (s : State), s.lathe = [o] → o.kind = .atload → s.activeBank o.core ≤ 1 →
    (∀ r ∈ s.rings, r.bank = none) → s.poisoned (.spm o.n1 o.n2) 4096 = false → ∃ t, exec (.activationBankLoadDone o.id) s = .next t ∧
    LatheOver o [o.gid] t ∧ t.actBank = s.actBank ∧ t.acc = s.acc ∧
    (∀ i < 4096, t.act.read (16384 * o.core + 8192 * (1 - s.activeBank o.core) + i) = s.spm.read (spmKey o.n1 (o.n2 + i))) ∧
    ∀ k, k < 16384 * o.core + 8192 * (1 - s.activeBank o.core) ∨ 16384 * o.core + 8192 * (1 - s.activeBank o.core) + 4096 ≤ k →
      t.act.read k = s.act.read k) ∧
  (∀ (f : VForm) (s u : State) (ls : List Loc), s.issuing = true → s.signed = true → selV f s ≠ 0 → s.G.mtxFault = none → s.G.trapm = true → s.G.strip = false →
    s.G.count .mtx = 0 → (∀ g ∈ s.groups, g.core = s.G.core → g.strip = false) → s.G.mxsave.toNat % 128 = 0 →
    s.area s.G .store (stripRows s.G) = (u, .ok ls) →
    ∃ t, exec (.msusp f) s = .next t ∧ Registers [] s t ∧ t.G.strip = true ∧ t.acc = s.acc ∧ (s.G.shadow = true → t.mem = s.mem ∧ t.spm = s.spm) ∧
      (s.G.shadow = false → (∀ l ∈ ls, ∃ a, l = .mem a ∧ a % 128 = 0) → ls.Nodup → t.spm = s.spm ∧
        (∀ r < 256, ∀ c < 32, ∀ a, ls[r]? = some (.mem a) → t.mem.readN (a + 4 * c) 4 = bytesOf 4 (s.accWord s.G.core r (544 + c))) ∧
        ∀ k, (∀ a, .mem a ∈ ls → k < a ∨ a + 128 ≤ k) → t.mem.read k = u.mem.read k)) ∧
  (∀ (f : VForm) (s u : State) (ls : List Loc), s.issuing = true → s.signed = true → selV f s ≠ 0 → s.G.mtxFault = none → s.G.trapm = true → s.G.strip = true →
    s.G.shadow = false → s.area s.G .load (stripRows s.G) = (u, .ok ls) → ls.length = 256 → (∀ l ∈ ls, u.poisoned l 128 = false) →
    ∃ t, exec (.mres f) s = .next t ∧ Registers [] s t ∧ t.G.strip = false ∧
      ∀ r < 256, ∀ c < 32, t.accWord s.G.core r (544 + c) = BitVec.ofNat 32 (natOfBytes (((u.readLoc (ls.getD r (.mem 0)) 128).drop (4 * c)).take 4))) ∧
  (∀ (f : VForm) (s : State), s.canTrap = true → selV f s ≠ 0 → s.G.mtxFault = none → TrapsWith (.msusp f) s .hndmx (selV f s) 0 ∧ TrapsWith (.mres f) s .hndmx (selV f s) 0)

/-- R168 to R170, R172, R230, R237 to R239, R241 to R243: a ready operation starts with the A words of its members' registers, lane l of member i giving row 64 i + l; its other operands lie where the B descriptor and the scale word place them; a started one writes, in every row of its members, the element before it, or +0 under INIT, after each chunk in increasing k has added the sum of its exact products, scaled, with one rounding; the positions of a sparse chunk are the set bits of its mask. The model's own choices here: log 16. -/
def Obligations.MatrixResults : Prop :=
  (∀ (o : LatheOp) (s : State), s.latheOp? o.id = some o → s.mayStart o = true → o.kind.team = true → o.reuse = false →
    ∃ t, exec (.latheOpStart o.id) s = .next t ∧ t.latheOp? o.id = some { o with started := true, adata := s.readA o } ∧
      t.acc = s.acc ∧ t.groups = s.groups ∧ t.mem = s.mem ∧ t.spm = s.spm) ∧
  (∀ (o : LatheOp) (s : State), s.mops = [] → (o.members.map (·.idx)).Nodup → ∀ a ∈ o.members, a.old = [] → ∀ l < 64, bitAt a.mask l = true →
    ∀ j < fldN o.bdesc 29 11 / (fmtOf o.fmt).len * (((fmtOf o.fmt).aBytes + 3) / 4), j < 64 →
      SMap.get 0 (s.readA o) (64 * (64 * a.idx + l) + j) = (s.grp a.gid).vreg (a.areg + j) l ∧
      (s.readA o).any (·.1 == 64 * (64 * a.idx + l) + j) = true) ∧
  (∀ (o : LatheOp) (core : Nat) (s : State), (∀ a ∈ o.members, a.oldSpm = []) → OperandsOf s o core (s.teamSrc o core)) ∧
  (∀ w n i x : Nat, w ∈ [2, 3, 4, 5, 6, 7, 8, 16, 32] → i < n → blockElt w n i x = codeAt w n i x) ∧
  (∀ (m : MatSrc) (r n x : Nat), ∃ y : Nat → Nat, y 0 = x ∧ y (m.k / m.f.len) = m.elem r n x ∧ ∀ c < m.k / m.f.len, y (c + 1) = m.chunk r n (y c) c) ∧
  (∀ (m : MatSrc) (r c : Nat), (m.f.spar = 0 → m.positions r c = (List.range m.f.len).map fun j => (j, j)) ∧
    (m.f.spar ≠ 0 → (m.positions r c).map (·.1) = List.range (m.positions r c).length ∧ ((m.positions r c).map (·.2)).Pairwise (· < ·) ∧
      ∀ j, j ∈ (m.positions r c).map (·.2) ↔ j < 48 ∧ m.meta' r c / 2 ^ j % 2 = 1)) ∧
  (∀ (m : MatSrc) (r n x c : Nat), m.aScale r c = 0xFF ∨ m.bScale n c = 0xFF → m.chunk r n x c = 0x7FC00000) ∧
  (∀ (o : LatheOp) (s : State) (rows : List Nat), s.latheOp? o.id = some o → o.started = true → s.behind o = false → o.kind = .mma ∨ o.kind = .smma →
    o.spoiled = false → s.unmarked = true → s.badMeta o = none → o.rows = rows.map (·, true) → rows.Nodup → (∀ r ∈ rows, accRow o.acc + r < 256) →
    accCol o.acc + bN o.bdesc ≤ 1024 →
    ∃ t, exec (.latheOpComplete o.id) s = .next t ∧ LatheOver o (o.members.map (·.gid)) t ∧
      (∀ r ∈ rows, ∀ n < bN o.bdesc, t.accWord o.core (accRow o.acc + r) (accCol o.acc + n) =
        BitVec.ofNat 32 ((s.teamSrc o o.core).elem r n (if accInit o.acc then 0 else (s.accWord o.core (accRow o.acc + r) (accCol o.acc + n)).toNat))) ∧
      (∀ c r k, r < 256 → k < 1024 → (c ≠ o.core ∨ (∀ q ∈ rows, r ≠ accRow o.acc + q) ∨ k < accCol o.acc ∨ accCol o.acc + bN o.bdesc ≤ k) →
        t.accWord c r k = s.accWord c r k) ∧ t.mem = s.mem ∧ t.spm = s.spm) ∧
  (∀ (m : MatSrc) (r n x c : Nat), finite fp32 x = true → m.aScale r c ≠ 0xFF → m.bScale n c ≠ 0xFF →
    (∀ p ∈ m.positions r c, ∃ ng k e, mulFp (eltValue m.f.afmt (blockElt (eltWidth m.f.afmt) m.f.aElts p.1 (m.aBlock r c)))
      (eltValue m.f.bfmt (m.bElt n (m.f.len * c + p.2))) = .fin ng k e ∧ -2000 ≤ e) →
    let E : Int := -2000 + ((m.aScale r c : Int) - 127) + ((m.bScale n c : Int) - 127)
    let sum : Int := ((m.positions r c).map fun p => units (-2000) (mulFp (eltValue m.f.afmt (blockElt (eltWidth m.f.afmt) m.f.aElts p.1 (m.aBlock r c)))
      (eltValue m.f.bfmt (m.bElt n (m.f.len * c + p.2))))).foldl (· + ·) 0
    let total : Int := units (min E (-149)) (fp32.value x) + sum * 2 ^ (E - min E (-149)).toNat
    total ≠ 0 → CodeOf fp32 .rne (.val total 1 (min E (-149))) (m.chunk r n x c))

/-- R253 to R261: LQSTART checks its header, starts the ring and makes the group its owner; LQSTOP ends it; a command is fetched once PROD exceeds its number, and the ring waits otherwise; WAITCNT and SIGNAL act on their word, STOP ends the ring. The model's own choices here: log 14 and 18. -/
def Obligations.Rings : Prop :=
  (∀ (f : VForm) (s : State) (h : Nat), s.issuing = true → s.signed = true → selV f s ≠ 0 → LatheOpen s → s.unmarked = true → s.ringHeader (aUni f s) = .ok h →
    ∃ t r, exec (.lqstart f) s = .next t ∧ Registers [0x1C, 0x1E, 0x1F] s t ∧ Counts (one .mtx) s t ∧ SameOutside s t ∧ t.rings = s.rings ++ [r] ∧
      r.core = s.G.core ∧ r.owner = s.cur.1 ∧ r.state = .running ∧ r.cmd = none ∧ r.rbase.toNat = recN h 0 32 ∧ r.logn = recN h 32 4 ∧
      r.prod.toNat = recN h 64 32 ∧ r.stat.toNat = recN h 96 32 ∧ r.num.toNat = recN h 128 32 ∧ r.iter.toNat = recN h 160 60 ∧
      fldN t.G.lqst 0 2 = 1 ∧ fldN t.G.lqst 32 32 = recN h 128 32 ∧ t.G.mxit.toNat = recN h 160 60) ∧
  (∀ (f : VForm) (s : State) (r : Ring), s.issuing = true → s.signed = true → selV f s ≠ 0 → LatheOpen s → s.rings = [r] → r.core = s.G.core →
    r.owner = s.cur.1 → r.out = none → ∃ t, exec (.lqstop f) s = .next t ∧ t.rings = [] ∧ Registers [0x1C, 0x1E, 0x1F] s t ∧ fldN t.G.lqst 0 2 = 0 ∧
      ∀ q ∈ t.G.inflight, q.id = r.opId → q.path = .mtx → q.done = true) ∧
  (∀ (core : Nat) (r : Ring) (s : State), s.rings = [r] → r.core = core → r.cmd = none → s.unmarked = true → r.rewritten = [] →
    (∀ p, r.num.toNat + 1 ≤ (s.ringWord r r.prod.toNat).getD 0 → s.reach core r.wg r.ctx (r.rbase.toNat + 64 * (r.num.toNat % 2 ^ r.logn)) 64 64 = some p →
      ∃ t q, exec (.ringCommandFetch core) s = .next t ∧ t.rings = [q] ∧ q.cmd = some (BitVec.ofNat 512 (s.spm.num (spmKey p.1 p.2) 64)) ∧
        q.num = r.num ∧ q.iter = r.iter ∧ q.state = .running ∧ t.l1 = s.l1.filter (·.core != core) ∧ t.acc = s.acc) ∧
    ((s.ringWord r r.prod.toNat).getD 0 < r.num.toNat + 1 → ∃ t q, exec (.ringCommandFetch core) s = .next t ∧ t.rings = [q] ∧ q.state = .waiting ∧
      q.cmd = none ∧ q.num = r.num ∧ t.acc = s.acc)) ∧
  (∀ (core : Nat) (r : Ring) (c : BitVec 512) (s : State) (v : Nat), InHand core r c 4 s → s.unmarked = true → s.ringWord r (fldN c 32 32 % 2 ^ 28) = some v →
    (fldN c 64 32 ≤ v → ∃ t, exec (.waitcnt core) s = .next t ∧ NextCommand r t ∧ t.acc = s.acc) ∧
    (v < fldN c 64 32 → ∃ t q, exec (.waitcnt core) s = .next t ∧ t.rings = [q] ∧ q.state = .waiting ∧ q.cmd = some c ∧ q.num = r.num)) ∧
  (∀ (core : Nat) (r : Ring) (c : BitVec 512) (s : State) (p : Nat × Nat), InHand core r c 5 s → s.reach r.core r.wg r.ctx (fldN c 32 32 % 2 ^ 28) 4 4 = some p →
    ∀ q : Nat × Nat, s.reach r.core r.wg r.ctx r.stat.toNat 64 64 = some q →
    spmKey p.1 p.2 + 4 ≤ spmKey q.1 q.2 ∨ spmKey q.1 q.2 + 64 ≤ spmKey p.1 p.2 →
    ∃ t, exec (.latheSignal core) s = .next t ∧ NextCommand r t ∧
      t.spm.num (spmKey p.1 p.2) 4 = (s.spm.num (spmKey p.1 p.2) 4 + fldN c 64 32) % 2 ^ 32 ∧
      ∀ k, (k < spmKey p.1 p.2 ∨ spmKey p.1 p.2 + 4 ≤ k) → (k < spmKey q.1 q.2 ∨ spmKey q.1 q.2 + 64 ≤ k) → t.spm.read k = s.spm.read k) ∧
  (∀ (core : Nat) (r : Ring) (c : BitVec 512) (s : State) (p : Nat × Nat), InHand core r c 6 s → s.reach r.core r.wg r.ctx r.stat.toNat 64 64 = some p →
    (s.group? r.owner).isSome = true →
    ∃ t, exec (.latheStop core) s = .next t ∧ t.rings = [] ∧ fldN (t.grp r.owner).lqst 0 2 = 0 ∧
      t.spm.num (spmKey p.1 p.2) 4 = (r.num + 1).toNat ∧ t.spm.num (spmKey p.1 p.2 + 4) 1 = 0)

/-- R173, R174, R238, R249, R250, R256, R257, R259, R261: an iteration of a ring MMA or SMMA that passes its checks writes its results, and the ring goes on with the next iteration in the loop's order or with its next command; an iteration of a ring DRAIN writes its outputs, scale bytes and region as a DRAIN does, displaced by its loop indices, and the ring goes on in the same way; an iteration that fails a check faults the ring. The model's own choices here: log 15 and 67. -/
def Obligations.RingIterations : Prop :=
  (∀ (c : BitVec 512) (v w : W64), nextIter c v = some w → IterAfter c v w) ∧
  (∀ (c : BitVec 512) (v : W64), nextIter c v = none → ∀ k < 5, boundAt c k ≤ iterAt v k) ∧
  (∀ (core : Nat) (r : Ring) (c : BitVec 512) (op : Nat) (s : State), (op = 1 ∨ op = 2) → InHand core r c op s → s.unmarked = true →
    let q := ringMma c r.iter
    let i : Instr := if op = 1 then .ringMma core else .ringSmma core
    let check := s.ringMmaCheck r (op == 2) q (BitVec.ofNat 64 (fldN c 16 14))
    (check = none → s.lathe = [] → s.ringBadMeta r q = none → (∀ b ∈ bandsOf q.col.toNat q.n, SMap.get 0 s.bands (32 * core + b) = r.wg) →
      ∃ t, exec i s = .next t ∧ NextIteration r c t ∧
        (∀ m < q.m, ∀ n < q.n, t.accWord core (q.row + m) (q.col.toNat + n) = BitVec.ofNat 32 ((s.ringSrc r q).elem m n
          (if q.init then 0 else (s.accWord core (q.row + m) (q.col.toNat + n)).toNat))) ∧
        OnlyRegion core q.row q.m q.col.toNat q.n s t) ∧
    (∀ x, check = some x → (s.group? r.owner).isSome = true → (s.grp r.owner).mtxFault = none → ∃ t, exec i s = .next t ∧ t.rings = [] ∧
      (t.grp r.owner).mtxFault = some (x.1, x.2, false) ∧ fldN (t.grp r.owner).lqst 0 2 = 3 ∧ fldN (t.grp r.owner).lqst 8 8 = x.1.code)) ∧
  (∀ (core : Nat) (r : Ring) (c : BitVec 512) (d : Nat) (s : State), InHand core r c 3 s → s.unmarked = true →
    s.ownRecord core r.wg r.ctx (fldN c 128 32) = some d →
    let seed : W64 := if fldN c 84 3 = 4 then nextSeed (s.grp r.owner).seed else 0
    let acc : W64 := BitVec.ofNat 64 (fldN c 32 19)
    let j : Job := { core := core, wg := r.wg, ctx := r.ctx, gid := r.owner, row := accRow acc, col := accCol acc + displace c r.iter 288, init := accInit acc
                     cw := fld c 64 64, desc := d, bank := r.bank.getD (s.activeBank core), seed := seed, old := (s.grp r.owner).unfencedSpm
                     dcol := displace c r.iter 288, dout := displace c r.iter 358, dtout := displace c r.iter 428 }
    let status : List (Nat × Nat) := (s.reach core r.wg r.ctx r.stat.toNat 64 64).toList.map fun p => (spmKey p.1 p.2, 64)
    s.drainCheck j = none → s.lathe = [] → (∀ b ∈ bandsOf j.col.toNat j.cols, SMap.get 0 s.bands (32 * core + b) = r.wg) → DrainFits s j status →
    (s.grp r.owner).screened = false ∧ (s.grp r.owner).shadow = false → (∀ w ∈ s.engineWaits, w.1 ≠ r.opId) →
    ∃ t, exec (.ringDrain core) s = .next t ∧ NextIteration r c t ∧ Drained s t j status)

/-! ### Spindle, drift and tokens -/

namespace Sys2Proof.Claims

/-- A queue at a location that takes one element: its header keeps the form of R190, it is not full and no dequeue holds it, and the element lies apart from the header. -/
structure QueueRoom (s : State) (ctx : Nat) (l : Loc) (h : Header) (e : Loc) : Prop where
  header : s.header l 8 = some h ∧ l.offset % 64 = 0
  room : (h.tail + 2 ^ 64 - h.head) % 2 ^ 64 < 2 ^ h.lcap
  element : s.element ctx l h h.tail = some e
  apart : e.overlaps 8 l 64 = false ∧ s.enqHeld l = false
  local' : (∃ a, l = .mem a) ∧ ∃ a, e = .mem a

/-- One value has been appended (R191): the element holds it, TAIL has risen by one, and no other local byte has changed. -/
def Appended (h : Header) (l e : Loc) (v : Nat) (s t : State) : Prop :=
  Holds t e 8 v ∧ Holds t (l.add 24) 8 (h.tail + 1) ∧
    ∀ a, (∀ j < 8, e.add j ≠ .mem a) → (∀ j < 8, (l.add 24).add j ≠ .mem a) → t.mem.read a = s.mem.read a

/-- The tile that the n-th hand-out of a tile space names (R284): x, y, z in bits 15:0, 31:16 and 47:32, n mod 65536 above; x innermost, y innermost under TORD 1, x reversed in every second row under TORD 2; all ones when the space is used up. -/
def Tile284 (d : Desc) (n : Nat) (r : W64) : Prop :=
  if d.tx * d.ty * d.tz < n then r = BitVec.allOnes 64
  else ∃ x y z, x < d.tx ∧ y < d.ty ∧ r.toNat = x + y * 2 ^ 16 + z * 2 ^ 32 + n % 2 ^ 16 * 2 ^ 48 ∧
    n = 1 + z * (d.tx * d.ty) + (if d.tord = 1 then y + d.ty * x
      else (if d.tord = 2 ∧ (y + z * d.ty) % 2 = 1 then d.tx - 1 - x else x) + d.tx * y)

/-- A group as R20 and R103 create it. -/
structure Created (p : Placing) (wg core k : Nat) (s : State) (g : Group) : Prop where
  place : g.core = core ∧ g.ctx = p.ctx ∧ g.wg = wg ∧ g.ginwg = k ∧ g.slot < 32 ∧ g.active = false
  ids : g.grid = p.grid ∧ g.wgx = p.wgx ∧ g.wgy = p.wgy ∧ g.wgz = p.wgz ∧ g.task = p.task ∧ g.evc = p.evc ∧ g.depth = p.depth
  team : g.teamSize = p.t ∧ g.teamIdx = k % p.t ∧ g.nblk = p.nblk
  regs : g.v = [] ∧ g.p = [] ∧ g.sreg 0 0 = p.arg ∧ ∀ r, r ≠ 0 → g.sreg 0 r = 0
  split : g.splits = [{ idx := 0, mask := BitVec.allOnes 64, pc := p.entry }] ∧ g.stack = [] ∧ g.trapm = false ∧ g.kill = 0
  seed : g.seed = (if p.grid = 0 then p.task ^^^ ((p.evc &&& 0xFFFF) <<< 48)
    else (BitVec.ofNat 64 p.grid <<< 32) ^^^ (BitVec.ofNat 64 p.lin <<< 4) ^^^ BitVec.ofNat 64 k) ||| 1

/-- The groups of a workgroup have been placed on a core (R18, R20): so many new groups, in order, in slots that were free and differ. -/
def PlacedGroups (p : Placing) (core : Nat) (s t : State) : Prop :=
  ∃ new wg, t.groups = s.groups ++ new ∧ new.length = p.g ∧ (∀ k < p.g, Created p wg core k s (new.getD k {})) ∧
    (new.map (·.slot)).Nodup ∧ (∀ g ∈ new, ∀ h ∈ s.groups, h.core = core → h.slot ≠ g.slot) ∧
    ∃ w, t.wgs = s.wgs ++ [w] ∧ w.id = wg ∧ w.core = core ∧ w.size = p.size ∧ w.live = p.g ∧ w.ctx = p.ctx

/-- Only images and the lists named change in a drift step: memory, accumulators and groups that do not travel stay. -/
def DriftStays (g : Nat) (s t : State) : Prop :=
  t.mem = s.mem ∧ t.spm = s.spm ∧ t.acc = s.acc ∧ t.tags = s.tags ∧ ∀ h ∈ s.groups, h.gid ≠ g → h ∈ t.groups

/-- An image has gone to its ring: into frames of its own, of which no byte is given; no other byte, and no group that does not travel, has changed. -/
def Spilled (x y : Xfer) (s t : State) : Prop :=
  y ∈ t.xfers ∧ y.id = x.id ∧ y.stage = .ring ∧ y.toward = x.toward ∧ (∀ g ∈ t.groups, g.gid ≠ x.id) ∧
    t.spm = s.spm ∧ t.acc = s.acc ∧ t.tags = s.tags ∧ (∀ h ∈ s.groups, h.gid ≠ x.id → h ∈ t.groups) ∧
    ∃ f, y.room = some f ∧ ∀ a, (a < f * 0x10000 ∨ f * 0x10000 + 2048 + 4096 * x.need ≤ a) → t.mem.read a = s.mem.read a

/-- The firmware has frames for an image. -/
def HasRoom (x : Xfer) (s : State) : Prop := (s.allocFrames 0 (if 2048 + 4096 * x.need ≤ 0x10000 then 1 else 2)).isSome = true

end Sys2Proof.Claims

/-- R283 to R287: TSPAWN appends its record to a task queue; WQRY asks for a tile, and its answer names the tile of the hand-out; GLAUNCH queues its launch and waits for acceptance; GWAIT passes once the child grid has retired, and waits while it runs. -/
def Obligations.SpindleInstructions : Prop :=
  (∀ (f : VForm) (s : State) (l e : Loc) (h : Header), s.issuing = true → s.signed = true → selV f s ≠ 0 → selectorBad (bUni f s) = false →
    aUni f s ≠ 0 → (aUni f s).toNat < 2 ^ 48 → (aUni f s).toNat % 64 = 0 → Released 5 s → s.G.shadow = false →
    s.taskQueueLoc s.G.ctx (if bitAt (bUni f s) 16 then s.G.core / 8 else fldN (bUni f s) 8 5) (fldN (bUni f s) 0 2) = some l →
    QueueRoom s s.G.ctx l h e → ∃ t, exec (.tspawn f) s = .next t ∧ Registers [] s t ∧ Appended h l e (aUni f s).toNat s t ∧
      t.acc = s.acc ∧ t.spm = s.spm ∧ t.tags = s.tags) ∧
  (∀ (f : VForm) (s : State), s.canTrap = true → selV f s ≠ 0 → (selectorBad (bUni f s) = true ∨ aUni f s = 0 ∨ fldN (aUni f s) 48 16 ≠ 0 →
    TrapsWith (.tspawn f) s .range (selV f s) (aUni f s))) ∧
  (∀ (f : VForm) (s : State) (off : Nat), s.issuing = true → s.signed = true → selV f s ≠ 0 → (aUni f s).toNat = 2 ^ 27 + off → off % 8 = 0 →
    off < 2 ^ 20 → off < (s.wgOf s.G.wg).size → s.G.count .qry < 63 →
    ∃ t q, exec (.wqry f) s = .next t ∧ Untouched [0x1F] s t ∧ NextWord s t ∧ Counts (one .qry) s t ∧ t.queries = s.queries ++ [q] ∧
      q.gid = s.cur.1 ∧ q.grid = s.G.grid ∧ q.loc = .spm s.G.core ((s.wgOf s.G.wg).base + off)) ∧
  (∀ (q : Query) (g : Grid) (core off : Nat) (s : State), s.queries = [q] → (s.grp q.gid).shadow = false → (s.grp q.gid).screened = false →
    s.grid? (s.grp q.gid).grid = some g → 0 < g.desc.tx → 0 < g.desc.ty → g.desc.tx < 2 ^ 16 → g.desc.ty < 2 ^ 16 → g.desc.tz < 2 ^ 16 → q.loc = .spm core off →
    ∃ t r, exec (.wqryAnswer q.id) s = .next t ∧ t.queries = [] ∧ Tile284 g.desc (g.handed + 1) r ∧ t.spm.num (spmKey core off) 8 = r.toNat ∧
      (∀ k, k < spmKey core off ∨ spmKey core off + 8 ≤ k → t.spm.read k = s.spm.read k) ∧
      ∃ x, t.grid? g.id = some x ∧ x.handed = if g.handed < g.desc.tx * g.desc.ty * g.desc.tz then g.handed + 1 else g.handed) ∧
  (∀ (f : VForm) (s u : State) (l : Loc) (p : W64), s.issuing = true → selV f s ≠ 0 → (∀ x ∈ s.launches, x.issuer ≠ some s.cur) → s.G.teamIdx = 0 →
    s.G.depth ≠ 10 → (aUni f s).toNat % 128 = 0 → (aUni f s).toNat < 2 ^ 60 → Released 5 s → s.G.shadow = false →
    s.translate s.G.core s.G.ctx (aUni f s) .load 0 = (u, .ok l p) → u.poisoned l 128 = false →
    let d := descOf (natOfBytes (u.readLoc l 128))
    u.descStatus s.G.ctx d = none → d.drift = false → (d.svc = true → s.G.svc = true) →
    (s.launches.filter fun x => x.ctx == s.G.ctx && x.prio == d.prio).length < 64 →
    ∃ t, exec (.glaunch f) s = .next t ∧ t.S.wait = .stall ∧ t.S.pc = s.S.pc ∧ t.G.v = s.G.v ∧ t.G.s = s.G.s ∧
      t.launches = s.launches ++ [{ ctx := s.G.ctx, prio := d.prio, va := aUni f s, issuer := some s.cur, mask := selV f s }]) ∧
  (∀ (f : VForm) (s u : State) (l : Loc) (p : W64) (g : Grid), s.issuing = true → s.signed = true → selV f s ≠ 0 → (aUni f s).toNat % 128 = 0 →
    (aUni f s).toNat < 2 ^ 60 → s.translate s.G.core s.G.ctx (aUni f s) .load 0 = (u, .ok l p) → u.poisoned (l.add 64) 12 = false →
    ((s.grid? (u.num (l.add 64) 4) = some g ∧ g.ctx = s.G.ctx ∧ g.parent = s.G.grid) ∨
      (s.grid? (u.num (l.add 64) 4) = none ∧ u.num (l.add 68) 4 = s.G.grid)) →
    (2 ≤ u.num (l.add 73) 1 % 4 → ∃ t, exec (.gwait f) s = .next t ∧ Registers [] s t ∧ t.l1 = u.l1.filter (·.core != s.G.core)) ∧
    (u.num (l.add 73) 1 % 4 = 1 → exec (.gwait f) s = .next u.stall) ∧
    (s.canTrap = true → u = s → u.num (l.add 73) 1 % 4 = 0 → TrapsWith (.gwait f) s .launchf (selV f s) (aUni f s)))

/-- R18, R20, R30, R103, R274, R275, R281, R340: the head of a launch queue becomes an open grid, and a GLAUNCH that waits for it goes on, or it is refused with its status; a unit places the grid's next workgroup, or the task at its queue's head, on a core that has room, as newly created groups; a candidate passed over for 65,536 clocks blocks the order; a shadow that has waited as long is abandoned. The model's own choices here: log 23 and 54. -/
def Obligations.Dispatch : Prop :=
  (∀ (ctx prio n : Nat) (l : Launch) (s : State), s.launchHead ctx prio = some l → s.dispatches ctx = true → s.openGrids.length < 1024 →
    s.deviceRead ctx l.va 128 = some n → l.coop = false → (descOf n).coop = false → (descOf n).drift = false → s.descStatus ctx (descOf n) = none →
    s.childBad l (descOf n) = false →
    (∀ h i, l.issuer = some (h, i) → (at' h i s).signed = true) →
    ∃ t g, exec (.gridAccept ctx prio) s = .next t ∧ t.grids = s.grids ++ [g] ∧ g.desc = descOf n ∧ g.ctx = l.ctx ∧ g.va = l.va ∧ g.next = 0 ∧
      g.cmd = l.cmd ∧ g.id ≠ 0 ∧ t.launches = s.launches.erase l ∧
      (∀ h i, l.issuer = some (h, i) → (s.group? h).isSome = true → (at' h i s).issuing = true →
        g.parent = (s.grp h).grid ∧ g.depth = (s.grp h).depth + 1 ∧ NextWord (at' h i s) (at' h i t))) ∧
  (∀ (ctx prio n : Nat) (l : Launch) (s : State), s.launchHead ctx prio = some l → s.dispatches ctx = true → s.openGrids.length < 1024 →
    s.deviceRead ctx l.va 128 = some n → l.issuer = none → l.coop = true → s.descStatus ctx { descOf n with coop := true } = none →
    ∃ t, exec (.gridAccept ctx prio) s = .next t ∧ (t = s.refuseLaunch l 6 ∨ ∃ x ∈ t.grids, x.ctx = l.ctx ∧ x.desc = { descOf n with coop := true } ∧
      x.next = x.total ∧ t.wgs.length = s.wgs.length + x.total ∧ ∀ w ∈ t.wgs.drop s.wgs.length, w.grid = x.id)) ∧
  (∀ (ctx prio n st : Nat) (l : Launch) (s : State), s.launchHead ctx prio = some l → s.dispatches ctx = true → s.openGrids.length < 1024 →
    s.deviceRead ctx l.va 128 = some n → l.issuer = none → s.descStatus ctx { descOf n with coop := l.coop } = some st →
    exec (.gridAccept ctx prio) s = .next ((s.dropLaunch l).completeCmd l.cmd st)) ∧
  (∀ (core k : Nat) (g : Grid) (s : State), s.candidates (core / 8) = [(.grid g.id g.next, k)] → s.grid? g.id = some g → g.desc.screen = false →
    s.fits (g.placing g.next) core = true → ∃ t x, exec (.workgroupDispatch core) s = .next t ∧ PlacedGroups (g.placing g.next) core s t ∧
      t.grid? g.id = some x ∧ x.next = g.next + 1 ∧ t.mem = s.mem ∧ t.acc = s.acc) ∧
  (∀ (ctx prio core k e : Nat) (p : Placing) (l : Loc) (h : Header) (s : State), s.candidates (core / 8) = [(.task ctx prio h.head, k)] →
    s.taskQueueLoc ctx (core / 8) prio = some l → s.header l 8 = some h → s.taskNext ctx (core / 8) prio = some (h.head, e) →
    s.recordFault ctx e = none → s.taskPlace ctx e = some p → s.fits p core = true →
    ∃ t, exec (.taskDispatch ctx prio core) s = .next t ∧ PlacedGroups p core s t ∧ t.acc = s.acc ∧
      (∀ a, l = .mem a → Holds t (l.add 16) 8 (h.head + 1) ∧ ∀ b, (∀ j < 8, (l.add 16).add j ≠ .mem b) → t.mem.read b = s.mem.read b)) ∧
  (∀ (cluster : Nat) (s : State), ∃ t, exec (.dispatchPassOverLimit cluster) s = .next t ∧ t = { s with passes := t.passes } ∧
    t.passes.length = s.passes.length ∧ ∀ i < s.passes.length, t.passes.getD i {} =
      { s.passes.getD i {} with blocks := (s.passes.getD i {}).blocks ||
          (decide ((s.passes.getD i {}).cluster = cluster) && decide (65536 ≤ (s.clk - (s.passes.getD i {}).since).toNat)) }) ∧
  (∀ (q : ShadowReq) (s : State), s.shadowReqs.find? (·.id == q.id) = some q → 65536 ≤ (s.clk - q.since).toNat →
    ∃ t, exec (.shadowAbandon q.id) s = .next t ∧ (∀ x ∈ t.shadowReqs, x.id ≠ q.id) ∧ (∀ g ∈ t.groups, g.wg = q.wg → g.screened = false) ∧
      t.counters = s.counters ∧ t.events = s.events ∧ t.mem = s.mem)

/-- R270, R289, R290, R292, R293: JMPX inside a replica's segment is a branch, that of a shadow stays on its core, to another segment the group becomes a transfer that continues at the target; a creation takes an arrival entry, a waiting transfer a free one; a core admits its oldest transfer into a free slot with the blocks that it asked for; after 4,096 clocks it spills into the ring, which firmware makes room in. The model's own choices here: log 30, 31 and 108. -/
def Obligations.Drift : Prop :=
  (∀ (f : CForm) (s : State) (g : Grid) (z : Segment), s.issuing = true → s.signed = true → selC f s ≠ 0 → selC f s = s.S.mask → s.G.drift = true →
    s.G.trapm = false → s.G.splits.length = 1 → s.grid? s.G.grid = some g → g.segs.find? (fun z => inSegment z (s.S.pc + (f.off.signExtend 64 <<< 3))) = some z →
    s.G.restarting = false →
    ((if s.G.shadow then inSegment z s.S.pc = true else s.G.core ∈ z.reps) →
      exec (.jmpx f) s = .next (s.branch f.hint.toNat (selC f s) (s.S.pc + (f.off.signExtend 64 <<< 3)))) ∧
    (s.G.shadow = true → inSegment z s.S.pc = false → f.live.toNat < s.G.nblk → s.G.cpyFault = none → s.leavesBehind s.cur.1 = false →
      ∃ t, exec (.jmpx f) s = .next t ∧ t.S.pc = s.S.pc + (f.off.signExtend 64 <<< 3) ∧ t.S.left = 0 ∧ t.S.mask = s.S.mask ∧
        t.S.sigp = pathStep s.S.sigp s.S.mask 1 ∧ t.G.nblk = f.live.toNat + 1 ∧ t.xfers = s.xfers ∧ SameScalar s t ∧ SamePred s t) ∧
    (s.G.shadow = false → s.G.core ∉ z.reps → f.live.toNat < s.G.nblk → s.G.cpyFault = none → s.leavesBehind s.cur.1 = false →
      ∃ t x, exec (.jmpx f) s = .next t ∧ t.S.pc = s.S.pc + (f.off.signExtend 64 <<< 3) ∧ t.S.left = 0 ∧ t.S.mask = s.S.mask ∧ t.S.wait = .drift ∧
        t.S.sigp = pathStep s.S.sigp s.S.mask 1 ∧ SameVector s t ∧ SameScalar s t ∧ SamePred s t ∧ x ∈ t.xfers ∧ x.id = s.cur.1 ∧
        x.need = f.live.toNat + 1 ∧ x.toward ∈ 0 :: z.reps ∧ x.stage = .sender)) ∧
  (∀ (f : CForm) (s : State), s.canTrap = true → selC f s ≠ 0 → s.G.drift = false →
    TrapsWith (.jmpx f) s .driftf (selC f s) (s.S.pc + (f.off.signExtend 64 <<< 3))) ∧
  (∀ (g : Grid) (z : Segment) (zs : List Segment) (s : State), s.grid? g.id = some g → g.segs = z :: zs → g.next < g.total → s.dispatches g.ctx = true →
    (s.arrivals (s.replica z g.next g.id)).length < 16 → ∃ t x y, exec (.driftCreation g.id) s = .next t ∧ t.xfers = s.xfers ++ [x] ∧
      x.creation = true ∧ x.toward = s.replica z g.next g.id ∧ x.need = g.desc.nblk ∧ x.stage = .arrival ∧ x.image.splits =
        [{ idx := 0, mask := BitVec.allOnes 64, pc := g.desc.entry }] ∧ t.groups = s.groups ∧ t.grid? g.id = some y ∧ y.next = g.next + 1) ∧
  (∀ (x : Xfer) (s : State), s.xfers.find? (·.id == x.id) = some x → x.stage = .sender → (s.arrivals x.toward).length < 16 →
    exec (.driftArrivalEntry x.id) s = .next { s with xfers := s.xfers.filter (·.id != x.id) ++ [{ x with stage := .arrival }] }) ∧
  (∀ (core : Nat) (x : Xfer) (s : State), s.nextAdmission core = some x → x.toward = core → x.creation = false →
    (s.freeSlots core).isEmpty = false → s.blocksUsed core + x.need ≤ 128 →
    let image := if x.stage = .ring then x.image else s.grp x.id
    image.gid = x.id → image.wdog < image.limit →
    ∃ t g, exec (.driftAdmission core) s = .next t ∧ g ∈ t.groups ∧ g.gid = x.id ∧ g.core = core ∧ g.nblk = x.need ∧ g.slot ∈ s.freeSlots core ∧
      (∀ r l, r < 16 * x.need → l < 64 → g.vreg r l = image.vreg r l) ∧ (∀ r l, 16 * x.need ≤ r → l < 64 → g.vreg r l = 0) ∧
      g.s = image.s ∧ (∀ p, g.pred p = image.pred p) ∧ (∀ y ∈ t.xfers, y.id ≠ x.id) ∧ (∀ y ∈ t.l1, y.core ≠ core) ∧ DriftStays x.id s t) ∧
  (∀ (x : Xfer) (s : State), s.xfers.find? (·.id == x.id) = some x → x.creation = false → x.stage ≠ .ring → 4096 ≤ (s.clk - x.since).toNat →
    (s.groups.find? (·.gid == x.id)).isSome = true → (s.ringImages x.toward).length < s.overflowRoom x.toward → HasRoom x s →
    ∃ t y, exec (.driftSpill x.id) s = .next t ∧ Spilled x y s t ∧ y.image.nblk = x.need ∧ y.image.s = (s.grp x.id).s ∧
      ∀ r l, r < 16 * x.need → l < 64 → y.image.vreg r l = (s.grp x.id).vreg r l) ∧
  (∀ (core : Nat) (x : Xfer) (s : State), (s.xfers.filter fun y => y.toward == core && y.overflow && y.stage != .ring) = [x] → HasRoom x s →
    ∃ t y, exec (.overflowRingGrow core) s = .next t ∧ Spilled x y s t ∧ y.overflow = false ∧
      SMap.get 0 t.overflowCap core = SMap.get 0 s.overflowCap core + 1)

/-! ### Tokens and services -/

namespace Sys2Proof.Claims

/-- The 2 MiB region that an address names, and whose it is: of this device, or of a peer other than it (R313, R315). -/
def NamesRegion (s : State) (a : W64) (r : Nat) : Prop :=
  a.toNat < 2 ^ 60 ∧ ∃ p x, s.walk s.G.ctx (BitVec.ofNat 64 (a.toNat % 2 ^ 56)) = .leaf p x ∧
    ((∃ b, leafLoc p (a.toNat % 2 ^ 56) = .mem b ∧ b / 2 ^ 21 < 2 ^ 48 ∧ r = b / 2 ^ 21) ∨
      ∃ d b, leafLoc p (a.toNat % 2 ^ 56) = .peer d b ∧ s.peer ≠ some d ∧ b / 2 ^ 21 < 2 ^ 48 ∧ r = (d + 1) * 2 ^ 48 + b / 2 ^ 21)

/-- Whether a packet can be sent at once: nothing waits before it, a port may carry its line, and, where it is a request, a tag of the port is free (R355, R360). -/
def Sendable (p : Packet) (s : State) : Prop :=
  s.unsent = [] ∧ ∃ n, s.plane p.dst.toNat (p.line.toNat * 128) = some n ∧ (isRequest p.type = true → (s.freshTag n).isSome = true)

/-- One token message has been sent, or waits for a port and a tag (R361): its type, its receiver and its region, in LINE bits 44:14. -/
def TokenSent (type d r : Nat) (s t : State) : Prop :=
  ∃ p, p.type = BitVec.ofNat 6 type ∧ p.dst = BitVec.ofNat 10 d ∧ p.line = BitVec.ofNat 45 (r % 2 ^ 48 * 2 ^ 14) ∧
    ((t.sent = s.sent ++ [p] ∧ t.unsent = s.unsent) ∨ (¬ Sendable p s ∧ t.sent = s.sent ∧ t.unsent = s.unsent ++ [p]))

/-- No core holds a line of a region. -/
def NoLines (r : Nat) (t : State) : Prop := ∀ y ∈ t.l1, y.loc.region ≠ r

/-- The bytes of the device and its queues stay. -/
def BytesStay (s t : State) : Prop := t.mem = s.mem ∧ t.spm = s.spm ∧ t.acc = s.acc ∧ t.tags = s.tags

/-- A result buffer of n bytes in the group's own scratchpad (R218). -/
structure ScratchBuffer (s : State) (b : W64) (n off : Nat) : Prop where
  addr : b.toNat = 2 ^ 63 + 2 ^ 27 + off
  aligned : off % n = 0
  inside : off + n ≤ (s.wgOf s.G.wg).size ∧ off + n ≤ 2 ^ 20

/-- The write of a result of n bytes has begun, in elements of 8 bytes, and the split waits for it (R307, R325). -/
def ResultBegun (n off : Nat) (word : Nat → W64) (s t : State) : Prop :=
  ∃ o, t.mops = s.mops ++ [o] ∧ o.kind = .store ∧ o.faults = [] ∧ t.S.wait = .memop o.id ∧ t.S.pc = s.S.pc ∧ (∀ p, t.G.count p = s.G.count p) ∧
    o.elems.map (fun e => (e.loc, e.size, e.data, e.stage)) = (List.range (n / 8)).map fun i =>
      (Loc.spm s.G.core ((s.wgOf s.G.wg).base + off + 8 * i), 8, (word i).setWidth 256, Stage.todo)

/-- The fault queue's header stands at h, and its oldest entry, of which there is one, at slot (R304). -/
def FqOldest (h slot : Nat) (s : State) : Prop :=
  s.fq.header = some h ∧ s.mem.num (h + 16) 8 ≠ s.mem.num (h + 24) 8 ∧
    slot = s.mem.num h 8 + s.mem.num (h + 16) 8 % 2 ^ s.mem.num (h + 8) 1 * 32

/-- No access waits at its home for a write (R185, R193). -/
def NoWaiters (s : State) : Prop := ∀ o ∈ s.mops, ∀ e ∈ o.elems, ∀ w, e.stage ≠ .waiting w

/-- An operation of a group is over on a path: it is done, and no longer in a list of operations. -/
def OverOn (p : Path) (g id : Nat) (t : State) : Prop := ∀ o ∈ (t.grp g).inflight, o.id = id → o.path = p → o.done = true

/-- A service instruction that may run (R301): its group has SVC, and a lane is selected. -/
structure Serves (f : VForm) (s : State) : Prop where
  issuing : s.issuing = true
  signed : s.signed = true
  svc : s.G.svc = true
  lanes : selV f s ≠ 0

/-- The form of a privileged service instruction. -/
def serviceOf : Instr → Option VForm
  | .tlbinv f => some f
  | .fqpop f => some f
  | .fqrpl f => some f
  | .migr f => some f
  | _ => none

/-- No access is held until a counter falls (R318). -/
def NoneHeld (s : State) : Prop := ∀ o ∈ s.mops, ∀ e ∈ o.elems, e.stage ≠ .held

/-- Whether n bytes of a context at va lie in what TLBINV names (R302). -/
def Covered (kind psize c : Nat) (a : W64) (ctx va n : Nat) : Prop :=
  let z := match psize with | 0 => 0x10000 | 1 => 0x200000 | _ => 0x40000000
  kind = 2 ∨ (kind = 1 ∧ ctx = c) ∨ (kind = 0 ∧ ctx = c ∧ a.toNat % 2 ^ 56 / z * z ≤ va ∧ va + n ≤ a.toNat % 2 ^ 56 / z * z + z)

/-- The model's name of the same. -/
def coverOf (kind psize c : Nat) (a : W64) : Cover :=
  match kind with
  | 0 => let z := match psize with | 0 => 0x10000 | 1 => 0x200000 | _ => 0x40000000
         .page c (a.toNat % 2 ^ 56 / z * z) z
  | 1 => .ctx c
  | _ => .all

/-- No access of the device, but the fetches of groups, is parked on a page of a context. -/
structure NothingParked (c page : Nat) (s : State) : Prop where
  ops : ∀ o ∈ s.mops, o.ctx = c → ∀ e ∈ o.elems, inPage page e.va = true → e.stage ≠ .pageFault ∧ e.stage ≠ .writeProtect
  copies : ∀ x ∈ s.copies, x.ctx = c → ∀ va, x.park = some va → inPage page va = false
  lathe : ∀ x ∈ s.lathe, x.ctx = c → ∀ va, x.park = some va → inPage page va = false
  rings : ∀ x ∈ s.rings, x.ctx = c → ∀ va, x.park = some va → inPage page va = false

/-- No fetch of a group is parked on a page of a context. -/
def NoFetchParked (c page : Nat) (s : State) : Prop :=
  ∀ g ∈ s.groups, g.ctx = c → ∀ p ∈ g.splits, ∀ va, p.wait = .fetch va → inPage page va = false

/-- The row that a slice's patrol visits next (R347): one of its listed rows that has its turn, where history weighting gives them one sixteen times
in a patrol, or else the next in address order. -/
def NextRow (slice row : Nat) (s : State) : Prop :=
  let due (h : History) : Prop := h ∈ s.history ∧ h.slice = slice ∧ s.scrubWeighted = true ∧ patrolRows / 16 ≤ SMap.get 0 s.patrol slice - h.seen
  (∃ h, due h ∧ h.row = row) ∨ ((∀ h, ¬ due h) ∧ row = patrolRow slice (SMap.get 0 s.patrol slice))

/-- A page in migration: its operation is alone, its leaf stands, no access to the old frame is on its way, both frames are local and lie apart, also from the leaf. -/
structure MayMove (c : CopyOp) (p : W64) (leaf a b : Nat) (s : State) : Prop where
  only : s.copies = [c] ∧ c.kind = .migr ∧ c.acks = [] ∧ c.reads = [] ∧ s.mops = [] ∧ s.migrates = []
  engines : (∀ o ∈ s.lathe, o.out = none) ∧ ∀ r ∈ s.rings, r.out = none
  walk : s.walk (fldN c.c 0 16) (BitVec.ofNat 64 (c.a.toNat % 2 ^ 56)) = .leaf p leaf
  good : leafGood (fldN c.b 33 2) c.b = true
  frames : leafLoc p 0 = .mem a ∧ leafLoc c.b 0 = .mem b ∧ a % 8 = 0 ∧ b % 8 = 0
  apart : (a + pteBytes p ≤ b ∨ b + pteBytes p ≤ a) ∧ (leaf + 8 ≤ b ∨ b + pteBytes p ≤ leaf)

end Sys2Proof.Claims

/-- R186, R313 to R315: TOKACQ of a region at home completes at once with its acquire, of a peer's region asks the peer; TOKREL returns a held token; TOKQRY asks for the status word; at home a request moves the token, the eighth move within 1 ms pins the region, and a recall waits for 20 µs; a token recalled or granted elsewhere goes or comes with the lines of its region. -/
def Obligations.Tokens : Prop :=
  (∀ (f : VForm) (s : State) (r : Nat), s.issuing = true → s.signed = true → selV f s ≠ 0 → NamesRegion s (aUni f s) r → s.token? r = none →
    (∀ q ∈ s.tokOps, q.kind = 0 → q.region ≠ r) → (r < 2 ^ 48 → s.G.count .rmt = 0 →
      ∃ t, exec (.tokacq f) s = .next t ∧ Registers [0x1F] s t ∧ t.G.count .rmt = 0 ∧ t.tokOps = s.tokOps ∧ t.tokens = s.tokens ∧ BytesStay s t ∧
        ∀ y ∈ t.l1, y.core = s.G.core → y.loc.region ≠ r) ∧
    (2 ^ 48 ≤ r → s.G.count .rmt < 63 → SMap.get .absent s.peers (r / 2 ^ 48 - 1) = .run →
      ∃ t q, exec (.tokacq f) s = .next t ∧ Registers [0x1F] s t ∧ Counts (one .rmt) s t ∧ t.tokOps = s.tokOps ++ [q] ∧ q.kind = 0 ∧ q.region = r ∧
        q.gid = s.cur.1 ∧ TokenSent 0x24 (r / 2 ^ 48 - 1) r s t ∧ BytesStay s t)) ∧
  (∀ (f : VForm) (s : State) (r : Nat), s.issuing = true → s.signed = true → selV f s ≠ 0 → NamesRegion s (aUni f s) r → Released 5 s →
    s.G.count .rmt < 63 →
    (r < 2 ^ 48 ∨ s.token? r = none → ∃ t q, exec (.tokrel f) s = .next t ∧ Registers [0x1F] s t ∧ Counts (one .rmt) s t ∧ t.tokOps = s.tokOps ++ [q] ∧
      q.kind = 1 ∧ q.region = r ∧ t.tokens = s.tokens ∧ t.sent = s.sent ∧ BytesStay s t) ∧
    (2 ^ 48 ≤ r → (∃ x, s.token? r = some x ∧ x.pinned = false) → s.storesTo r = false →
      ∃ t q, exec (.tokrel f) s = .next t ∧ Registers [0x1F] s t ∧ Counts (one .rmt) s t ∧ t.tokOps = s.tokOps ++ [q] ∧ q.kind = 1 ∧ q.region = r ∧
        t.tokens = s.tokens.filter (·.region != r) ∧ NoLines r t ∧ TokenSent 0x27 (r / 2 ^ 48 - 1) r s t ∧ BytesStay s t)) ∧
  (∀ (f : VForm) (s : State) (r off : Nat), s.issuing = true → s.signed = true → selV f s ≠ 0 → NamesRegion s (aUni f s) r → s.G.count .rmt < 63 →
    ScratchBuffer s (bUni f s) 8 off → s.S.acqs = [] → (2 ^ 48 ≤ r → SMap.get .absent s.peers (r / 2 ^ 48 - 1) = .run) →
    ∃ t q o e, exec (.tokqry f) s = .next t ∧ Registers [0x1F] s t ∧ Counts (one .rmt) s t ∧ t.tokOps = s.tokOps ++ [q] ∧ q.kind = 2 ∧ q.region = r ∧
      t.mops = s.mops ++ [o] ∧ o.id = q.id ∧ o.elems = [e] ∧ e.loc = .spm s.G.core ((s.wgOf s.G.wg).base + off) ∧ e.size = 8 ∧ e.reg = 0 ∧
      e.stage = .sent queryCode ∧ BytesStay s t ∧ (2 ^ 48 ≤ r → TokenSent 0x24 (r / 2 ^ 48 - 1) r s t)) ∧
  (∀ (peer r : Nat) (s : State), r < 2 ^ 48 → s.token? r = none → (s.tokens.filter fun t => regionHere t.region).length < 16384 → s.storesTo r = false →
    ∃ t, exec (.tokRequest peer r) s = .next t ∧
      t.token? r = some { region := r, holder := some peer, lastMove := s.clk, moves := [s.clk] } ∧ NoLines r t ∧ TokenSent 0x25 peer r s t ∧ BytesStay s t ∧
      ∀ q, q ≠ r → t.token? q = s.token? q) ∧
  (∀ (r : Nat) (q : TokOp) (s : State), 2 ^ 48 ≤ r → s.token? r = none → s.tokOps = [q] → q.kind = 0 → q.region = r →
    ∃ t, exec (.tokGrant r) s = .next t ∧ (∃ x, t.token? r = some x ∧ x.recalled = false ∧ x.lastMove = s.clk) ∧ t.tokOps = [] ∧ OverOn .rmt q.gid q.id t ∧
      BytesStay s t ∧ ∀ y ∈ t.l1, y.core = (s.grp q.gid).core → y.loc.region ≠ r) ∧
  (∀ (r : Nat) (s : State), 2 ^ 48 ≤ r → (∃ x, s.token? r = some x ∧ x.pinned = false) → s.storesTo r = false →
    ∃ t, exec (.tokRecall r) s = .next t ∧ t.tokens = s.tokens.filter (·.region != r) ∧ NoLines r t ∧ TokenSent 0x27 (r / 2 ^ 48 - 1) r s t ∧ BytesStay s t) ∧
  (∀ (r p q : Nat) (x : Token) (ws : List (Option Nat)) (s : State), r < 2 ^ 48 → s.token? r = some x → x.region = r → x.holder = some q → x.pinned = false →
    x.waiting = some p :: ws →
    (∃ t, exec (.tokReturn r) s = .next t ∧ BytesStay s t ∧ NoLines r t ∧
      if (x.moves.filter fun m => decide ((s.clk - m).toNat < 700000)).length < 7 then
        TokenSent 0x25 p r s t ∧ t.token? r = some { x with
          holder := some p, lastMove := s.clk, moves := x.moves.filter (fun m => decide ((s.clk - m).toNat < 700000)) ++ [s.clk], waiting := ws, recalled := false }
      else ∃ y, t.token? r = some y ∧ y.pinned = true ∧ y.holder = none ∧ y.waiting = [])) ∧
  (∀ (q : TokOp) (o : MemOp) (e : Elem) (w : W64) (s : State), s.tokOps = [q] → q.kind = 2 → q.region < 2 ^ 48 → s.token? q.region = none →
    s.mop? q.id = some o → o.id = q.id → o.elems = [e] → e.reg = 0 → e.size = 8 →
    ∃ t p y x, exec (.tokQueryAnswer q.id w) s = .next t ∧ t.tokOps = [] ∧ t.mop? q.id = some p ∧ p.elems = [y] ∧ y.loc = e.loc ∧ y.stage = .todo ∧
      y.data = (x : W64).setWidth 256 ∧ bitAt x 63 = true ∧ fldN x 0 8 = 1 ∧ fldN x 8 9 = s.peer.getD 0 % 2 ^ 9 ∧ fldN x 17 46 = 0) ∧
  (∀ (r p q : Nat) (x : Token) (ws : List (Option Nat)) (s : State), r < 2 ^ 48 → s.token? r = some x → x.region = r → x.holder = some q → x.pinned = false →
    x.recalled = false → x.waiting = some p :: ws → p ≠ q → x.lastMove ≠ 0 →
    ((s.clk - x.lastMove).toNat < 14000 → exec (.tokenHoldExpiry r) s = .next s) ∧
    (14000 ≤ (s.clk - x.lastMove).toNat → ∃ t, exec (.tokenHoldExpiry r) s = .next t ∧ t.token? r = some { x with recalled := true } ∧
      TokenSent 0x26 q r s t ∧ BytesStay s t)) ∧
  (∀ (r : Nat) (x : Token) (s : State), r < 2 ^ 48 → s.token? r = some x → x.holder = none → x.pinned = false → x.waiting = [] → s.tokWait = [] →
    ((∀ m ∈ x.moves, 700000 ≤ (s.clk - m).toNat) → exec (.tokenEntryExpiry r) s = .next { s with tokens := s.tokens.filter (·.region != r) }) ∧
    ((∃ m ∈ x.moves, (s.clk - m).toNat < 700000) → exec (.tokenEntryExpiry r) s = .next s))

/-- R300 to R302, R304 to R308: a service instruction without SVC raises PRIV; TLBINV removes what it names from every TLB once every access that used it is performed; FQPOP takes the oldest entry, of the layout of R305, or zeros, and rings up HEAD; FQRPL lets the page's parked accesses go on, and has no effect beyond its release where none is. The model's own choices here: logs 11 and 92. -/
def Obligations.Services : Prop :=
  (∀ (i : Instr) (f : VForm) (s : State), serviceOf i = some f → s.canTrap = true → selV f s ≠ 0 → s.G.svc = false → TrapsWith i s .priv (selV f s) (aUni f s)) ∧
  (∀ (i : Instr) (f : VForm) (s : State), serviceOf i = some f → s.issuing = true → selV f s = 0 → exec i s = .next s.retire) ∧
  (∀ (f : VForm) (s : State) (kind psize c : Nat), Serves f s → (bUni f s).toNat = kind + 4 * psize + 2 ^ 16 * c → kind < 3 → psize < 3 → c < 2 ^ 16 →
    (kind < 2 → c = s.G.ctx) → Released 4 s → NoneHeld s → s.unsettled (coverOf kind psize c (aUni f s)) = false →
    s.engineUnsettled (coverOf kind psize c (aUni f s)) = false →
    ∃ t, exec (.tlbinv f) s = .next t ∧ Registers [] s t ∧ BytesStay s t ∧
      ∀ y, y ∈ t.tlb ↔ y ∈ s.tlb ∧ ¬ Covered kind psize c (aUni f s) y.ctx y.va y.size) ∧
  (∀ (f : VForm) (s : State), s.canTrap = true → s.G.svc = true → selV f s ≠ 0 →
    (fldN (bUni f s) 0 2 = 3 ∨ fldN (bUni f s) 2 2 = 3 ∨ fldN (bUni f s) 4 12 ≠ 0 ∨ fldN (bUni f s) 32 32 ≠ 0 → TrapsWith (.tlbinv f) s .range (selV f s) (aUni f s)) ∧
    (fldN (bUni f s) 17 47 ≠ 0 → TrapsWith (.fqrpl f) s .range (selV f s) (aUni f s))) ∧
  (∀ (f : VForm) (s : State) (off : Nat), Serves f s → ScratchBuffer s (aUni f s) 32 off → s.fq.waiting = [] → s.S.acqs = [] → NoWaiters s →
    (∀ h slot : Nat, FqOldest h slot s → ∃ t, exec (.fqpop f) s = .next t ∧
      ResultBegun 32 off (fun i => BitVec.ofNat 64 (s.mem.num (slot + 8 * i) 8)) s t ∧ t.fq = s.fq ∧
      t.mem.num (h + 16) 8 = (s.mem.num (h + 16) 8 + 1) % 2 ^ 64 ∧ (∀ x, (x < h + 16 ∨ h + 24 ≤ x) → t.mem.read x = s.mem.read x) ∧
      t.spm = s.spm ∧ t.acc = s.acc ∧ t.S.acqs ≠ []) ∧
    (s.fqEmpty = true → ∃ t, exec (.fqpop f) s = .next t ∧ ResultBegun 32 off (fun _ => 0) s t ∧ t.fq = s.fq ∧ t.S.acqs ≠ [] ∧ BytesStay s t)) ∧
  (∀ e : FqEntry, e.ctx < 2 ^ 16 → e.atype < 16 → e.win < 16 → e.src < 4 → e.core < 256 → e.slot < 32 → e.dup < 2 ^ 16 → e.sq < 2 ^ 64 →
    e.bytes.length = 32 ∧ natOfBytes e.bytes = e.va.toNat + e.ctx * 2 ^ 64 + e.atype * 2 ^ 80 + e.win * 2 ^ 84 + e.src * 2 ^ 88 + e.core * 2 ^ 90 +
      e.slot * 2 ^ 98 + e.wpf.toNat * 2 ^ 103 + e.dup * 2 ^ 104 + e.clk.toNat * 2 ^ 128 + e.sq * 2 ^ 192) ∧
  (∀ (f : VForm) (s : State) (c : Nat) (fail : Bool), Serves f s → (bUni f s).toNat = c + 2 ^ 16 * fail.toNat → c < 2 ^ 16 → c = s.G.ctx → Released 4 s →
    NothingParked c ((aUni f s).toNat % 2 ^ 56 / 0x10000) s →
    (NoFetchParked c ((aUni f s).toNat % 2 ^ 56 / 0x10000) s → ∃ t, exec (.fqrpl f) s = .next t ∧ Registers [] s t ∧ BytesStay s t ∧ t.mops = s.mops ∧
      t.cam = s.cam.filter (fun e => !(e.ctx == c && e.page == (aUni f s).toNat % 2 ^ 56 / 0x10000)) ∧ ∀ g, g ≠ s.cur.1 → t.grp g = s.grp g) ∧
    (∀ (g : Group) (p : Split) (va : W64), fail = false → g ∈ s.groups → s.grp g.gid = g → (∀ h ∈ s.groups, h.gid = g.gid → h = g) → g.gid ≠ s.cur.1 → g.ctx = c →
      g.pending = [] → p ∈ g.splits → g.split p.idx = p → p.wait = .fetch va → inPage ((aUni f s).toNat % 2 ^ 56 / 0x10000) va = true →
      ∃ t, exec (.fqrpl f) s = .next t ∧ (t.grp g.gid).split p.idx = { p with wait := .none }))

/-- R301, R309 to R312, R323, R325, R347: MIGR protects the page and begins its copy; the migration moves bytes and tags, stores the new entry with the old AC and MD and ends on CPY; the ROM answers the oldest fault; CNTRD writes a counter's value and CNTCLR clears it; a scrub visit takes the row whose turn it is, counts, notes a corrected row, poisons the bad words of another and ages a clean one. The model's own choices here: log 12, 44 and 110. -/
def Obligations.MigrationAndCounters : Prop :=
  (∀ (f : VForm) (s : State) (p : W64) (leaf : Nat), Serves f s → cUni f s = BitVec.ofNat 64 s.G.ctx → s.G.ctx < 2 ^ 16 → s.G.count .cpy < 63 → NoneHeld s →
    s.walk s.G.ctx (BitVec.ofNat 64 ((aUni f s).toNat % 2 ^ 56)) = .leaf p leaf → bitAt (bUni f s) 0 = true → fldN (bUni f s) 33 2 = fldN p 33 2 →
    (bitAt (bUni f s) 4 = true → fldN (bUni f s) 6 2 = 0) →
    ∃ t o, exec (.migr f) s = .next t ∧ Registers [0x1F] s t ∧ Counts (one .cpy) s t ∧ t.copies = s.copies ++ [o] ∧ o.kind = .migr ∧ o.gid = s.cur.1 ∧
      o.a = aUni f s ∧ o.b = bUni f s ∧ o.c = cUni f s ∧ t.mem.read leaf = s.mem.read leaf ||| 0x20 ∧ (∀ x, x ≠ leaf → t.mem.read x = s.mem.read x) ∧
      t.spm = s.spm ∧ t.acc = s.acc ∧ t.tags = s.tags ∧
      ∀ y ∈ t.tlb, ¬ (y.ctx = s.G.ctx ∧ (aUni f s).toNat % 2 ^ 56 / pteBytes p * pteBytes p ≤ y.va ∧
        y.va + y.size ≤ (aUni f s).toNat % 2 ^ 56 / pteBytes p * pteBytes p + pteBytes p)) ∧
  (∀ (f : VForm) (s : State), s.canTrap = true → s.G.svc = true → selV f s ≠ 0 → fldN (cUni f s) 16 48 ≠ 0 → TrapsWith (.migr f) s .range (selV f s) (aUni f s)) ∧
  (∀ (c : CopyOp) (p : W64) (leaf a b : Nat) (s : State), MayMove c p leaf a b s → ∃ t, exec (.migrationDone c.id) s = .next t ∧ t.copies = [] ∧
    OverOn .cpy c.gid c.id t ∧ (∀ i < pteBytes p, t.mem.read (b + i) = s.mem.read (a + i)) ∧
    (∀ i < pteBytes p / 8, SMap.get 0 t.tags (b / 8 + i) = SMap.get 0 s.tags (a / 8 + i)) ∧
    t.mem.num leaf 8 = ((c.b &&& ~~~0x1800000020) ||| (BitVec.ofNat 64 (s.mem.num leaf 8) &&& 0x1800000000)).toNat ∧
    (∀ x, (x < b ∨ b + pteBytes p ≤ x) → (x < leaf ∨ leaf + 8 ≤ x) → t.mem.read x = s.mem.read x) ∧ t.spm = s.spm ∧ t.acc = s.acc ∧
    ∀ y ∈ t.l1, y.loc.overlaps 128 (.mem a) (pteBytes p) = false) ∧
  (∀ (h slot va : Nat) (x : Context) (s : State), FqOldest h slot s → va = s.mem.num slot 8 → s.ctx? (s.mem.num (slot + 8) 2) = some x → x.service = none →
    (s.popFault.mapped x.id va = true → exec .faultService s = .next (s.popFault.resumePage x.id (va / 0x10000) false)) ∧
    (s.popFault.mapped x.id va = false → (∀ d ∈ x.demand, ¬(d.1 ≤ va ∧ va < d.1 + d.2.1)) →
      exec .faultService s = .next (s.popFault.resumePage x.id (va / 0x10000) true)) ∧
    (∀ (base len : Nat) (pte : W64) (exp : Bool), s.popFault.mapped x.id va = false → x.demand = [(base, len, pte, exp)] → base ≤ va → va < base + len →
      s.popFault.mapPage x.id (va / pteBytes pte * pteBytes pte) pte exp = none →
      exec .faultService s = .next (s.popFault.resumePage x.id (va / 0x10000) true))) ∧
  (∀ (f : VForm) (s : State) (off : Nat), s.issuing = true → selV f s ≠ 0 → selectorGood (aUni f s) = true → ScratchBuffer s (bUni f s) 8 off →
    s.S.acqs = [] → ∃ t, exec (.cntrd f) s = .next t ∧
      ResultBegun 8 off (fun _ => s.counter (fldN (aUni f s) 0 8) (fldN (aUni f s) 8 12)) s t ∧ BytesStay s t) ∧
  (∀ (f : VForm) (s : State), s.issuing = true → s.signed = true → selV f s ≠ 0 → selectorGood (aUni f s) = true →
    (if fldN (aUni f s) 0 8 = 0x60 then (bUni f s).toNat ≤ 0xF else bUni f s = 0) →
    (s.G.svc = true ∨ (fldN (aUni f s) 0 8 = 0x60 ∧ fldN (aUni f s) 8 12 / 16 = s.G.core)) →
    ∃ t, exec (.cntclr f) s = .next t ∧ Registers [] s t ∧ BytesStay s t ∧ (bUni f s ≠ 3 → t.counter (fldN (aUni f s) 0 8) (fldN (aUni f s) 8 12) = 0) ∧
      (fldN (aUni f s) 0 8 = 0x60 → SMap.get 0 t.perfSel (fldN (aUni f s) 8 12) = (bUni f s).setWidth 8)) ∧
  (∀ (f : VForm) (s : State), s.canTrap = true → selV f s ≠ 0 → (selectorGood (aUni f s) = false → TrapsWith (.cntrd f) s .range (selV f s) (aUni f s)) ∧
    (s.G.svc = false → fldN (aUni f s) 0 8 ≠ 0x60 → TrapsWith (.cntclr f) s .range (selV f s) (aUni f s))) ∧
  (∀ (slice row : Nat) (words : List Nat) (s : State), slice < 64 → NextRow slice row s → (s.counter 0x10 slice).toNat + 1 < 2 ^ 48 →
    (∃ t h, exec (.scrubVisit slice row .corrected) s = .next t ∧ t.counter 0x10 slice = s.counter 0x10 slice + 1 ∧ h ∈ t.history ∧ h.slice = slice ∧ h.row = row ∧
      h.cleanVisits = 0 ∧ BytesStay s t) ∧
    (∃ t, exec (.scrubVisit slice row (.uncorrectable words)) s = .next t ∧ t.counter 0x10 slice = s.counter 0x10 slice + 1 ∧
      (∀ off ∈ words, t.poisoned (.mem ((row + off) / 8 * 8)) 8 = true) ∧ BytesStay s t ∧
      (s.events.length < 4096 → ∃ x, t.events = s.events ++ [x] ∧ x.type = 8 ∧ x.addr = BitVec.ofNat 64 row)) ∧
    (∃ t, exec (.scrubVisit slice row .clean) s = .next t ∧ t.counter 0x10 slice = s.counter 0x10 slice + 1 ∧ BytesStay s t ∧
      (∀ h ∈ t.history, h.cleanVisits < 8) ∧ (∀ h ∈ s.history, ¬(h.slice = slice ∧ h.row = row) → h.cleanVisits < 8 → h ∈ t.history) ∧
      ∀ g ∈ s.history, g.slice = slice → g.row = row → g.cleanVisits < 7 →
        ∃ h ∈ t.history, h.slice = slice ∧ h.row = row ∧ h.cleanVisits = g.cleanVisits + 1 ∧ h.corrections = g.corrections)) ∧
  (∀ (slice row : Nat) (found : ScrubFound) (s : State), NextRow slice row s → s.history = [] → s.scrubWeighted = false →
    ∃ t, exec (.scrubVisit slice row found) s = .next t ∧ NextRow slice (patrolRow slice (SMap.get 0 s.patrol slice + 1)) t) ∧
  (∀ (slice k : Nat), k < patrolRows → slice < 64 → k * 8192 ≤ patrolRow slice k ∧ patrolRow slice k < (k + 1) * 8192 ∧ sliceOf (patrolRow slice k) = slice)

/-! ### The scheduler, bring-up and the host -/

namespace Sys2Proof.Claims

/-- The pc, header and code words of the clause that a split of a group would start (R48, R49). -/
structure AtClause (g sp : Nat) (x : Group) (s u : State) (w : Nat → W64) : Prop where
  group : s.groups.find? (·.gid == g) = some x
  may : s.mayClause x (x.split sp) = true
  clean : x.badTask = false ∧ s.outsideSegment x (x.split sp).pc = false ∧ x.lateDue = none
  fetched : ∃ l, (at' g sp s).fetchLoc x (x.split sp).pc = (u, .ok l) ∧ w = u.codeBlock x (x.split sp).pc l ∧
    (∀ d, u.fetchPeer l = some d → SMap.get .absent u.peers d = .run) ∧
    u.poisoned l (8 * (fldN (w ((x.split sp).pc.toNat % 256)) 56 4 + 2)) = false

/-- The active groups of a core, the one admitted longest ago first. -/
def activeOf (core : Nat) (s : State) : List Group := sortOn (·.order) (s.groups.filter fun g => g.core == core && g.active)

/-- A swap event that finds eight active groups at clause boundaries. -/
structure SwapDue (core : Nat) (s : State) : Prop where
  due : SMap.get 0 s.lastSwap core + 256 ≤ s.clk.toNat
  ready : s.readyGroups core ≠ [] ∧ ∀ g ∈ s.readyGroups core, s.ready g = true ∧ g.readyAt.getD 0 ≤ s.tick
  active : (activeOf core s).length = 8 ∧ ∀ g ∈ activeOf core s, g.splits ≠ [] ∧ ∀ p ∈ g.splits, p.left = 0
  names : (s.groups.map (·.gid)).Nodup
  stay : ∀ g ∈ s.groups, g.active = true → s.leaves g = false

/-- A group that frees its slot, with nothing to answer for but its workgroup. -/
structure PlainEnd (x : Group) (w : Workgroup) (s : State) : Prop where
  group : s.groups.find? (·.gid == x.gid) = some x
  ended : x.ended = true ∧ (x.fatal = true ∨ x.inflight = []) ∧ (x.fatal = true ∨ bitAt x.rflt 0 = false)
  plain : x.task = 0 ∧ x.screened = false
  wg : s.wgs.find? (·.id == x.wg) = some w ∧ w.shadowOf = none

/-- The firmware has placed an empty fault queue of a legal capacity in memory (R304), or found no frame for it. -/
def QueuePlaced (s t : State) : Prop :=
  (t.fq = s.fq ∧ t.mem = s.mem) ∨ ∃ h, t.fq.header = some h ∧ t.fq.waiting = [] ∧ t.fqEmpty = true ∧ 4 ≤ t.mem.num (h + 8) 1 ∧ t.mem.num (h + 8) 1 ≤ 16 ∧
    ∀ a, (a < h ∨ h + 64 ≤ a) → t.mem.read a = s.mem.read a

/-- One step of bring-up: in its STATE it does what it does, in any other nothing (R383). -/
def InState (d : DevState) (i : Instr) (k : State → State → Prop) : Prop :=
  ∀ s : State, (s.dev = d → ∃ t, exec i s = .next t ∧ k s t) ∧ (s.dev ≠ d → exec i s = .next s)

/-- STATE changes at this clock, and nothing else but what f changes. -/
def Enters (d : DevState) (f : State → State) (s t : State) : Prop := t = f { s with dev := d, devAt := s.clk }

/-- The machine as a reset leaves it (R383, R384): as State.reset, but for what the model itself keeps. -/
def Restarted (power : Bool) (s t : State) : Prop :=
  t = { State.reset with inputs := s.inputs, tick := s.tick, nextId := s.nextId, power := power }

/-- A host access of a size that an element can have. -/
def HostSize (h : HostAccess) : Prop := h.size = 1 ∨ h.size = 2 ∨ h.size = 4 ∨ h.size = 8 ∨ h.size = 16 ∨ h.size = 32

/-- The byte of an 8-byte store at off that reaches an offset of the control aperture; 0 where none does. -/
def reaches (off : Nat) (data : W64) (a : Nat) : Nat := if off ≤ a ∧ a < off + 8 then fldN data (8 * (a - off)) 8 else 0

/-- A number of n bytes lies at a place of a memory, whose other bytes are as before. -/
def PutAt (a n v : Nat) (m k : Memory) : Prop := k.num a n = v % 2 ^ (8 * n) ∧ ∀ x, (x < a ∨ a + n ≤ x) → k.read x = m.read x

end Sys2Proof.Claims

/-- R48, R52, R56, R279: a clause whose header and words are good starts when no counter that it names is above its threshold, and waits otherwise; a bad header raises ILLCLS; at a swap event the k active groups admitted longest ago give way to the k oldest ready ones. The model's own choices here: log 11 and 60. -/
def Obligations.ClausesAndSwaps : Prop :=
  (∀ (g sp : Nat) (x : Group) (s u : State) (w : Nat → W64), AtClause g sp x s u w →
    let pc := (x.split sp).pc
    let h := w (pc.toNat % 256)
    (clauseBad w (pc.toNat % 256) = false → (∀ i < 6, bitAt h (50 + i) = true → x.count (pathOf i) ≤ fldN h 46 4) → x.cpyFault = none → x.mtxFault = none →
      ∃ t, exec (.clauseIssue g sp) s = .next t ∧ t.cur = (g, sp) ∧ t.S.pc = pc + 8 ∧ t.S.hdrPc = pc ∧ t.S.hdr = h ∧ t.S.left = fldN h 56 4 + 1 ∧
        t.S.mask = (x.split sp).mask ∧ t.S.sigb = (x.split sp).sigb ∧ t.S.sigp = (x.split sp).sigp ∧ (∀ e ∈ t.G.latch, e.1 / 256 ≠ sp) ∧
        t.G.v = x.v ∧ t.G.s = x.s ∧ t.G.bank = x.bank ∧ (∀ p, t.G.pred p = x.pred p) ∧ t.mem = u.mem ∧ t.spm = s.spm ∧ t.acc = s.acc ∧
        ∀ k, k ≠ g → t.grp k = s.grp k) ∧
    (clauseBad w (pc.toNat % 256) = false → (∃ i < 6, bitAt h (50 + i) = true ∧ fldN h 46 4 < x.count (pathOf i)) →
      exec (.clauseIssue g sp) s = .next (at' g sp s)) ∧
    (u.canTrap = true →
      fldN h 0 28 ≠ 0 ∨ (bitAt h 29 = false ∧ fldN h 30 16 ≠ 0) ∨ 256 < pc.toNat % 256 + 8 * (fldN h 56 4 + 2) ∨ pc.toNat % 8 ≠ 0 →
      ∃ t, exec (.clauseIssue g sp) s = .next t ∧ TrapEntered .illcls (x.split sp).mask pc [] u t)) ∧
  (∀ (core : Nat) (s : State), (s.clk.toNat < SMap.get 0 s.lastSwap core + 256 ∨ s.readyGroups core = [] → exec (.swapEvent core) s = .next s) ∧
    (SwapDue core s → ∃ t, exec (.swapEvent core) s = .next t ∧ SMap.get 0 t.lastSwap core = s.clk.toNat ∧
      (∀ g ∈ (activeOf core s).take (min 8 (s.readyGroups core).length), (t.grp g.gid).active = false) ∧
      (∀ g ∈ (s.readyGroups core).take (min 8 (s.readyGroups core).length), (t.grp g.gid).active = true) ∧
      ∀ g ∈ s.groups, (t.grp g.gid).v = g.v ∧ (t.grp g.gid).s = g.s ∧ (t.grp g.gid).p = g.p ∧ (t.grp g.gid).core = g.core ∧ (t.grp g.gid).slot = g.slot))

/-- R22, R23, R276, R321: a group whose watchdog has reached its limit takes WDOG in its lowest split that waits, at its instruction; an ended group whose counters are zero frees its slot and leaves its blocks to its workgroup; a workgroup's last group ends it, and its grid retires with STATE 2 when its last workgroup has ended. The model's own choices here: log 50. -/
def Obligations.WatchdogsAndEnds : Prop :=
  (∀ (g : Nat) (x : Group) (p : Split) (s : State), s.groups.find? (·.gid == g) = some x → x.ended = false → x.limit ≤ x.wdog →
    (sortOn (·.idx) (x.splits.filter (s.waits x))).head? = some p → p.wait = .stall → x.split p.idx = p → (at' g p.idx s).canTrap = true →
    (∀ o ∈ s.mops, ∀ i, o.owner = .group g i → ∀ e ∈ o.elems, ∀ n, e.stage ≠ .waiting n) → (s.counter 0x51 0).toNat + 1 < 2 ^ 32 →
    ∃ t, exec (.watchdogExpiry g) s = .next t ∧ TrapEntered .wdog p.mask 0 [] (at' g p.idx s) (at' g p.idx t) ∧ (t.grp g).wdog = 0 ∧
      t.counter 0x51 0 = s.counter 0x51 0 + 1) ∧
  (∀ (g : Nat) (x : Group) (s : State), s.groups.find? (·.gid == g) = some x → x.wdog < x.limit → exec (.watchdogExpiry g) s = .next s) ∧
  (∀ (x : Group) (w : Workgroup) (s : State), PlainEnd x w s → 2 ≤ w.live → ∃ t v, exec (.groupEnd x.gid) s = .next t ∧
    t.groups = s.groups.filter (·.gid != x.gid) ∧ t.wgs.find? (·.id == x.wg) = some v ∧ v.live = w.live - 1 ∧ v.spent = w.spent + x.nblk + x.owed ∧
    v.pool = w.pool ∧ t.grids = s.grids ∧ BytesStay s t) ∧
  (∀ (x : Group) (w : Workgroup) (g : Grid) (s : State), PlainEnd x w s → w.live = 1 → s.grids = [g] → w.grid = g.id →
    (g.ended + 1 < g.total → ∃ t, exec (.groupEnd x.gid) s = .next t ∧ (∀ v ∈ t.wgs, v.id ≠ x.wg) ∧ (∀ e ∈ t.bands, e.2 ≠ x.wg) ∧
      t.grids = [{ g with ended := g.ended + 1 }] ∧ BytesStay s t) ∧
    (∀ a p, g.ended + 1 = g.total → g.next = g.total → g.parent ≠ g.id → g.desc.compl = 0 → g.cmd = none → s.deviceLoc g.ctx (g.va + 73) = some (.mem a, p) →
      ∃ t, exec (.groupEnd x.gid) s = .next t ∧ t.grids = [] ∧ t.mem.read a = 2 ∧ (∀ b, b ≠ a → t.mem.read b = s.mem.read b) ∧
        (∀ e ∈ t.segid, e.2.2 ≠ g.id) ∧ ∀ v ∈ t.wgs, v.id ≠ x.wg)) ∧
  (∀ (x : Group) (s : State), s.groups.find? (·.gid == x.gid) = some x → (x.ended = false ∨ (x.fatal = false ∧ x.inflight ≠ [])) →
    exec (.groupEnd x.gid) s = .next s)

/-- R372, R373, R382 to R384: each step of bring-up is taken in its own STATE and leads to the next; a good patch is accepted and a bad one is refused with an event of type 0D; after training STATE is READY and no core is forced conservative; every reset starts again from BOOT, and loss of power keeps nothing; PATCHGO and RESET act, the patch area and the MSI-X table take what is written. The model's own choices here: log 10 and 56. -/
def Obligations.BringUp : Prop :=
  (∀ good, InState .boot (.romDigestCheckDone good) (Enters (if good then .test else .failed) id)) ∧
  InState .test .selfTestDone (Enters .waitpatch id) ∧
  InState .waitpatch (.patchgoPatch true) (Enters .link fun s => { s with patched := true }) ∧
  InState .waitpatch (.patchgoPatch false) (fun s t => t.dev = .link ∧ t.patched = s.patched ∧
    (s.events.length < 4096 → ∃ e, t.events = s.events ++ [e] ∧ e.type = 0x0D)) ∧
  InState .waitpatch .patchgoContinue (Enters .link id) ∧
  InState .waitpatch .patchWaitTimeout (fun s t => if 700000000 ≤ (s.clk - s.devAt).toNat then Enters .link id s t else t = s) ∧
  InState .link .linkTrainingDone (fun s t => t.dev = .ready ∧ t.devAt = s.clk ∧ t.fcons = 0 ∧ (∀ p, t.peer = some p → p < 512) ∧
    (t.peer = none ↔ t.domain = .absent) ∧ t.ports.length = s.ports.length ∧ t.ctxs = s.ctxs ∧ QueuePlaced s t ∧
    ∀ n < s.ports.length, (t.port n).lane0 = true ∧ (t.port n).lane1 = true ∧ (t.port n).lock = (s.port n).lock ∧ (t.port n).up = (s.port n).up) ∧
  (∀ s, ∃ t, exec .reset s = .next t ∧ Restarted true s t) ∧ (∀ s, ∃ t, exec .functionLevelReset s = .next t ∧ Restarted true s t) ∧
  (∀ s, ∃ t, exec .powerLoss s = .next t ∧ Restarted false s t) ∧
  (∀ s : State, (s.power = false → ∃ t, exec .powerOn s = .next t ∧ Restarted true s t) ∧ (s.power = true → exec .powerOn s = .next s)) ∧
  (∀ (data : W64) (s : State),
    (∀ off, reaches off data 0x28 % 2 = 1 → exec (.controlRegisterWrite off data) s = exec .reset s) ∧
    (∀ off, reaches off data 0x28 % 2 = 0 → reaches off data 0x20 % 2 = 1 → ∃ good, exec (.controlRegisterWrite off data) s = exec (.patchgoPatch good) s) ∧
    (∀ off, reaches off data 0x28 % 2 = 0 → reaches off data 0x20 % 4 = 2 → exec (.controlRegisterWrite off data) s = exec .patchgoContinue s) ∧
    (∀ off, 0x1000 ≤ off → off + 8 ≤ 0x2000 → ∃ t, exec (.controlRegisterWrite off data) s = .next t ∧ t = { s with msix := t.msix } ∧
      PutAt (off - 0x1000) 8 data.toNat s.msix t.msix) ∧
    (∀ off, 0x100000 ≤ off → off + 8 ≤ 0x200000 → ∃ t, exec (.controlRegisterWrite off data) s = .next t ∧ t = { s with patch := t.patch } ∧
      PutAt (off - 0x100000) 8 data.toNat s.patch t.patch) ∧
    (∀ off, reaches off data 0x28 % 2 = 0 → reaches off data 0x20 % 4 = 0 → (off + 8 ≤ 0x1000 ∨ 0x2000 ≤ off) → (off + 8 ≤ 0x100000 ∨ 0x200000 ≤ off) →
      exec (.controlRegisterWrite off data) s = .next s))

/-- R199, R372 to R376, R381: a host access through a bound aperture reads or writes the bytes of its page, at the address that BAR2 bits 39:0 and the base give, and is refused without a bound aperture; the command area reads and writes through its window; the device registers read as R373 gives; a command is taken from its queue in READY; a parked host load ends after the host wait limit. The model's own choices here: log 3. -/
def Obligations.HostAccesses : Prop :=
  (∀ (h : HostAccess) (x : Context) (base p : W64) (a : Nat) (s u : State), s.ctxs.find? (·.aperture.isSome) = some x → x.aperture = some base → HostSize h →
    h.off < 2 ^ 40 → (base + BitVec.ofNat 64 h.off).toNat < 2 ^ 56 → (base + BitVec.ofNat 64 h.off).toNat % h.size = 0 → s.mops = [] →
    s.translate 240 x.id (base + BitVec.ofNat 64 h.off) (if h.write then .store else .load) 0 = (u, .ok (.mem a) p) → bitAt p 4 = false →
    (h.write = false → u.poisoned (.mem a) h.size = false → ∃ t, exec (.hostMemoryAccess h) s = .next t ∧ t.mem = u.mem ∧ t.mops = [] ∧ t.groups = s.groups ∧
      t.replies = s.replies ++ [(h.requester, BitVec.ofNat 256 (u.mem.num a h.size))]) ∧
    (h.write = true → ∃ t, exec (.hostMemoryAccess h) s = .next t ∧ t.mops = [] ∧ t.replies = s.replies ∧ PutAt a h.size h.data.toNat u.mem t.mem)) ∧
  (∀ (h : HostAccess) (s : State), (∀ x ∈ s.ctxs, x.aperture = none) → HostSize h → ∃ t, exec (.hostMemoryAccess h) s = .next t ∧ BytesStay s t ∧
    t.replies = s.replies ++ (if h.write then [] else [(h.requester, BitVec.ofNat 256 (2 ^ (8 * h.size) - 1))]) ∧
    (s.events.length < 4096 → ∃ e, t.events = s.events ++ [e] ∧ e.type = 0x0C)) ∧
  (∀ (h : HostAccess) (a w : Nat) (s : State), HostSize h → a < 2 ^ 20 → a % h.size = 0 → h.off = 0x1000000 + 0x100000 * w + a → s.mops = [] →
    w = 0 ∨ (w = 13 ∧ h.write = false ∧ (h.size = 4 ∨ h.size = 8)) ∨ (w = 15 ∧ h.write = false ∧ (h.size = 4 ∨ h.size = 8)) →
    (h.write = false → ∃ t, exec (.commandAreaAccess h) s = .next t ∧ t.cmdMem = s.cmdMem ∧ t.mem = s.mem ∧
      t.replies = s.replies ++ [(h.requester, BitVec.ofNat 256 (s.cmdMem.num a h.size))]) ∧
    (h.write = true → 16 ≤ a → ∃ t, exec (.commandAreaAccess h) s = .next t ∧ t.mem = s.mem ∧ t.replies = s.replies ∧ PutAt a h.size h.data.toNat s.cmdMem t.cmdMem)) ∧
  (∀ (h : HostAccess) (s : State), h.off < 0x1000000 → HostSize h →
    (h.write = true → h.size ≤ 8 → h.off + 8 ≤ 0x1000 ∨ h.size = 8 →
      exec (.commandAreaAccess h) s = exec (.controlRegisterWrite h.off (BitVec.ofNat 64 (h.data.toNat % 2 ^ (8 * h.size)))) s) ∧
    (h.write = true → h.off ≤ 0x28 → 0x28 < h.off + h.size → fldN (h.data.extractLsb' (8 * (0x28 - h.off)) 64) 0 1 = 1 →
      exec (.commandAreaAccess h) s = exec .reset s) ∧
    (h.write = true → 0x1000 ≤ h.off → h.off + h.size ≤ 0x2000 → ∃ t, exec (.commandAreaAccess h) s = .next t ∧ t = { s with msix := t.msix } ∧
      PutAt (h.off - 0x1000) h.size h.data.toNat s.msix t.msix) ∧
    (h.write = false → h.size = 8 → ∃ x : BitVec 256, exec (.commandAreaAccess h) s = .next { s with replies := s.replies ++ [(h.requester, x)] } ∧
      (h.off = 0 → x = 0x00004B39000000C0) ∧
      (h.off = 8 → x = match s.dev with | .boot => 1 | .test => 2 | .waitpatch => 3 | .link => 4 | .ready => 5 | .failed => 7) ∧
      (h.off = 0x10 → x = 0xE) ∧ (h.off = 0x18 → x = 0x1F) ∧ (h.off = 0x30 → x = BitVec.ofNat 256 (s.peer.getD 0x3FF)) ∧ (h.off = 0x20 ∨ h.off = 0x28 → x = 0))) ∧
  (∀ (h : Header) (x : Loc) (s : State), s.dev = .ready → s.cmd = none → s.header (.cmd 0) 8 = some h → h.head ≠ h.tail → s.element 0 (.cmd 0) h h.head = some x → s.cmdRewritten = [] →
    (0x10000 ≤ s.num x 8 → s.num x 8 ≤ 0xFFFC0 → s.num x 8 % 64 = 0 → ∃ t c, exec .commandDequeue s = .next t ∧ t.cmd = some c ∧
      PutAt 16 8 (h.head + 1) s.cmdMem t.cmdMem ∧ c.slot = s.num x 8 ∧ c.opc.toNat = s.cmdMem.num (s.num x 8) 1 ∧
      c.cw.toNat + 64 * c.irq.toNat = s.cmdMem.num (s.num x 8 + 1) 1 % 128 ∧ c.ctx.toNat = s.cmdMem.num (s.num x 8 + 2) 2 ∧
      c.arg0.toNat = s.cmdMem.num (s.num x 8 + 8) 8 ∧ c.arg1.toNat = s.cmdMem.num (s.num x 8 + 16) 8 ∧ c.arg2.toNat = s.cmdMem.num (s.num x 8 + 24) 8 ∧
      c.arg3.toNat = s.cmdMem.num (s.num x 8 + 32) 8)) ∧
  (∀ s : State, (s.dev ≠ .ready ∨ s.cmd ≠ none) → exec .commandDequeue s = .next s) ∧
  (∀ (o : MemOp) (e : Elem) (r n : Nat) (s : State), s.mop? o.id = some o → o.owner = .host r → o.kind = .load → o.elems = [e] → (e.stage = .waiting n ∨ e.stage = .sent n) →
    (700 * s.hostWait ≤ (s.clk - o.since).toNat → ∃ t, exec (.hostWaitLimit o.id) s = .next t ∧ t.mops = s.mops.filter (·.id != o.id) ∧ BytesStay s t ∧
      t.replies = s.replies ++ [(r, if e.win = 12 then 0 else BitVec.ofNat 256 (onesOf e.size))] ∧ (e.win = 12 → t.events = s.events) ∧
      (e.win ≠ 12 → s.events.length < 4096 → ∃ x, t.events = s.events ++ [x] ∧ x.type = 5)) ∧
    ((s.clk - o.since).toNat < 700 * s.hostWait → exec (.hostWaitLimit o.id) s = .next s))

/-! ### The firmware command set -/

namespace Sys2Proof.Claims

/-- The block of a command. -/
def blockOf : Instr → Option CmdBlock
  | .negotiate c => some c
  | .ctxCreate c => some c
  | .ctxDestroy c => some c
  | .map c => some c
  | .unmap c => some c
  | .migrate c => some c
  | .launch c => some c
  | .launchCoop c => some c
  | .preempt c => some c
  | .preemptResume c => some c
  | .resetContext c => some c
  | .queryDevice c => some c
  | .queryTaskQueues c => some c
  | .queryFaultQueue c => some c
  | .queryVersion c => some c
  | .queryPeerState c => some c
  | .setOperatingPoint c => some c
  | .clearFcons c => some c
  | .setWdlim c => some c
  | .setQosDefault c => some c
  | .setPrefetchThreshold c => some c
  | .setHostWaitLimit c => some c
  | .setRecoveryLimit c => some c
  | .setDomainRun c => some c
  | .unpinRegion c => some c
  | .serviceAttach c => some c
  | .scrubCfg c => some c
  | .screenCfg c => some c
  | .linkLockUnlock c => some c
  | .linkLockLock c => some c
  | .linkLockStart c => some c
  | _ => none

/-- A command that may run (R377, R378): a version has been negotiated and no reserved field is set. -/
structure Runs (c : CmdBlock) (s : State) : Prop where
  version : s.version ≠ none
  fields : c.bad = false

/-- The context that a command names exists and is not LOST. -/
structure Names (c : CmdBlock) (x : Context) (s : State) : Prop where
  ctx : s.ctx? c.ctx.toNat = some x
  live : x.lost = false

/-- A command of the device that no LOST context refuses. -/
def NoneLost (c : CmdBlock) (s : State) : Prop := ∀ x, s.ctx? c.ctx.toNat = some x → x.lost = false

/-- No command hangs on a context's grids and launches. -/
def NoCommands (ctx : Nat) (s : State) : Prop := (∀ g ∈ s.grids, g.ctx = ctx → g.cmd = none) ∧ ∀ l ∈ s.launches, l.ctx = ctx → l.cmd = none

/-- A command has completed with a status (R376), and bytes of the command area outside its STATUS and completion word are as before. -/
structure Completed (slot cw : Nat) (irq : Bool) (st : Nat) (m : Memory) (msi : List Nat) (t : State) : Prop where
  status : t.cmdMem.num (slot + 4) 2 = st
  word : t.cmdMem.num (0x100 + 8 * cw) 8 = (m.num (0x100 + 8 * cw) 8 + 1) % 2 ^ 64
  vector : t.msi = if irq then msi ++ [cw] else msi
  rest : ∀ a, (a < slot + 4 ∨ slot + 6 ≤ a) → (a < 0x100 + 8 * cw ∨ 0x108 + 8 * cw ≤ a) → t.cmdMem.read a = m.read a

/-- Nothing of a context is left but the context itself. -/
structure Emptied (ctx : Nat) (t : State) : Prop where
  groups : ∀ g ∈ t.groups, g.ctx ≠ ctx
  wgs : ∀ w ∈ t.wgs, w.ctx ≠ ctx
  grids : ∀ g ∈ t.grids, g.ctx ≠ ctx
  launches : ∀ l ∈ t.launches, l.ctx ≠ ctx
  copies : ∀ c ∈ t.copies, c.ctx ≠ ctx
  evals : ∀ e ∈ t.evals, e.ctx ≠ ctx

end Sys2Proof.Claims

/-- R375 to R379, R409, R410: how a command completes, and with what status it is refused; NEGOTIATE chooses the highest common version; CTX_CREATE, CTX_DESTROY, MAP, UNMAP and MIGRATE. The model's own choices here: log 39 to 44. -/
def Obligations.ContextCommands : Prop :=
  (∀ (slot cw st : Nat) (irq : Bool) (s : State), 0x10000 ≤ slot → slot % 64 = 0 → cw < 64 → st < 2 ^ 16 →
    Completed slot cw irq st s.cmdMem s.msi (s.complete slot cw irq st) ∧ BytesStay s (s.complete slot cw irq st) ∧
    ∀ a b : W64, (s.complete slot cw irq st (some (a, b))).cmdMem.num (slot + 40) 8 = a.toNat ∧
      (s.complete slot cw irq st (some (a, b))).cmdMem.num (slot + 48) 8 = b.toNat ∧ (s.complete slot cw irq st (some (a, b))).cmdMem.num (slot + 4) 2 = st) ∧
  (∀ (i : Instr) (c : CmdBlock) (s : State), blockOf i = some c → (s.version = none → c.opc ≠ 1 → exec i s = .next (s.finishCmd c 2)) ∧
    (s.version ≠ none → c.bad = true → exec i s = .next (s.finishCmd c 1))) ∧
  (∀ (c : CmdBlock) (s : State), c.opc = 1 → c.bad = false → c.arg1 = 0 → c.arg2 = 0 → c.arg3 = 0 →
    (s.ctxs = [] → ∀ v : Nat, 1 ≤ v → v ≤ 3 → bitAt c.arg0 v = true → (∀ w : Nat, v < w → w ≤ 3 → bitAt c.arg0 w = false) →
      exec (.negotiate c) s = .next ({ s with version := some v }.finishCmd c 0 (some (BitVec.ofNat 64 v, 0)))) ∧
    (s.ctxs = [] → (∀ w : Nat, 1 ≤ w → w ≤ 3 → bitAt c.arg0 w = false) → exec (.negotiate c) s = .next (s.finishCmd c 2)) ∧
    (s.ctxs ≠ [] → NoneLost c s → exec (.negotiate c) s = .next (s.finishCmd c 8))) ∧
  (∀ (c : CmdBlock) (s u : State) (id : Nat) (x : Context), Runs c s → NoneLost c s → bitAt c.arg1 0 = true → 8 ≤ c.arg2.toNat → c.arg2.toNat ≤ 20 →
    c.arg0.toNat % 4096 = 0 → c.arg0.toNat + 4096 ≤ Config.hbmBytes → c.arg3.toNat < 2 ^ 56 → c.arg3.toNat % 2 ^ 40 ≤ 1 →
    (bitAt c.arg3 0 = true → ∀ y ∈ s.ctxs, y.aperture = none) → s.freeCtx = some id →
    x = { id := id, root := c.arg0, feats := c.arg1 &&& 0x1F, logq := c.arg2.toNat, aperture := if bitAt c.arg3 0 then some (c.arg3 &&& ~~~1) else none } →
    (s.newContext x = some u → id ≠ 0 ∧ id < 2 ^ 16 ∧ s.ctx? id = none ∧ u.ctxs = s.ctxs ++ [x] ∧ u.groups = s.groups ∧ u.spm = s.spm ∧
      exec (.ctxCreate c) s = .next (u.finishCmd c 0 (some (BitVec.ofNat 64 id, c.arg1 &&& 0x1F)))) ∧
    (s.newContext x = none → exec (.ctxCreate c) s = .next (s.finishCmd c 7))) ∧
  (∀ (c : CmdBlock) (s : State), Runs c s → (s.ctx? c.ctx.toNat).isSome = true → c.arg0 = 0 → c.arg1 = 0 → c.arg2 = 0 → c.arg3 = 0 →
    ((∃ g ∈ s.groups, g.ctx = c.ctx.toNat) ∨ (∃ g ∈ s.grids, g.ctx = c.ctx.toNat) → exec (.ctxDestroy c) s = .next (s.finishCmd c 8)) ∧
    (s.residents c.ctx.toNat = false → (∀ g ∈ s.grids, g.ctx ≠ c.ctx.toNat) → (∀ l ∈ s.launches, l.ctx ≠ c.ctx.toNat) → ∃ t, exec (.ctxDestroy c) s = .next t ∧
      t.ctx? c.ctx.toNat = none ∧ (∀ x ∈ s.ctxs, x.id ≠ c.ctx.toNat → ∃ y ∈ t.ctxs, y.id = x.id ∧ y.root = x.root ∧ y.feats = x.feats ∧ y.lost = x.lost) ∧
      (∀ e ∈ t.tlb, e.ctx ≠ c.ctx.toNat) ∧ (∀ e ∈ t.evals, e.ctx ≠ c.ctx.toNat) ∧ t.groups = s.groups ∧ t.cmd = none)) ∧
  (∀ (c : CmdBlock) (x : Context) (s : State), Runs c s → Names c x s → mapGood c = true → pteTier c.arg2 ≤ 1 → (bitAt c.arg2 4 = true → bitAt x.feats 1 = true) →
    (c.arg3 = 1 → ∀ n, c.arg1.toNat = n * pteBytes c.arg2 →
      (∀ u, s.mapPages c.ctx.toNat c.arg2 false ((List.range n).map fun i => c.arg0.toNat + pteBytes c.arg2 * i) = some u →
        exec (.map c) s = .next ((u.fillMcast c.ctx.toNat c.arg2).finishCmd c 0)) ∧
      (s.mapPages c.ctx.toNat c.arg2 false ((List.range n).map fun i => c.arg0.toNat + pteBytes c.arg2 * i) = none → exec (.map c) s = .next (s.finishCmd c 7))) ∧
    (c.arg3 = 2 → ∃ t, exec (.map c) s = .next t ∧ t.mem = s.mem ∧ t.cmd = none ∧
      ∃ y, t.ctx? c.ctx.toNat = some y ∧ y.demand = (c.arg0.toNat, c.arg1.toNat, c.arg2, false) :: x.demand)) ∧
  (∀ (c : CmdBlock) (x : Context) (s : State), Runs c s → Names c x s → c.arg2 = 0 → c.arg3 = 0 → s.rangeGood c = true →
    (∀ b p leaf, s.leavesIn c.ctx.toNat c.arg0.toNat c.arg1.toNat = [(b, p, leaf)] → NoneHeld s → s.unsettled (.page c.ctx.toNat b (pteBytes p)) = false →
      s.engineUnsettled (.page c.ctx.toNat b (pteBytes p)) = false →
      ∃ t, exec (.unmap c) s = .next t ∧ t.mem.read leaf = s.mem.read leaf &&& 0xFE ∧ (∀ a, a ≠ leaf → t.mem.read a = s.mem.read a) ∧
        (∀ e ∈ t.tlb, ¬(e.ctx = c.ctx.toNat ∧ b ≤ e.va ∧ e.va + e.size ≤ b + pteBytes p)) ∧ t.cmd = none) ∧
    ((∃ l ∈ s.leavesIn c.ctx.toNat c.arg0.toNat c.arg1.toNat, s.unsettled (.page c.ctx.toNat l.1 (pteBytes l.2.1)) = true) → exec (.unmap c) s = .next s)) ∧
  (∀ (c : CmdBlock) (x : Context) (s u : State) (p q : W64) (leaf : Nat), Runs c s → Names c x s → c.arg3 = 0 → c.arg2 &&& ~~~(0xFFFFFFC0000000C0 : W64) = 0 →
    s.rangeGood c = true → s.leavesIn c.ctx.toNat c.arg0.toNat c.arg1.toNat = [(c.arg0.toNat, p, leaf)] → c.arg1.toNat = pteBytes p → c.arg0.toNat % pteBytes p = 0 →
    s.walk c.ctx.toNat c.arg0 = .leaf p leaf → q = (p &&& ~~~(0xFFFFFFC0000000E0 : W64)) ||| (c.arg2 &&& 0xFFFFFFC0000000C0) → leafGood (fldN q 33 2) q = true →
    fldN c.arg2 38 26 + c.arg1.toNat / 0x10000 ≤ 2 ^ 26 → s.takeFrames [q] = some u → NoneHeld s →
    ∃ t o, exec (.migrate c) s = .next t ∧ t.copies = s.copies ++ [o] ∧ o.kind = .migr ∧ o.a = c.arg0 ∧ o.b = q ∧ o.c.toNat = c.ctx.toNat ∧ t.cmd = none ∧
      t.mem.read leaf = s.mem.read leaf ||| 0x20 ∧ (∀ a, a ≠ leaf → t.mem.read a = s.mem.read a) ∧ ∃ m ∈ t.migrates, m.op = o.id ∧ m.cmd = (c.slot, c.cw.toNat, c.irq))

/-- R17, R37 to R39, R271, R379: LAUNCH and LAUNCH_COOP queue a good descriptor with COOP as the command sets it; PREEMPT stops dispatch, sets SR_PREQ and starts its deadline, or completes where no group is resident; RESUME lets dispatch go on; after the deadline the context is killed and LOST; RESET_CONTEXT kills it and leaves it usable. The model's own choices here: log 45 and 46. -/
def Obligations.LaunchAndPreempt : Prop :=
  (∀ (i : Instr) (c : CmdBlock) (x : Context) (coop : Bool) (n : Nat) (s u : State), (i = .launch c ∧ coop = false) ∨ (i = .launchCoop c ∧ coop = true) →
    Runs c s → Names c x s → c.arg1 = 0 → c.arg2 = 0 → c.arg3 = 0 →
    (c.arg0.toNat % 128 ≠ 0 ∨ s.deviceRead c.ctx.toNat c.arg0 128 = none → exec i s = .next (s.finishCmd c 4)) ∧
    (c.arg0.toNat % 128 = 0 → s.deviceRead c.ctx.toNat c.arg0 128 = some n →
      u = s.deviceWrite c.ctx.toNat (c.arg0 + 31) [BitVec.ofNat 8 (n / 2 ^ 248 % 256 / 2 * 2 + coop.toNat)] →
      (∀ st, u.descStatus c.ctx.toNat { descOf n with coop := coop } = some st → exec i s = .next (u.finishCmd c st)) ∧
      (u.descStatus c.ctx.toNat { descOf n with coop := coop } = none →
        (64 ≤ (s.launches.filter fun l => l.ctx == c.ctx.toNat && l.prio == (descOf n).prio).length → exec i s = .next u) ∧
        ((s.launches.filter fun l => l.ctx == c.ctx.toNat && l.prio == (descOf n).prio).length < 64 → exec i s = .next { u with
          cmd := none, launches := s.launches ++ [{ ctx := c.ctx.toNat, prio := (descOf n).prio, va := c.arg0, coop := coop, cmd := some (c.slot, c.cw.toNat, c.irq) }] })))) ∧
  (∀ (c : CmdBlock) (x : Context) (s : State), Runs c s → Names c x s → c.arg0 = 0 → c.arg2 = 0 → c.arg3 = 0 → (∀ y ∈ s.ctxs, y.deadline = none) → (s.ctxs.map (·.id)).Nodup →
    (s.residents c.ctx.toNat = true → ∃ t y, exec (.preempt c) s = .next t ∧ t.ctx? c.ctx.toNat = some y ∧ y.preempt = true ∧
      y.deadline = some (BitVec.ofNat 64 (min (s.clk.toNat + 700 * (if c.arg1 = 0 then 50000 else c.arg1.toNat)) (2 ^ 64 - 1)), (c.slot, c.cw.toNat, c.irq)) ∧
      (∀ g ∈ t.groups, g.ctx = c.ctx.toNat → g.preq = true) ∧ t.cmd = none ∧ t.cmdMem = s.cmdMem ∧ t.dispatches c.ctx.toNat = false ∧ BytesStay s t) ∧
    (s.residents c.ctx.toNat = false → 0x10000 ≤ c.slot → c.slot % 64 = 0 → ∃ t, exec (.preempt c) s = .next t ∧ t.dispatches c.ctx.toNat = false ∧ t.cmd = none ∧
      Completed c.slot c.cw.toNat c.irq 0 s.cmdMem s.msi t)) ∧
  (∀ (c : CmdBlock) (x : Context) (s : State), Runs c s → Names c x s → c.arg0 = 1 → c.arg2 = 0 → c.arg3 = 0 → ∃ t, exec (.preemptResume c) s = .next t ∧
    t.dispatches c.ctx.toNat = true ∧ (∀ g ∈ t.groups, g.ctx = c.ctx.toNat → g.preq = false) ∧ t.cmd = none ∧ BytesStay s t) ∧
  (∀ (ctx slot cw : Nat) (irq : Bool) (d : W64) (x : Context) (s : State), s.ctx? ctx = some x → x.deadline = some (d, (slot, cw, irq)) →
    (s.clk.toNat < d.toNat → exec (.preemptDeadline ctx) s = .next s) ∧
    (d.toNat ≤ s.clk.toNat → NoCommands ctx s → 0x10000 ≤ slot → slot % 64 = 0 → cw < 64 → ∃ t, exec (.preemptDeadline ctx) s = .next t ∧ Emptied ctx t ∧
      (∃ y, t.ctx? ctx = some y ∧ y.lost = true ∧ y.deadline = none) ∧ Completed slot cw irq 9 s.cmdMem s.msi t ∧
      ∀ g ∈ s.groups, g.ctx ≠ ctx → g ∈ t.groups)) ∧
  (∀ (c : CmdBlock) (s : State), Runs c s → (s.ctx? c.ctx.toNat).isSome = true → c.arg0 = 0 → c.arg1 = 0 → c.arg2 = 0 → c.arg3 = 0 →
    ∃ t y, exec (.resetContext c) s = .next t ∧ Emptied c.ctx.toNat t ∧ t.ctx? c.ctx.toNat = some y ∧ y.lost = false ∧ y.preempt = false ∧ y.deadline = none ∧
      t.cmd = none ∧ ∀ g ∈ s.groups, g.ctx ≠ c.ctx.toNat → g ∈ t.groups)

/-- R309, R310, R340, R367, R379, R380, R385, R411: what each QUERY answers, what each SET_MODE item changes, DENIED for a device item that names a context, and SERVICE_ATTACH, SCRUB_CFG, SCREEN_CFG and LINK_LOCK. The model's own choices here: log 19, 33 and 47. -/
def Obligations.SettingCommands : Prop :=
  (∀ (c : CmdBlock) (s : State), Runs c s → c.arg2 = 0 → c.arg3 = 0 →
    (c.arg0 = 0 → c.arg1 = 0 → s.patched = false → s.dev = .ready → exec (.queryDevice c) s =
      .next (s.finishCmd c 0 (some (0x00004B39000000C0, BitVec.ofNat 64 (5 + s.peer.getD 0x3FF * 2 ^ 16))))) ∧
    (c.arg0 = 2 → c.arg1 = 0 → ∃ a b, exec (.queryFaultQueue c) s = .next (s.finishCmd c 0 (some (a, b)))) ∧
    (c.arg0 = 3 → c.arg1 = 0 → c.ctx = 0 → exec (.queryVersion c) s = .next (s.finishCmd c 0 (some (BitVec.ofNat 64 (s.version.getD 0), 0x1F)))) ∧
    (c.arg0 = 3 → c.arg1 = 0 → c.ctx ≠ 0 → ∀ x, s.ctx? c.ctx.toNat = some x →
      exec (.queryVersion c) s = .next (s.finishCmd c 0 (some (BitVec.ofNat 64 (s.version.getD 0), x.feats)))) ∧
    (c.arg0 = 4 → c.arg1.toNat ≤ 511 → ∀ own, s.peer = some own → own ≠ c.arg1.toNat → ∃ n, exec (.queryPeerState c) s = .next (s.finishCmd c 0 (some (BitVec.ofNat 64 n, 0))) ∧
      (n = 0 ↔ SMap.get .absent s.peers c.arg1.toNat = .absent) ∧ (n = 1 ↔ SMap.get .absent s.peers c.arg1.toNat = .run) ∧
      (n = 2 ↔ SMap.get .absent s.peers c.arg1.toNat = .degraded) ∧ (n = 3 ↔ SMap.get .absent s.peers c.arg1.toNat = .recovering) ∧
      (n = 4 ↔ SMap.get .absent s.peers c.arg1.toNat = .fenced)) ∧
    (∀ (a : Nat) (p : W64), c.arg0 = 1 → (s.ctx? c.ctx.toNat).isSome = true → c.arg1.toNat % 8 = 0 → c.arg1.toNat + 768 ≤ 2 ^ 56 →
      bitAt p 2 = true → bitAt p 8 = true →
      (∀ m : Memory, (∀ x, (x < a ∨ a + 768 ≤ x) → m.read x = s.mem.read x) → ∀ k < 96,
        State.deviceLoc { s with mem := m } c.ctx.toNat (c.arg1 + BitVec.ofNat 64 (8 * k)) = some (.mem (a + 8 * k), p)) →
      ∃ u : State, exec (.queryTaskQueues c) s = .next (u.finishCmd c 0 (some (0, 0))) ∧ u.groups = s.groups ∧ u.spm = s.spm ∧
        (∀ k < 96, u.mem.num (a + 8 * k) 8 = 0xFFFF0000000000 + 64 * k) ∧ ∀ x, (x < a ∨ a + 768 ≤ x) → u.mem.read x = s.mem.read x) ∧
    (c.arg0 = 1 → (s.ctx? c.ctx.toNat).isSome = true → c.arg1.toNat % 8 = 0 → c.arg1.toNat + 768 ≤ 2 ^ 56 →
      (∀ k < 96, ∃ p x, s.walk c.ctx.toNat (c.arg1 + BitVec.ofNat 64 (8 * k)) = .leaf p x ∧ pteTier p = 3 ∧ bitAt p 2 = true ∧ bitAt p 8 = true) →
      exec (.queryTaskQueues c) s = .next (s.finishCmd c 0 (some (0, 0))))) ∧
  (∀ (c : CmdBlock) (s : State), Runs c s → NoneLost c s → c.arg3 = 0 → c.ctx = 0 →
    (c.arg0 = 0 → c.arg2 = 0 → (c.arg1 = 1 → exec (.setOperatingPoint c) s = .next ({ s with point := .bal }.finishCmd c 0)) ∧
      (∀ p, (c.arg1 = 0 ∧ p = .full) ∨ (c.arg1 = 2 ∧ p = .memh) ∨ (c.arg1 = 3 ∧ p = .screen) → ∃ t, exec (.setOperatingPoint c) s = .next t ∧
        t.point = p ∧ t.cmd = none ∧ BytesStay s t ∧ ∀ n < s.ports.length, t.port n =
          if (s.port n).idleNarrow = true ∧ (s.port n).lane0 = true ∧ (s.port n).lane1 = true then
            { s.port n with width := 2, idleNarrow := false, retraining := true } else s.port n)) ∧
    (c.arg0 = 1 → c.arg1 = 0 → (c.arg2 = 0xFF → exec (.clearFcons c) s = .next ({ s with fcons := 0 }.finishCmd c 0)) ∧
      (c.arg2.toNat < 192 → ∃ t, exec (.clearFcons c) s = .next t ∧ ∀ k < 192, bitAt t.fcons k = (bitAt s.fcons k && decide (k ≠ c.arg2.toNat)))) ∧
    (c.arg0 = 5 → c.arg2 = 0 → 1 ≤ c.arg1.toNat → c.arg1.toNat ≤ 1000 → exec (.setHostWaitLimit c) s = .next ({ s with hostWait := c.arg1.toNat }.finishCmd c 0)) ∧
    (c.arg0 = 6 → c.arg2 = 0 → 1 ≤ c.arg1.toNat → c.arg1.toNat ≤ 60 → exec (.setRecoveryLimit c) s = .next ({ s with recovery := c.arg1.toNat }.finishCmd c 0)) ∧
    (c.arg0 = 7 → c.arg1 = 0 → c.arg2 = 0 → s.peer.isSome = true → exec (.setDomainRun c) s = .next ({ s with domain := .run }.finishCmd c 0)) ∧
    (c.arg0 = 8 → c.arg1 = 0 → c.arg2.toNat < Config.tier1Base + Config.lpddrBytes → ∃ t, exec (.unpinRegion c) s = .next t ∧ t.cmd = none ∧
      (∀ x, s.token? (c.arg2.toNat / 2 ^ 21) = some x → t.token? (c.arg2.toNat / 2 ^ 21) = some { x with pinned := false }) ∧
      ∀ r, r ≠ c.arg2.toNat / 2 ^ 21 → t.token? r = s.token? r)) ∧
  (∀ (c : CmdBlock) (s : State), Runs c s → NoneLost c s → c.arg3 = 0 → c.ctx ≠ 0 → c.arg0 = 5 → c.arg2 = 0 → 1 ≤ c.arg1.toNat → c.arg1.toNat ≤ 1000 →
    exec (.setHostWaitLimit c) s = .next (s.finishCmd c 0x0C)) ∧
  (∀ (c : CmdBlock) (x : Context) (s : State), Runs c s → Names c x s → c.arg2 = 0 → c.arg3 = 0 →
    (c.arg0 = 2 → c.arg1.toNat < 2 ^ 40 → ∃ t, exec (.setWdlim c) s = .next t ∧ t.ctx? c.ctx.toNat = some { x with wdlim := c.arg1.setWidth 40 } ∧ t.groups = s.groups) ∧
    (c.arg0 = 3 → c.arg1.toNat < 2 ^ 16 → ∃ t, exec (.setQosDefault c) s = .next t ∧ t.ctx? c.ctx.toNat = some { x with qos := c.arg1.setWidth 16 } ∧ t.groups = s.groups) ∧
    (∀ th lb, c.arg0 = 4 → c.arg1.toNat = th + 2 ^ 8 * lb → 1 ≤ th → th ≤ 99 → 17 ≤ lb → lb ≤ 25 →
      ∃ t, exec (.setPrefetchThreshold c) s = .next t ∧ t.ctx? c.ctx.toNat = some { x with thresh := th, logBlock := lb } ∧ t.groups = s.groups) ∧
    (∀ k, c.arg0.toNat = 2 ^ k → 4 ≤ k → k ≤ 16 → 1 ≤ c.arg1.toNat → c.arg1.toNat < 2 ^ 32 →
      ∃ t, exec (.screenCfg c) s = .next t ∧ t.ctx? c.ctx.toNat = some { x with screenN := 2 ^ k, lfsr := c.arg1.setWidth 32 })) ∧
  (∀ (c : CmdBlock) (s : State), Runs c s → NoneLost c s → c.arg2 = 0 → c.arg3 = 0 →
    (1 ≤ c.arg0.toNat → c.arg0.toNat ≤ 10000 → c.arg1.toNat ≤ 1 → exec (.scrubCfg c) s =
      .next ({ s with scrubPeriod := c.arg0.toNat, scrubWeighted := bitAt c.arg1 0 }.finishCmd c 0)) ∧
    (∀ x n, c.arg1.toNat < 2 ^ 16 → s.ctx? c.arg1.toNat = some x →
      (c.arg0 = 0 → ∃ t, exec (.serviceAttach c) s = .next t ∧ t.ctx? c.arg1.toNat = some { x with service := none }) ∧
      (c.arg0 ≠ 0 → (s.ctx? c.ctx.toNat).isSome = true → c.arg0.toNat % 128 = 0 → s.deviceRead c.ctx.toNat c.arg0 128 = some n →
        ((descOf n).svc = true → ∃ t, exec (.serviceAttach c) s = .next t ∧ t.ctx? c.arg1.toNat = some { x with service := some (c.ctx.toNat, c.arg0) }) ∧
        ((descOf n).svc = false → exec (.serviceAttach c) s = .next (s.finishCmd c 0x0C)))) ∧
    (∀ n, c.arg0.toNat = n → n < 72 → n < s.ports.length →
      (c.arg1 = 0 → ∃ t, exec (.linkLockUnlock c) s = .next t ∧ (t.port n).lock = .unlocked ∧ (t.port n).keys = false ∧ (t.port n).up = false ∧ t.cmd = none) ∧
      (c.arg1 = 1 → (s.port n).lock = .unlocked → (s.port n).spdm = .session → (s.port n).version ≠ 0 →
        ∃ t d, exec (.linkLockLock c) s = .next t ∧ t.port n = { s.port n with lock := .locked, digest := some d } ∧ t.cmd = none) ∧
      (c.arg1 = 1 → (s.port n).lock ≠ .unlocked → exec (.linkLockLock c) s = .next (s.finishCmd c 0x0D)) ∧
      (c.arg1 = 2 → (s.port n).lock ≠ .locked → exec (.linkLockStart c) s = .next (s.finishCmd c 0x0D)) ∧
      (c.arg1 = 2 → (s.port n).lock = .locked → ∃ t, exec (.linkLockStart c) s = .next t ∧ t.cmd = none ∧
        (t = s.finishCmd c 0x0D ∨ t.port n = { s.port n with lock := .run }))))

/-! ### Links and packets -/

namespace Sys2Proof.Claims

/-- Port n becomes p, and no other port changes. -/
def PortIs (n : Nat) (p : Port) (s t : State) : Prop := t.port n = p ∧ t.ports.length = s.ports.length ∧ ∀ m, m ≠ n → t.port m = s.port m

/-- Port n becomes p, and nothing else of the machine changes. -/
def OnlyPort (n : Nat) (p : Port) (s t : State) : Prop := t = { s with ports := t.ports } ∧ PortIs n p s t

/-- The SPDM messages that take the exchange on by one step (R368): the port, the steps after which each may come, and the step it reaches. -/
def spdmOf : Instr → Option (Nat × List Spdm × Spdm)
  | .negotiateAlgorithms n common => some (n, [.capabilities], if common then .algorithms else .idle)
  | .getDigests n => some (n, [.algorithms], .digests)
  | .getCertificate n => some (n, [.digests], .certificate)
  | .challenge n => some (n, [.certificate], .authenticated)
  | .keyExchange n => some (n, [.certificate, .authenticated], .exchanged)
  | _ => none

/-- A request of one element of 2^k bytes at offset o of a line homed here, exported to its context (R360, R363). -/
structure OneAsked (p : Packet) (o : Nat) (s : State) : Prop where
  size : p.sz.toNat ≤ 3 ∧ o % 2 ^ p.sz.toNat = 0 ∧ o + 2 ^ p.sz.toNat ≤ 128
  fields : p.bad = false ∧ p.scope ≠ 7 ∧ p.be = enables o (2 ^ p.sz.toNat) ∧ p.data.length = 128
  serving : s.domain ≠ .recovering ∧ s.domain ≠ .fenced
  free : s.mops = [] ∧ s.token? ((128 * p.line.toNat + o) / 2 ^ 21) = none ∧ s.tag (.mem (128 * p.line.toNat + o)) = 0

/-- One answer has been sent (R361): to the sender, with the tag, and with a status. -/
def Answered (type stat : Nat) (p : Packet) (data : List Byte → Prop) (s t : State) : Prop :=
  ∃ q, t.sent = s.sent ++ [q] ∧ q.type = BitVec.ofNat 6 type ∧ q.stat = BitVec.ofNat 6 stat ∧ q.tag = p.tag ∧ q.port = p.port ∧ q.dst.toNat = p.src.toNat ∧ data q.data

/-- The data of a packet hold the bytes of memory from a on at offset o, n of them. -/
def Carries (m : Memory) (a o n : Nat) (d : List Byte) : Prop := ∀ i < n, d.getD (o + i) 0 = m.read (a + i)

/-- An operation of one element that has been sent to a peer in a packet, which is unanswered. -/
structure InPacket (o : MemOp) (e : Elem) (q : Packet) (s : State) : Prop where
  sent : s.sent = [q] ∧ isRequest q.type = true
  op : s.mops = [o] ∧ o.elems = [e] ∧ o.hold = false ∧ o.faults = [] ∧ o.paths = [.rmt] ∧ o.opc ≠ 0xAA
  engines : s.copies = [] ∧ s.lathe = [] ∧ s.rings = [] ∧ s.enqReads = []
  group : ∃ g i, o.owner = .group g i
  stage : e.stage = .sent (2048 * q.port + q.tag.toNat)

/-- No fetch waits for a peer (R345). -/
def NoFetchWaits (s : State) : Prop := ∀ g ∈ s.groups, ∀ p ∈ g.splits, ∀ d c, p.wait ≠ .remote d c

/-- The lane in use is one in lock, of the one or two that are (R365). -/
def RunsOn (p : Port) : Prop := p.width = 1 ∧ (p.lane = 0 ∨ p.lane = 1) ∧ (if p.lane = 0 then p.lane0 else p.lane1) = true

/-- A flit that a port takes: whole, with the CRC-32C of its payload and number, and of the number expected (R357, R358). -/
structure Expected (n : Nat) (f : Flit) (s : State) : Prop where
  whole : f.whole = true
  crc : f.crc = crc32c (bytesOf 32 f.payload ++ [f.sq])
  next : f.sq = (s.port n).rxSeq

/-- The payloads of a frame as they were before encryption, and the tag flit that ends it (R369). -/
def plainOf (p : Port) : List (BitVec 256) := p.frame.zipIdx.map fun x => x.1 ^^^ Config.keystream p.rxKey p.rxIv x.2
def EndsFrame (p : Port) (f : Flit) : Prop :=
  f.payload = BitVec.ofNat 256 ((Config.tagOf p.rxKey p.rxIv p.frame).toNat + p.frame.length * 2 ^ 128)

/-- A frame's tag has failed for the first time (R369): its flits are discarded, and asked for from the first. -/
def FrameAsked (n : Nat) (s t : State) : Prop :=
  (t.port n).tagFails = 1 ∧ (t.port n).rxSeq = (s.port n).frameSeq ∧ (t.port n).frame = [] ∧ (t.port n).asks = (s.port n).asks ++ [(s.port n).frameSeq] ∧
    (t.port n).accepted = (s.port n).accepted ∧ (t.port n).acks = (s.port n).acks ∧ (t.port n).rxIv = (s.port n).rxIv ∧ t.arrived = s.arrived

/-- An operation of one element that waits in the remote-wait table for a peer. -/
structure Waits (o : MemOp) (e : Elem) (peer g : Nat) (s : State) : Prop where
  op : s.mops = [o] ∧ o.elems = [e] ∧ o.hold = false ∧ o.faults = [] ∧ o.opc ≠ 0xE2 ∧ o.opc ≠ 0xAA ∧ e.stage = .remoteWait
  engines : (∀ c ∈ s.copies, c.reads = []) ∧ NoFetchWaits s
  loc : ∃ a, e.loc = .peer peer a
  group : (∃ i, o.owner = .group g i) ∧ (s.group? g).isSome = true ∧ bitAt (s.grp g).rflt 0 = false

/-- SR_RFLT after the first failed acknowledgement (R100): V, PEER, STAT, and the low bits of the address. -/
def failure (peer stat : Nat) (va : W64) : W64 := BitVec.ofNat 64 (1 + 2 * (peer % 512) + 2 ^ 10 * stat + 2 ^ 16 * fldN va 0 32)

end Sys2Proof.Claims

/-- R355, R357, R358, R365, R367 to R370, R386: the SPDM messages take an UNLOCKED port through its exchange in order; the end of a session, the loss of both lanes and a second failure of a frame and a write of the link's configuration lead a running port to ERROR; flits are taken in order and once, into frames that their tags admit, acknowledged and resent; a port narrows and widens as its lanes do. The model's own choices here: log 20 and 33. -/
def Obligations.Links : Prop :=
  (∀ (i : Instr) (n : Nat) (before : List Spdm) (after : Spdm) (s : State), spdmOf i = some (n, before, after) → n < s.ports.length →
    ((s.port n).lock = .unlocked → (s.port n).spdm ∈ before → ∃ t, exec i s = .next t ∧ OnlyPort n { s.port n with spdm := after } s t) ∧
    ((s.port n).lock ≠ .unlocked ∨ (s.port n).spdm ∉ before → exec i s = .next s)) ∧
  (∀ (n : Nat) (s : State), n < s.ports.length →
    ((s.port n).lock = .unlocked → ∃ t, exec (.getVersion n) s = .next t ∧ OnlyPort n { s.port n with spdm := .version, keys := false } s t) ∧
    (∃ t, exec (.getMeasurements n) s = .next t ∧ OnlyPort n { s.port n with reported := (s.port n).digest } s t) ∧
    (∀ v, (s.port n).lock = .unlocked → (s.port n).spdm = .version → ∃ t, exec (.getCapabilities ⟨n, v⟩) s = .next t ∧
      OnlyPort n { s.port n with
        spdm := if v = 0x12 ∨ v = 0x13 then .capabilities else .idle, spdmVersion := if v = 0x12 ∨ v = 0x13 then v else 0 } s t) ∧
    (∀ v, (s.port n).lock ≠ .unlocked ∨ (s.port n).spdm ≠ .version → exec (.getCapabilities ⟨n, v⟩) s = .next s) ∧
    ((s.port n).lock = .unlocked → (s.port n).spdm = .exchanged →
      (∃ t a b, exec (.finish ⟨n, true⟩) s = .next t ∧ OnlyPort n { s.port n with
        spdm := .session, keys := true, iv := 0, rxIv := 0, txKey := a, rxKey := b } s t) ∧
      ∃ t, exec (.finish ⟨n, false⟩) s = .next t ∧ OnlyPort n { s.port n with spdm := .idle } s t) ∧
    (∀ proven, (s.port n).lock ≠ .unlocked ∨ (s.port n).spdm ≠ .exchanged → exec (.finish ⟨n, proven⟩) s = .next s) ∧
    ((s.port n).spdm = .session → ∃ t, exec (.keyUpdate n) s = .next t ∧ OnlyPort n { s.port n with
      iv := 0, rxIv := 0, txKey := Config.nextKey (s.port n).txKey, rxKey := Config.nextKey (s.port n).rxKey } s t) ∧
    ((s.port n).spdm = .session → ∃ t, exec (.endSession n) s = .next t ∧ (t.port n).spdm = .ended ∧ (t.port n).keys = false ∧
      ((s.port n).lock = .locked ∨ (s.port n).lock = .run → (t.port n).lock = .error ∧ (t.port n).up = false) ∧
      ((s.port n).lock = .unlocked → (t.port n).lock = .unlocked)) ∧
    (2 ^ 32 ≤ (s.port n).iv.toNat → ∃ t, exec (.frameLimitKeyUpdate n) s = .next t ∧
      OnlyPort n { s.port n with iv := 0, txKey := Config.nextKey (s.port n).txKey } s t) ∧
    ((s.port n).lock = .run → (s.port n).tagFails = 0 → ∃ t, exec (.frameTagFail n) s = .next t ∧ OnlyPort n { s.port n with
      tagFails := 1, rxSeq := (s.port n).frameSeq, frame := [], asks := (s.port n).asks ++ [(s.port n).frameSeq] } s t) ∧
    ((s.port n).lock = .run → (s.port n).tagFails ≠ 0 → ∃ t, exec (.frameTagFail n) s = .next t ∧ (t.port n).lock = .error ∧ (t.port n).up = false) ∧
    (∀ offer : Byte, (s.port n).lock = .unlocked → ∃ t, exec (.linkVersionOffer n offer) s = .next t ∧
      OnlyPort n { s.port n with version := if bitAt offer 2 then 2 else 0 } s t) ∧
    (∀ offer : Byte, (s.port n).lock = .locked ∨ (s.port n).lock = .run → ∃ t, exec (.linkVersionOffer n offer) s = .next t ∧
      (t.port n).lock = .error ∧ (t.port n).up = false ∧ (t.port n).version = (s.port n).version)) ∧
  (∀ (n : Nat) (f : Flit) (s : State), n < s.ports.length → (s.port n).up = true →
    (Expected n f s → f.tag = false → (s.port n).frame.length < 16 → ∃ t, exec (.flitReceive n f) s = .next t ∧ (t.port n).rxSeq = (s.port n).rxSeq + 1 ∧
      (t.port n).frame = (s.port n).frame ++ [f.payload] ∧ (t.port n).accepted = (s.port n).accepted ∧ (t.port n).acks = (s.port n).acks ∧
      (t.port n).asks = (s.port n).asks ∧ t.arrived = s.arrived ∧ BytesStay s t) ∧
    (Expected n f s → f.tag = true → EndsFrame (s.port n) f → ∃ t, exec (.flitReceive n f) s = .next t ∧ (t.port n).rxSeq = (s.port n).rxSeq + 1 ∧
      (t.port n).acks = (s.port n).acks ++ [f.sq] ∧ (t.port n).asks = (s.port n).asks ∧ (t.port n).frame = [] ∧ (t.port n).frameSeq = f.sq + 1 ∧
      (t.port n).rxIv = (s.port n).rxIv + 1 ∧ (t.port n).tagFails = 0 ∧ BytesStay s t ∧
      (∀ k rest, parsePacket n ((s.port n).accepted ++ plainOf (s.port n)) = some (k, rest) → parsePacket n rest = none →
        t.arrived = s.arrived ++ [k] ∧ (t.port n).accepted = rest) ∧
      (parsePacket n ((s.port n).accepted ++ plainOf (s.port n)) = none →
        t.arrived = s.arrived ∧ (t.port n).accepted = (s.port n).accepted ++ plainOf (s.port n))) ∧
    (Expected n f s → f.tag = true → ¬ EndsFrame (s.port n) f → ((s.port n).tagFails = 0 → ∃ t, exec (.flitReceive n f) s = .next t ∧ FrameAsked n s t) ∧
      ((s.port n).tagFails ≠ 0 → (s.port n).lock = .run → ∃ t, exec (.flitReceive n f) s = .next t ∧ (t.port n).lock = .error ∧ (t.port n).up = false)) ∧
    (¬ Expected n f s → ∃ t, exec (.flitReceive n f) s = .next t ∧ (t.port n).rxSeq = (s.port n).rxSeq ∧ (t.port n).frame = (s.port n).frame ∧
      (t.port n).accepted = (s.port n).accepted ∧ (t.port n).acks = (s.port n).acks ∧ (t.port n).asks = (s.port n).asks ++ [(s.port n).rxSeq] ∧ t.arrived = s.arrived)) ∧
  (∀ (n : Nat) (a b : List Flit) (f : Flit) (s : State), n < s.ports.length → (s.port n).replay = a ++ f :: b → (∀ x ∈ a, x.sq ≠ f.sq) →
    ((s.port n).outq = [] → ∃ t, exec (.linkAckReceive n f.sq) s = .next t ∧ OnlyPort n { s.port n with replay := b } s t) ∧
    (∃ t, exec (.replayRequest n f.sq) s = .next t ∧ PortIs n { s.port n with wire := (s.port n).wire ++ f :: b } s t ∧ t = { s with ports := t.ports, counters := t.counters })) ∧
  (∀ (n : Nat) (s : State), n < s.ports.length →
    ((s.port n).lane0 = true → (s.port n).lane1 = true → (s.port n).width = 2 → ∃ t, exec (.laneLossOfLock n) s = .next t ∧ (t.port n).width = 1 ∧
      (t.port n).retraining = true ∧ (t.port n).narrowAt = s.clk ∧ (t.port n).lane0 = !(t.port n).lane1 ∧ RunsOn (t.port n) ∧ (t.port n).lock = (s.port n).lock ∧ (t.port n).up = (s.port n).up) ∧
    ((s.port n).lane0 = true → (s.port n).lane1 = true → RunsOn (s.port n) → ∃ t, exec (.laneLossOfLock n) s = .next t ∧ RunsOn (t.port n) ∧
      (t.port n).lane0 = !(t.port n).lane1 ∧ (t.port n).lock = (s.port n).lock ∧ (t.port n).up = (s.port n).up) ∧
    ((s.port n).lane0 = false ∨ (s.port n).lane1 = false → ∃ t, exec (.laneLossOfLock n) s = .next t ∧ (t.port n).lane0 = false ∧ (t.port n).lane1 = false ∧
      (t.port n).up = false ∧ ((s.port n).lock = .locked ∨ (s.port n).lock = .run → (t.port n).lock = .error)) ∧
    ((s.port n).retraining = true → (s.port n).outq = [] → ∃ t, exec (.retrainComplete n) s = .next t ∧
      PortIs n { s.port n with retraining := false, wire := (s.port n).wire ++ (s.port n).replay } s t) ∧
    ((s.port n).width = 1 → (s.port n).idleNarrow = false → (s.port n).lane0 = true ∨ (s.port n).lane1 = true →
      (70000000 ≤ (s.clk - (s.port n).narrowAt).toNat → ∃ t, exec (.widthRestore n) s = .next t ∧
        PortIs n { s.port n with lane0 := true, lane1 := true, width := 2, retraining := true } s t) ∧
      ((s.clk - (s.port n).narrowAt).toNat < 70000000 → exec (.widthRestore n) s = .next s)) ∧
    (s.point = .bal → (s.port n).width = 2 → (s.port n).outq = [] → 7000 ≤ (s.clk - (s.port n).lastFlit).toNat → ∃ t k, exec (.idlePortNarrow n) s = .next t ∧
      k < 2 ∧ PortIs n { s.port n with width := 1, lane := k, retraining := true, narrowAt := s.clk, idleNarrow := true } s t) ∧
    ((s.point ≠ .bal ∨ (s.clk - (s.port n).lastFlit).toNat < 7000) → exec (.idlePortNarrow n) s = .next s) ∧
    ((s.port n).lock ≠ .run → ∃ t, exec (.portUp n) s = .next t ∧ OnlyPort n { s.port n with lane0 := true, lane1 := true, width := 2, retraining := false } s t) ∧
    ((s.port n).lock = .run → ∃ t, exec (.portUp n) s = .next t ∧
      OnlyPort n { s.port n with lane0 := true, lane1 := true, width := 2, retraining := false, up := true } s t))

/-- R100, R184, R344, R345, R355, R361, R363 to R366: a peer's read, write or atomic of exported bytes is performed and answered with OK and its data, and is refused with BADPKT or PERM, or by a device that is RECOVERING or FENCED; a multicast store is translated through this device's own tables; an answer ends the request with its tag, and a failed one reaches SR_RFLT; a reserved packet is answered with BADPKT; a peer's new state is recorded with an event, and what waits for a FENCED peer, or too long for a RECOVERING one, fails. The model's own choices here: log 20, 27, 49 and 111. -/
def Obligations.Packets : Prop :=
  (∀ (p : Packet) (o : Nat) (s : State), OneAsked p o s → s.exported p.ctx.toNat (128 * p.line.toNat + o) (2 ^ p.sz.toNat) = true → p.win.toNat ≤ 1 →
    (p.type = 1 → s.poisoned (.mem (128 * p.line.toNat + o)) (2 ^ p.sz.toNat) = false → ∃ t, exec (.readRequest p) s = .next t ∧ BytesStay s t ∧ t.mops = [] ∧
      Answered 0x20 0 p (Carries s.mem (128 * p.line.toNat + o) o (2 ^ p.sz.toNat)) s t) ∧
    (p.type = 2 → ∃ t, exec (.writeRequest p) s = .next t ∧ t.mops = [] ∧ Answered 0x21 0 p (fun _ => True) s t ∧
      (∀ i < 2 ^ p.sz.toNat, t.mem.read (128 * p.line.toNat + o + i) = p.data.getD (o + i) 0) ∧
      ∀ a, (a < 128 * p.line.toNat + o ∨ 128 * p.line.toNat + o + 2 ^ p.sz.toNat ≤ a) → t.mem.read a = s.mem.read a) ∧
    (∀ a w, p.type.toNat = 0x10 + a → atomicWindow a = some w → p.sz = 2 ∨ p.sz = 3 → s.poisoned (.mem (128 * p.line.toNat + o)) (2 ^ p.sz.toNat) = false →
      ∃ t, exec (.atomicRequest p) s = .next t ∧ t.mops = [] ∧ Answered 0x20 0 p (Carries s.mem (128 * p.line.toNat + o) o (2 ^ p.sz.toNat)) s t ∧
        PutAt (128 * p.line.toNat + o) (2 ^ p.sz.toNat) (windowValue w (8 * 2 ^ p.sz.toNat) (BitVec.ofNat _ (s.mem.num (128 * p.line.toNat + o) (2 ^ p.sz.toNat)))
          (BitVec.ofNat _ (natOfBytes ((p.data.drop o).take (2 ^ p.sz.toNat))))).toNat s.mem t.mem)) ∧
  (∀ (i : Instr) (p : Packet) (s : State), i = .readRequest p ∨ i = .writeRequest p ∨ i = .atomicRequest p →
    (s.domain = .recovering ∨ s.domain = .fenced → ∃ t, exec i s = .next t ∧ BytesStay s t ∧
      Answered (if i = .writeRequest p then 0x21 else 0x20) (if s.domain = .recovering then 1 else 2) p (fun _ => True) s t) ∧
    (s.domain ≠ .recovering → s.domain ≠ .fenced → p.scope = 7 ∨ p.be = 0 ∨ 5 < p.sz.toNat ∨ p.bad = true → ∃ t, exec i s = .next t ∧ BytesStay s t ∧ Answered (if i = .writeRequest p then 0x21 else 0x20) 0x0C p (fun _ => True) s t) ∧
    (∀ o, OneAsked p o s → i ≠ .atomicRequest p → p.type.toNat < 0x10 → s.ctx? p.ctx.toNat = none → ∃ t, exec i s = .next t ∧ BytesStay s t ∧
      Answered (if i = .writeRequest p then 0x21 else 0x20) 5 p (fun _ => True) s t)) ∧
  (∀ (p : Packet) (o a : Nat) (pte : W64) (s u : State), OneAsked p o s → p.type = 3 → 2 ≤ p.sz.toNat →
    s.translate 240 p.ctx.toNat (BitVec.ofNat 64 (128 * p.line.toNat + o + 13 * 2 ^ 56)) .store 13 = (u, .ok (.mem a) pte) → bitAt pte 4 = false → pteTier pte ≤ 1 →
    ∃ t, exec (.mcwr p) s = .next t ∧ t.mops = [] ∧ Answered 0x21 0 p (fun _ => True) s t ∧
      PutAt a (2 ^ p.sz.toNat) (natOfBytes ((p.data.drop o).take (2 ^ p.sz.toNat))) u.mem t.mem) ∧
  (∀ (p : Packet) (s : State), s.domain = .recovering ∨ s.domain = .fenced →
    ∃ t, exec (.mcwr p) s = .next t ∧ BytesStay s t ∧ Answered 0x21 (if s.domain = .recovering then 1 else 2) p (fun _ => True) s t) ∧
  (∀ (o : MemOp) (e : Elem) (q p : Packet) (s : State), InPacket o e q s → p.tag = q.tag → p.port = q.port →
    (o.kind = .load → p.stat = 0 → ∃ t y, exec (.rdata p) s = .next t ∧ t.sent = [] ∧ t.mops = [{ o with elems := [y] }] ∧
      y = { e with stage := .performed (BitVec.ofNat 256 (natOfBytes ((p.data.drop (e.loc.offset % 128)).take e.size))) } ∧ BytesStay s t) ∧
    (o.kind = .store → p.stat = 0 → ∃ t y, exec (.ack p) s = .next t ∧ t.sent = [] ∧ t.mops = [{ o with elems := [y] }] ∧ y = { e with stage := .performed 0 } ∧ BytesStay s t) ∧
    (∀ g i, o.owner = .group g i → (s.group? g).isSome = true → bitAt (s.grp g).rflt 0 = false → o.kind = .store → p.stat.toNat ≠ 0 → p.stat.toNat ≠ 7 →
      ∃ t, exec (.ack p) s = .next t ∧ t.sent = [] ∧ (t.grp g).rflt = failure p.src.toNat p.stat.toNat e.va ∧ BytesStay s t)) ∧
  (∀ (p : Packet) (s : State), (p.type = 0 ∨ p.type = 4 ∨ p.type = 0x1D ∨ p.type = 0x22 ∨ p.type = 0x29 ∨ p.type = 0x31 ∨ p.type = 0x3F) →
    ∃ t, exec (.badpkt p) s = .next t ∧ BytesStay s t ∧ Answered 0x21 0x0C p (fun _ => True) s t) ∧
  (∀ (peer : Nat) (st : PeerState) (s : State), s.mops = [] → s.sent = [] → s.tokOps = [] → (∀ c ∈ s.copies, c.reads = []) → NoFetchWaits s →
    ∃ t, exec (.pstate peer st) s = .next t ∧ SMap.get .absent t.peers peer = st ∧
    (∀ k, k ≠ peer → SMap.get .absent t.peers k = SMap.get .absent s.peers k) ∧ t.groups = s.groups ∧ BytesStay s t ∧
    (t.peer = s.peer ∨ (s.peer = none ∧ s.dev = .ready ∧ st = .recovering ∧ t.peer = some peer)) ∧
    (t.peer = some peer → t.domain = st) ∧ (t.peer ≠ some peer → t.domain = s.domain) ∧
    (t.peer = some peer → st = .recovering → ∀ c < 192, bitAt t.fcons c = true) ∧ (t.peer ≠ some peer ∨ st ≠ .recovering → t.fcons = s.fcons) ∧
    (s.events.length < 4096 → ∃ x, t.events = s.events ++ [x] ∧ x.type = 0x0A ∧ x.addr = BitVec.ofNat 64 peer)) ∧
  (∀ (o : MemOp) (e : Elem) (peer g : Nat) (s : State), Waits o e peer g s → s.tokOps = [] →
    (∀ st, st = .fenced ∨ st = .absent → ∃ t, exec (.pstate peer st) s = .next t ∧ (t.grp g).rflt = failure peer 2 e.va) ∧
    (700000000 * s.recovery ≤ (s.clk - o.since).toNat → ∃ t, exec (.recoveryLimit peer) s = .next t ∧ (t.grp g).rflt = failure peer 1 e.va) ∧
    ((s.clk - o.since).toNat < 700000000 * s.recovery → exec (.recoveryLimit peer) s = .next s))

/-! ### Every instruction completes somewhere -/

namespace Sys2Proof.Claims

/-- The instruction answers a next state in which the selected lanes of register d hold its 32-bit result and only v registers, latches, SR_SEED, SIGB and the pc have changed. -/
def Writes32 (i : Instr) (d : BitVec 8) (w : Bool) (bl : BitVec 2) (m : Mask) (s : State) : Prop :=
  ∃ t, exec i s = .next t ∧ Wrote32 d w bl m (fun _ _ => True) s t ∧ VectorFrame [0x16] s t

/-- The same of a 64-bit result. -/
def Writes64 (i : Instr) (d : BitVec 8) (w : Bool) (bl : BitVec 2) (m : Mask) (s : State) : Prop :=
  ∃ t, exec i s = .next t ∧ Wrote64 d w bl m (fun _ _ => True) s t ∧ VectorFrame [0x16] s t

/-- The instruction answers a next state in which at most predicate d of the selected lanes has changed. -/
def WritesPred (i : Instr) (d : BitVec 8) (m : Mask) (s : State) : Prop :=
  ∃ t, exec i s = .next t ∧ SameVector s t ∧ SameScalar s t ∧ SameSpecial [0x19] s t ∧ SameOutside s t ∧ NextWord s t ∧
    ∀ p l, l < 64 → (p ≠ d.toNat ∨ d = 0 ∨ bitAt m l = false) → bitAt (t.G.pred p) l = bitAt (s.G.pred p) l

/-- The instruction answers a next state in which at most the s register d has changed. -/
def WritesScalar (i : Instr) (d : BitVec 8) (s : State) : Prop :=
  ∃ t, exec i s = .next t ∧ SameVector s t ∧ SamePred s t ∧ SameSpecial [0x19] s t ∧ SameOutside s t ∧ NextWord s t ∧
    ∀ r, r ≠ d.toNat → SMap.get 0 t.G.s r = SMap.get 0 s.G.s r ∧ SMap.get 0 t.G.bank r = SMap.get 0 s.G.bank r

/-- The instruction answers a next state at the next word, with every register as it was. -/
def GoesOn (i : Instr) (but : List Nat) (s : State) : Prop := ∃ t, exec i s = .next t ∧ Registers but s t

/-- The instruction answers a next state, of which P holds. -/
def Answers (i : Instr) (s : State) (P : State → Prop) : Prop := ∃ t, exec i s = .next t ∧ P t

end Sys2Proof.Claims

/-- R9, R26, R45, R52, R107 to R158: every register, lane, scalar and control instruction answers a next state, at the next word or at its target, for every live split; a software trap answers the state of its entry. -/
def Obligations.RegisterFormsComplete : Prop :=
  ∀ s : State, s.issuing = true → s.signed = true →
    (∀ (f : VForm) (i : Instr), i ∈ [.iadd f, .isub f, .imul f, .imulh f, .imad f, .imin f, .imax f, .iabs f, .ineg f, .idiv f, .irem f, .lop3 f, .popc f,
        .clz f, .sel f, .clmul f, .clmulh f, .prmt f, .fadd f, .fsub f, .fmul f, .ffma f, .fmin f, .fmax f, .fclamp f, .fdiv f, .fsqrt f, .frcp f, .frsq f,
        .frnd f, .fscale f, .fexpt f, .hadd2 f, .hmul2 f, .hfma2 f, .hmin2 f, .hmax2 f, .qpack f, .qunpk f, .fexp2 f, .flog2 f, .fsin f, .fcos f, .ftanh f,
        .fsigm f, .ferf f, .ateval f] → Writes32 i f.d f.w f.bl (selV f s) s) ∧
    (∀ (f : VForm) (i : Instr), i ∈ [.ladd f, .lsub f, .lmul f, .lea f, .ballot f, .matchKeys f, .spl6 f, .jn6 f] → Writes64 i f.d f.w f.bl (selV f s) s) ∧
    (∀ (f : VForm) (i : Instr), i ∈ [.and f, .or f, .xor f, .andn f, .shl f, .shr f, .rot f, .bfe f, .bfi f, .brev f] →
      if f.d64 then Writes64 i f.d f.w f.bl (selV f s) s else Writes32 i f.d f.w f.bl (selV f s) s) ∧
    (∀ f : VForm, if f.cvtDst = 6 ∨ f.cvtDst = 7 then Writes64 (.cvt f) f.d f.w f.bl (selV f s) s else Writes32 (.cvt f) f.d f.w f.bl (selV f s) s) ∧
    (∀ (f : IForm) (i : Instr), i ∈ [.iaddi f, .imuli f, .movi f] → Writes32 i f.d f.w f.bl (s.sel f.p false) s) ∧
    (∀ f : VForm, Writes32 (.wrlane f) f.d f.w f.bl (if selV f s = 0 then 0 else (1 : Mask) <<< ((bUni f s).toNat % 64)) s) ∧
    (∀ f : VForm, GoesOn (.nop f) [] s) ∧
    (∀ (f : VForm) (i : Instr), i ∈ [.isetp f, .fsetp f, .plop f, .elect f, .vote f] → WritesPred i f.d (selV f s) s) ∧
    (∀ f : VForm, if bitAt f.md 0 then WritesPred (.pmov f) f.d (selV f s) s else Writes32 (.pmov f) f.d f.w f.bl (selV f s) s) ∧
    (∀ f : VForm, Answers (.shfl f) s fun t => Wrote32 f.d f.w f.bl (selV f s) (fun _ _ => True) s t ∧ NextWord s t) ∧
    (∀ (f : VForm) (i : Instr), i ∈ [.redx f, .scanx f] → Answers i s fun t => NextWord s t ∧ SamePred s t ∧
      (selV f s ≠ 0 → Wrote32 f.d f.w f.bl (selV f s) (fun _ _ => True) s t)) ∧
    (∀ (f : VForm) (i : Instr), i ∈ [.rdlane f, .smov f, .sadd f, .ssub f, .smul f, .sand f, .sor f, .sxor f, .sshl f, .sshr f, .scmp f, .ssel f] →
      WritesScalar i f.d s) ∧
    (∀ (f : IForm) (i : Instr), i ∈ [.smovi f, .smovh f] → WritesScalar i f.d s) ∧
    (∀ f : VForm, (fldN f.md 0 8 = 0x1B → bitAt (s.srd 0x1B) 0 = false ∨ s.G.trapm = true) → WritesScalar (.srd f) f.d s) ∧
    (∀ f : VForm, fldN f.md 0 8 ∈ writable → (fldN f.md 0 8 = 0x2A ∨ fldN f.md 0 8 = 0x2B → s.G.svc = true) →
      (fldN f.md 0 8 = 0x28 → (aUni f s).toNat < 3) → GoesOn (.swr f) [fldN f.md 0 8] s) ∧
    (∀ (i : Instr) (hint : Nat) (taken : Mask) (target : W64), (∃ f, i = .bra f ∨ i = .call f) ∨ (∃ f, i = .jmp f ∨ i = .ret f) →
      transferOf i s = some (hint, taken, target) → s.outsideSegment s.G target = false →
      (taken = 0 → Answers i s fun t => t.S.pc = s.S.pc + 8 ∧ t.S.mask = s.S.mask) ∧
      (taken ≠ 0 → taken = s.S.mask → Answers i s fun t => t.S.pc = target ∧ t.S.mask = s.S.mask)) ∧
    (∀ f : CForm, selC f s ≠ 0 → s.G.stack.length < 32 → Answers (.mjoin f) s fun t => NextWord s t ∧ t.G.stack.length = s.G.stack.length + 1) ∧
    (∀ (f : CForm) (x : W64) (e q : Mask) (g : W32) (ws : List Nat) (k : W64) (ps : List Nat) (es : List StackEntry), selC f s ≠ 0 →
      s.G.stack = .joinRec x e q g ws k ps :: es → q ||| s.S.mask ≠ e → Answers (.join f) s fun t => t.S.wait = .join s.S.sigb) ∧
    (∀ (f : CForm) (i : Instr), i ∈ [.exit f, .kill f] → selC f s ≠ 0 → Alone s → Answers i s fun t =>
      (s.S.mask &&& ~~~selC f s ≠ 0 → t.S.mask = s.S.mask &&& ~~~selC f s) ∧ (s.S.mask &&& ~~~selC f s = 0 → t.G.ended = true)) ∧
    (∀ f : CForm, selC f s ≠ 0 → Answers (.yield f) s fun t => t.S.yielded = true ∧ NextWord s t) ∧
    (∀ f : VForm, selV f s ≠ 0 → aUni f s = 0 ∨ aUni f s = 1 → Answers (.idem f) s fun t => t.G.idempc = (if aUni f s = 0 then 0 else s.S.hdrPc) ∧ NextWord s t) ∧
    (∀ (f : VForm) (g : Group), selV f s ≠ 0 → s.groups = [g] → g.gid = s.cur.1 → g.ended = false → g.splits.length = 1 → g.quiet [.scr, .glb] = true →
      Answers (.bar f) s fun t => t.S.bars = [] ∧ NextWord s t) ∧
    (∀ f : VForm, selV f s ≠ 0 → s.G.count (pathOf (fldN f.md 0 3)) ≤ (aUni f s).toNat → (fldN f.md 0 3 = 3 → s.G.cpyFault = none) →
      (fldN f.md 0 3 = 4 → s.G.mtxFault = none) → (fldN f.md 0 3 = 2 → bitAt (s.srd 0x1B) 0 = false) → GoesOn (.waitc f) [] s) ∧
    (∀ f : VForm, selV f s ≠ 0 → 1 ≤ (aUni f s).toInt → (aUni f s).toInt < s.G.nblk → (aUni f s).toInt ≤ 16 →
      Answers (.rbsur f) s fun t => (t.G.nblk : Int) = (aUni f s).toInt ∧ NextWord s t) ∧
    (∀ f : VForm, selV f s ≠ 0 → 0 < (aUni f s).toInt → s.G.nblk + (aUni f s).toInt ≤ 16 → Answers (.rbclm f) s fun t => t.S.claim.isSome = true ∧ NextWord s t) ∧
    (∀ f : IForm, s.canTrap = true → s.sel f.p false ≠ 0 → Answers (.trap f) s fun t => t.G.trapm = true ∧ t.G.tcause = 0x14 ∧ t.S.pc = s.G.tvec) ∧
    (∀ f : CForm, s.canTrap = true → selC f s ≠ 0 → Answers (.brk f) s fun t => t.G.trapm = true ∧ t.G.tcause = 0x15 ∧ t.S.pc = s.G.tvec) ∧
    (∀ (f : VForm) (o : Opaque) (q : Split) (u : State) (a : Nat) (p : W64) (h w : W64), selV f s ≠ 0 → s.G.saved = some o → s.G.strip = false →
      s.G.pending = [] → s.G.restarting = false → s.mops = [] → o.trapper = s.cur.2 → o.splits = [q] → q.idx = s.cur.2 → o.stack = [] →
      s.translate s.G.core s.G.ctx s.G.tframe .load 0 = (u, .ok (.mem a) p) →
      natOfBytes (u.mem.readN (a + 0x3FC) 4) = (crc32c (u.mem.readN a 0x3FC)).toNat →
      u.clauseAt s.G.ctx { q with sigp := o.sigp } s.G.tpc = some (h, w) → s.G.tpc ≠ h →
      (Answers (.tretRpl f) s fun t => t.G.trapm = false ∧ t.S.pc = s.G.tpc) ∧
      (2 ≤ ((h + BitVec.ofNat 64 (8 * (fldN w 56 4 + 2))) - s.G.tpc).toNat / 8 → Answers (.tretSkp f) s fun t => t.G.trapm = false ∧ t.S.pc = s.G.tpc + 8)) ∧
    (∀ f : VForm, selV f s ≠ 0 → (bUni f s).toNat < 2 ^ 13 → s.partner s.G (fldN (bUni f s) 0 8) (fldN (bUni f s) 8 5) = none →
      Answers (.xshuf f) s fun t => t.S.wait = .xshuf (fldN (bUni f s) 0 8) (fldN (bUni f s) 8 5) s.clk) ∧
    (∀ (f f' : VForm) (g i : Nat), selV f s ≠ 0 → (bUni f s).toNat < 2 ^ 13 → s.partner s.G (fldN (bUni f s) 0 8) (fldN (bUni f s) 8 5) = some (g, i) →
      g ≠ s.cur.1 → (at' g i s).issuing = true → (at' g i s).signed = true → decode (at' g i s).S.ir = .ok (.xshuf f') →
      Answers (.xshuf f) s fun t => Wrote32 f.d f.w f.bl (selV f s) (fun _ _ => True) s t ∧ NextWord s t ∧ NextWord (at' g i s) (at' g i t)) ∧
    (∀ (core slot : Nat) (since : W64) (f : VForm), s.canTrap = true → s.S.wait = .xshuf core slot since → since.toNat + 65536 ≤ s.clk.toNat →
      decode s.S.ir = .ok (.xshuf f) → Answers (.xshto s.cur.1 s.cur.2) s fun t => t.G.trapm = true ∧ t.G.tcause = 0x0F ∧ t.S.pc = s.G.tvec)

/-- R200 to R222, R230 to R263, R283 to R292, R301 to R325: every instruction of the memory pipe, the copy engines, the Lathe, the Spindle units, the fabric and the tables answers a next state in which its split goes on and its operation has begun or is done, where its operands pass their checks; a ready Lathe operation starts (LATHE_OP_START) and a started one completes (LATHE_OP_COMPLETE), the accumulator port makes the move whose turn it is (ACCUMULATOR_PORT_COMPLETE), a load of an activation bank ends (ACTIVATION_BANK_LOAD_DONE), and a contribution to a reduction is accepted (NRED_ACCEPT). -/
def Obligations.EngineFormsComplete : Prop :=
  (∀ (i : Instr) (f : MForm) (s : State), s.issuing = true → s.signed = true → selM f s ≠ 0 → s.S.acqs = [] → (2 ≤ f.ord.toNat → Released f.scope.toNat s) →
    (∀ p, s.G.count p < 63) → s.tokOps = [] → s.passing (.group s.cur.1 s.cur.2) = false →
    (i ∈ [.lds f, .sts f, .atoms f, .ldsx f, .stsx f, .ld f, .st f, .atom f, .sld f, .sst f, .dfill f] →
      ∀ (o : MemOp) (es : List Elem) (u : State) (xs : List Elem), access i s = some (f, o, es) → es ≠ [] → PlacedAll o s es u xs →
      (∀ x ∈ xs, o.passed x = true) → s.txFull { o with elems := xs } = false →
      Answers i s fun t => NextWord s t ∧ t.mops.length = s.mops.length + 1) ∧
    (s.G.quiet (scopePaths f.scope.toNat) = true → s.G.cpyFault = none → bitAt (s.srd 0x1B) 0 = false → GoesOn (.fence f) [] s) ∧
    (s.G.quiet (scopePaths f.scope.toNat) = true → (∀ o ∈ s.mops, s.serialises f.scope.toNat o = false) → GoesOn (.fenceh f) [] s) ∧
    ((∀ o ∈ s.mops, ∀ i, o.owner = .group s.cur.1 i → o.scratch = true → o.pendingStore = false) → GoesOn (.opfence f) [] s) ∧
    ((∀ o ∈ s.mops, s.buffered o = false) → GoesOn (.fencel f) [] s) ∧ GoesOn (.invl1 f) [] s ∧ GoesOn (.pref f) [] s) ∧
  (∀ (f : VForm) (s : State), s.issuing = true → s.signed = true → selV f s ≠ 0 → s.G.count .cpy < 63 →
    ∀ i ∈ [Instr.cpy f, .tcpy f, .chain f, .gather f, .scatter f, .nrset f, .nred f],
      Answers i s fun t => Registers [0x1F] s t ∧ Counts (one .cpy) s t ∧ t.copies.length = s.copies.length + 1) ∧
  (∀ (f : VForm) (s : State), s.issuing = true → s.signed = true → LatheOpen s → s.lathe = [] → s.rings = [] → s.G.teamIdx = 0 →
    ∀ (i : Instr) (k : LatheKind), (i, k) ∈ [(Instr.mma f, LatheKind.mma), (.pmma f, .pmma), (.smma f, .smma)] →
      s.mmaCheck k (aBase f) (accWordOf f s) (bUni f s) (s.G.sreg s.cur.2 (srcS f.c)) (s.G.sreg s.cur.2 (srcS f.c + 1)) = none →
      Answers i s fun t => LatheIssued s t ∧ ∃ o, t.lathe = [o] ∧ o.kind = k) ∧
  (∀ (f : VForm) (s : State), s.issuing = true → s.signed = true → selV f s ≠ 0 → LatheOpen s → s.lathe = [] →
    (∀ n : Nat, (bUni f s).toInt = n → n = 1 ∨ n = 2 ∨ n = 4 ∨ n = 8 ∨ n = 16 ∨ n = 32 → aBase f % n = 0 → aBase f + n ≤ 16 * s.G.nblk →
      fldN (accWordOf f s) 18 46 = 0 → RegionFree s (accRow (accWordOf f s)) 64 (accCol (accWordOf f s)) n →
      ∀ i ∈ [Instr.accld f, .accst f], Answers i s fun t => LatheIssued s t ∧ t.lathe.length = 1) ∧
    (1 ≤ (aUni f s).toNat → 1 ≤ (bUni f s).toNat → fldN (accWordOf f s) 18 46 = 0 →
      RegionFree s (accRow (accWordOf f s)) (aUni f s).toNat (accCol (accWordOf f s)) (bUni f s).toNat →
      Answers (.accz f) s fun t => LatheIssued s t ∧ t.lathe.length = 1) ∧
    (fldN (accWordOf f s) 19 45 = 0 → cwBad (aUni f s) = false → Answers (.drain f) s fun t => LatheIssued s t ∧ t.lathe.length = 1) ∧
    (∀ core off : Nat, s.reach s.G.core s.G.wg s.G.ctx (aUni f s).toNat 4096 64 = some (core, off) →
      Answers (.atload f) s fun t => LatheIssued s t ∧ t.lathe.length = 1) ∧
    (Answers (.atswap f) s fun t => Registers [0x1F] s t ∧ SMap.get 0 t.actBank s.G.core = 1 - SMap.get 0 s.actBank s.G.core) ∧
    (∀ h : Nat, s.unmarked = true → s.ringHeader (aUni f s) = .ok h →
      Answers (.lqstart f) s fun t => Registers [0x1C, 0x1E, 0x1F] s t ∧ t.rings.length = s.rings.length + 1) ∧
    (∀ r : Ring, s.rings = [r] → r.core = s.G.core → r.owner = s.cur.1 → r.out = none →
      Answers (.lqstop f) s fun t => Registers [0x1C, 0x1E, 0x1F] s t ∧ t.rings = [])) ∧
  (∀ (o : LatheOp) (s : State), s.latheOp? o.id = some o →
    (s.mayStart o = true → o.kind.team = true → Answers (.latheOpStart o.id) s fun t => ∃ p, t.latheOp? o.id = some p ∧ p.started = true ∧
      p.kind = o.kind ∧ p.members = o.members ∧ t.acc = s.acc) ∧
    (∀ d : Nat, s.mayStart o = true → o.kind = .drain → o.bdesc.toNat < 2 ^ 32 → s.ownRecord o.core o.wg o.ctx o.bdesc.toNat = some d → s.unmarked = true →
      s.drainCheck ({ o with desc := d, bank := s.activeBank o.core, n1 := recN d 320 16, n2 := recN d 336 16 } : LatheOp).job = none →
      Answers (.latheOpStart o.id) s fun t => ∃ p, t.latheOp? o.id = some p ∧ p.started = true ∧ p.desc = d ∧ t.acc = s.acc) ∧
    (o.started = true → s.behind o = false → o.kind.team = true → s.unmarked = true → s.badMeta o = none →
      Answers (.latheOpComplete o.id) s fun t => LatheOver o (o.members.map (·.gid)) t) ∧
    (o.started = true → s.behind o = false → o.kind = .drain → o.spoiled = false → o.out = none ∧ o.failed = none ∧ o.park = none → s.unmarked = true →
      cwBad o.fmt = false → DrainFits s o.job [] → (s.grp o.gid).screened = false ∧ (s.grp o.gid).shadow = false → (∀ w ∈ s.engineWaits, w.1 ≠ o.id) →
      Answers (.latheOpComplete o.id) s fun t => LatheOver o [o.gid] t) ∧
    (o.kind ∈ [LatheKind.accld, .accst, .accz] → s.unmarked = true →
      (∀ x ∈ s.lathe, x.gid = o.gid → x.kind ∈ [LatheKind.accld, .accst, .accz] → o.id ≤ x.id) →
      Answers (.accumulatorPortComplete o.id) s fun t => LatheOver o [o.gid] t) ∧
    (o.kind = .atload → s.bankQueue o.core o.id = [] → s.bankBusy o.core (1 - s.activeBank o.core) = false → s.poisoned (.spm o.n1 o.n2) 4096 = false →
      Answers (.activationBankLoadDone o.id) s fun t => LatheOver o [o.gid] t)) ∧
  (∀ (c : CopyOp) (r : Reduction) (s u : State) (xs : List (List Byte × Bool)), s.copy? c.id = some c → c.id < s.nextId → c.kind = .nred → c.park = none →
    c.puts = none → (s.grp c.gid).shadow = false → s.reductions.find? (fun x => x.id == fldN c.a 0 8 && x.ctx == c.ctx) = some r → fldN c.a 8 56 = 0 →
    r.accepted < r.ncont → s.engineReads c ((List.range r.nelem).map fun i => (c.b + BitVec.ofNat 64 (4 * i), 4)) = (u, .ok xs) → (∀ x ∈ xs, x.2 = false) →
    Answers (.nredAccept c.id) s fun t => CopyOver c t ∧ ∃ q ∈ t.reductions, q.id = r.id ∧ q.accepted = r.accepted + 1) ∧
  (∀ (f : VForm) (s u : State) (ls : List Loc), s.issuing = true → s.signed = true → selV f s ≠ 0 → s.G.mtxFault = none → s.G.trapm = true →
    (s.G.strip = false → s.G.count .mtx = 0 → (∀ g ∈ s.groups, g.core = s.G.core → g.strip = false) → s.G.mxsave.toNat % 128 = 0 →
      s.area s.G .store (stripRows s.G) = (u, .ok ls) → Answers (.msusp f) s fun t => Registers [] s t ∧ t.G.strip = true) ∧
    (s.G.strip = true → s.G.shadow = false → s.area s.G .load (stripRows s.G) = (u, .ok ls) → ls.length = 256 → (∀ l ∈ ls, u.poisoned l 128 = false) →
      Answers (.mres f) s fun t => Registers [] s t ∧ t.G.strip = false)) ∧
  (∀ (f : VForm) (s : State) (l e : Loc) (h : Header), s.issuing = true → s.signed = true → selV f s ≠ 0 → selectorBad (bUni f s) = false →
    aUni f s ≠ 0 → (aUni f s).toNat < 2 ^ 48 → (aUni f s).toNat % 64 = 0 → Released 5 s → s.G.shadow = false →
    s.taskQueueLoc s.G.ctx (if bitAt (bUni f s) 16 then s.G.core / 8 else fldN (bUni f s) 8 5) (fldN (bUni f s) 0 2) = some l →
    QueueRoom s s.G.ctx l h e → Answers (.tspawn f) s fun t => Registers [] s t ∧ Holds t e 8 (aUni f s).toNat) ∧
  (∀ (f : VForm) (s : State) (off : Nat), s.issuing = true → s.signed = true → selV f s ≠ 0 → (aUni f s).toNat = 2 ^ 27 + off → off % 8 = 0 →
    off < 2 ^ 20 → off < (s.wgOf s.G.wg).size → s.G.count .qry < 63 →
    Answers (.wqry f) s fun t => Registers [0x1F] s t ∧ Counts (one .qry) s t ∧ t.queries.length = s.queries.length + 1) ∧
  (∀ (f : VForm) (s u : State) (l : Loc) (p : W64), s.issuing = true → s.signed = true → selV f s ≠ 0 → (aUni f s).toNat % 128 = 0 → (aUni f s).toNat < 2 ^ 60 →
    s.translate s.G.core s.G.ctx (aUni f s) .load 0 = (u, .ok l p) →
    (u.poisoned (l.add 64) 12 = false → s.grid? (u.num (l.add 64) 4) = none → u.num (l.add 68) 4 = s.G.grid → 2 ≤ u.num (l.add 73) 1 % 4 →
      GoesOn (.gwait f) [] s) ∧
    (let d := descOf (natOfBytes (u.readLoc l 128))
     (∀ x ∈ s.launches, x.issuer ≠ some s.cur) → s.G.teamIdx = 0 → s.G.depth ≠ 10 → Released 5 s → s.G.shadow = false → u.poisoned l 128 = false →
      u.descStatus s.G.ctx d = none → d.drift = false → (d.svc = true → s.G.svc = true) →
      (s.launches.filter fun x => x.ctx == s.G.ctx && x.prio == d.prio).length < 64 →
      Answers (.glaunch f) s fun t => t.launches.length = s.launches.length + 1 ∧ t.S.wait = .stall)) ∧
  (∀ (f : CForm) (s : State) (g : Grid) (z : Segment), s.issuing = true → s.signed = true → selC f s ≠ 0 → selC f s = s.S.mask → s.G.drift = true →
    s.G.trapm = false → s.G.splits.length = 1 → s.grid? s.G.grid = some g →
    g.segs.find? (fun z => inSegment z (s.S.pc + (f.off.signExtend 64 <<< 3))) = some z → s.G.core ∉ z.reps → f.live.toNat < s.G.nblk →
    s.G.restarting = false → s.G.shadow = false → s.G.cpyFault = none → s.leavesBehind s.cur.1 = false →
    Answers (.jmpx f) s fun t => t.S.pc = s.S.pc + (f.off.signExtend 64 <<< 3) ∧ t.S.wait = .drift ∧ t.xfers.length = s.xfers.length + 1) ∧
  (∀ (f : VForm) (s : State) (r off : Nat), s.issuing = true → s.signed = true → selV f s ≠ 0 → NamesRegion s (aUni f s) r → s.G.count .rmt < 63 →
    s.S.acqs = [] → (2 ^ 48 ≤ r → SMap.get .absent s.peers (r / 2 ^ 48 - 1) = .run) →
    GoesOn (.tokacq f) [0x1F] s ∧ (Released 5 s → GoesOn (.tokrel f) [0x1F] s) ∧ (ScratchBuffer s (bUni f s) 8 off → GoesOn (.tokqry f) [0x1F] s)) ∧
  (∀ (f : VForm) (s : State) (kind psize c : Nat), Serves f s → (bUni f s).toNat = kind + 4 * psize + 2 ^ 16 * c → kind < 3 → psize < 3 → c < 2 ^ 16 →
    (kind < 2 → c = s.G.ctx) → Released 4 s → NoneHeld s → s.unsettled (coverOf kind psize c (aUni f s)) = false →
    s.engineUnsettled (coverOf kind psize c (aUni f s)) = false → GoesOn (.tlbinv f) [] s) ∧
  (∀ (f : VForm) (s : State) (off : Nat), Serves f s → ScratchBuffer s (aUni f s) 32 off → s.S.acqs = [] → s.fqEmpty = true →
    Answers (.fqpop f) s fun t => ResultBegun 32 off (fun _ => 0) s t) ∧
  (∀ (f : VForm) (s : State) (c : Nat) (fail : Bool), Serves f s → (bUni f s).toNat = c + 2 ^ 16 * fail.toNat → c < 2 ^ 16 → c = s.G.ctx → Released 4 s →
    NothingParked c ((aUni f s).toNat % 2 ^ 56 / 0x10000) s → NoFetchParked c ((aUni f s).toNat % 2 ^ 56 / 0x10000) s → GoesOn (.fqrpl f) [] s) ∧
  (∀ (f : VForm) (s : State) (p : W64) (leaf : Nat), Serves f s → cUni f s = BitVec.ofNat 64 s.G.ctx → s.G.ctx < 2 ^ 16 → s.G.count .cpy < 63 → NoneHeld s →
    s.walk s.G.ctx (BitVec.ofNat 64 ((aUni f s).toNat % 2 ^ 56)) = .leaf p leaf → bitAt (bUni f s) 0 = true → fldN (bUni f s) 33 2 = fldN p 33 2 →
    (bitAt (bUni f s) 4 = true → fldN (bUni f s) 6 2 = 0) →
    Answers (.migr f) s fun t => Registers [0x1F] s t ∧ Counts (one .cpy) s t ∧ t.copies.length = s.copies.length + 1) ∧
  (∀ (f : VForm) (s : State) (off : Nat), s.issuing = true → selV f s ≠ 0 → selectorGood (aUni f s) = true → ScratchBuffer s (bUni f s) 8 off → s.S.acqs = [] →
    Answers (.cntrd f) s fun t => ResultBegun 8 off (fun _ => s.counter (fldN (aUni f s) 0 8) (fldN (aUni f s) 8 12)) s t) ∧
  (∀ (f : VForm) (s : State), s.issuing = true → s.signed = true → selV f s ≠ 0 → clearRefused s.G (aUni f s) (bUni f s) = false → GoesOn (.cntclr f) [] s)

/-! ### Encoding, the step, and sound states -/

namespace Sys2Proof.Claims

/-- The step fetches at the pc of the split that issues (R48): the word is what comes next, and the fetch finds its page, marking it in t, at location l. -/
structure Fetches (s t : State) (l : Loc) : Prop where
  power : s.power = true
  next : s.next = some .word
  inside : s.outsideSegment s.G s.S.pc = false
  page : s.fetchLoc s.G s.S.pc = (t, .ok l)

/-- The instruction word that the split has fetched, entered in the split. -/
def issued (w : W64) (t : State) : State := t.modS fun p => { p with ir := w }

/-- What every step keeps: each memory in its canonical form, and the fixed fields of the firmware's command queue (R374). -/
def Sound (s : State) : Prop := s.memWf = true ∧ s.headerFixed = true

/-- A read of n bytes of the device registers. -/
def registerRead (off : Nat) : HostAccess := { off := off, size := 8 }

end Sys2Proof.Claims

/-- The words that the spec writes out decode to the instructions they stand for. -/
def Obligations.DecodedWords : Prop :=
  decode 0x33044001006028C9 = .ok (.ffma { d := 4, bl := 2, a := .v 2, b := .v 3, c := .v 5, md := 0x0C9 }) ∧
  decode 0x0C08000828000100 = .ok (.iaddi { d := 8, a := .v 8, imm := 0x28000100 }) ∧
  decode 0x4503000100000449 = .ok (.cvt { d := 3, a := .v 2, md := 0x449 }) ∧
  decode 0x0F040000804018E8 = .ok (.lop3 { d := 4, a := .v 1, b := .v 2, c := .v 3, md := 0xE8 }) ∧
  decode 0x20010000E000000A = .ok (.isetp { d := 1, a := .v 1, b := .imm 0, md := 0xA }) ∧
  decode 0x6003000160200203 = .ok (.shfl { d := 3, a := .v 2, b := .imm 1, md := 0x203 }) ∧
  decode 0x8000050000000007 = .ok (.bra { p := 1, hint := 2, off := 7 }) ∧
  decode 0xA214000602C73A10 = .ok (.atom { d := 20, a := .v 12, b := .v 22, sz := 3, scope := 4, ord := 3, off := 0xA10 }) ∧
  decode 0xB000008220A83000 = .ok (.cpy { a := .s 4, b := .s 5, c := .s 6 }) ∧
  decode 0xC014001022A8B000 = .ok (.mma { d := 0x14, a := .v 32, b := .s 21, c := .s 22 }) ∧
  decode 0xD400008800001000 = .ok (.jmpx { hint := 1, live := 1, off := 0x1000 }) ∧
  decode 0xE600008521686000 = .ok (.migr { a := .s 10, b := .s 11, c := .s 12 })

/-- R58 to R66, R72, R74: for every well-formed instruction that a word holds, the decoder reads the instruction back from the encoder's word; and every word that the decoder accepts holds a well-formed instruction whose encoding is that word, so no two words hold one instruction. -/
def Obligations.DecodeEncode : Prop :=
  (∀ (i : Instr) (w : W64), i.wf = true → encode i = some w → decode w = .ok i) ∧
  (∀ (w : W64) (i : Instr), decode w = .ok i → i.wf = true ∧ encode i = some w)

/-- R48, R62, R74, R75: a step whose fetched word decodes to an instruction that names owned registers only executes it, and then advances what every step advances; a word that does not decode takes ILLOP, and a register outside the group's blocks takes REGOWN, both for the split's whole mask; behind a load that the split has passed only loads run. The model's own choices here: log 11 and 101. -/
def Obligations.StepRunsDecoded : Prop :=
  (∀ (s t : State) (l : Loc) (w : W64), Fetches s t l → (∀ e ∈ t.istore, e.2.2.2.1 ≠ s.S.pc.toNat) → w = BitVec.ofNat 64 (natOfBytes (t.readLoc l 8)) →
    (∀ i, decode w = .ok i → s.passing (.group s.cur.1 s.cur.2) = false ∨ mayFollow i = true → unowned s.G.nblk (regsOf i) = none →
      (∀ u, exec i (issued w t) = .next u → step s = .next (State.advance s u)) ∧
      (∀ f, exec i (issued w t) = .fault f → step s = .fault f) ∧ (∀ r, exec i (issued w t) = .refused r → step s = .refused r)) ∧
    (∀ e, decode w = .error e → (issued w t).canTrap = true → ∃ u, TrapEntered .illop s.S.mask 0 [] (issued w t) u ∧ step s = .next (State.advance s u)) ∧
    (∀ i, decode w = .ok i → s.passing (.group s.cur.1 s.cur.2) = true → mayFollow i = false → step s = .next (State.advance s (issued w t).stall)) ∧
    (∀ i r, decode w = .ok i → s.passing (.group s.cur.1 s.cur.2) = false → unowned s.G.nblk (regsOf i) = some r → (issued w t).canTrap = true →
      ∃ u, TrapEntered .regown s.S.mask (BitVec.ofNat 64 r) [] (issued w t) u ∧ step s = .next (State.advance s u))) ∧
  (∀ s : State, s.power = true → s.inputs = [] → s.arrived = [] → s.cmd = none → s.events = [] → s.moves = [] → s.G.issues s.S = true → s.next = some .word) ∧
  (∀ s : State, s.power = true → s.next = some .word → s.outsideSegment s.G s.S.pc = true → s.canTrap = true →
    ∃ u, TrapEntered .driftf s.S.mask s.S.pc [] s u ∧ step s = .next (State.advance s u)) ∧
  (∀ s : State, s.power = false → s.inputs = [] → step s = .fault .powerOff)

/-- Every step that answers a next state keeps every memory in its canonical form, and keeps the fixed fields of the firmware's command queue (R374). -/
def Obligations.StepKeepsMemory : Prop :=
  ∀ s t : State, Sound s → step s = .next t → Sound t

/-- R35, R323, R324, R373, R374, R383: what reset leaves. Bring-up stands at BOOT with every core forced conservative; the device registers read their reset values; no context, group, grid, event or command is there; every counter reads zero and no performance counter has an event; every port is UNLOCKED with no session; the invariant of every step holds. The model's own choices here: log 5. -/
def Obligations.ResetState : Prop :=
  core.reset = State.reset ∧ Sound State.reset ∧
  (∀ c < 192, bitAt State.reset.fcons c = true) ∧ State.reset.dev = .boot ∧ State.reset.point = .full ∧ State.reset.peer = none ∧ State.reset.version = none ∧
  (∀ e : Nat × W64, e ∈ [((0x00 : Nat), (0x00004B39000000C0 : W64)), (0x08, 1), (0x10, 0xE), (0x18, 0x1F), (0x20, 0), (0x28, 0), (0x30, 0x3FF)] →
    exec (.commandAreaAccess (registerRead e.1)) State.reset = .next { State.reset with replies := [(0, e.2.setWidth 256)] }) ∧
  State.reset.ctxs = [] ∧ State.reset.groups = [] ∧ State.reset.grids = [] ∧ State.reset.events = [] ∧ State.reset.cmd = none ∧ State.reset.fq = {} ∧
  (∀ k, SMap.get 0 State.reset.counters k = 0) ∧ (∀ k, SMap.get 0 State.reset.perfSel k = 0) ∧
  (∀ b, SMap.get 0 State.reset.bands b = 0 ∧ SMap.get 0 State.reset.bandCtx b = 0 ∧ SMap.get 0 State.reset.spmCtx b = 0) ∧
  State.reset.ports.length = 72 ∧ (∀ n < 72, (State.reset.port n).lock = .unlocked ∧ (State.reset.port n).up = false ∧ (State.reset.port n).spdm = .idle ∧ (State.reset.port n).keys = false)
end

