-- ==== Sys2Proof/Laws/Maps.lean ====
section
/-! SUPPORT. The laws of sparse maps and of memories: read after write, other places left alone, the canonical form kept. -/

namespace Sys2Proof

namespace SMap
variable {β : Type}

@[simp] theorem get_nil (d : β) (k : Nat) : get d [] k = d := rfl

@[simp] theorem get_put_self (d : β) (m : SMap β) (k : Nat) (v : β) : get d (put m k v) k = v := by
  induction m with
  | nil => simp [put, get]
  | cons e m ih =>
    obtain ⟨a, w⟩ := e
    unfold put
    split
    · simp [get]
    · split
      · simp [get]
      · rename_i h; simp [get, h, ih]

theorem get_put_ne (d : β) (m : SMap β) {k j : Nat} (v : β) (h : j ≠ k) : get d (put m k v) j = get d m j := by
  induction m with
  | nil => simp [put, get, h.symm]
  | cons e m ih =>
    obtain ⟨a, w⟩ := e
    unfold put
    split
    · simp [get, h.symm]
    · split
      · rename_i h2; subst h2; simp [get, h.symm]
      · simp [get, ih]

@[simp] theorem get_erase_self (d : β) (m : SMap β) (k : Nat) : get d (erase m k) k = d := by
  induction m with
  | nil => rfl
  | cons e m ih =>
    obtain ⟨a, w⟩ := e
    unfold erase
    split
    · exact ih
    · rename_i h; simp [get, h, ih]

theorem get_erase_ne (d : β) (m : SMap β) {k j : Nat} (h : j ≠ k) : get d (erase m k) j = get d m j := by
  induction m with
  | nil => rfl
  | cons e m ih =>
    obtain ⟨a, w⟩ := e
    unfold erase
    split
    · rename_i h2; subst h2; simp [get, h.symm, ih]
    · simp [get, ih]

@[simp] theorem get_set_self [DecidableEq β] (d : β) (m : SMap β) (k : Nat) (v : β) : get d (set d m k v) k = v := by
  unfold set; split
  · rename_i h; subst h; simp
  · simp

theorem get_set_ne [DecidableEq β] (d : β) (m : SMap β) {k j : Nat} (v : β) (h : j ≠ k) :
    get d (set d m k v) j = get d m j := by
  unfold set; split
  · exact get_erase_ne d m h
  · exact get_put_ne d m v h

theorem get_set [DecidableEq β] (d : β) (m : SMap β) (k j : Nat) (v : β) :
    get d (set d m k v) j = if j = k then v else get d m j := by
  by_cases h : j = k
  · subst h; simp
  · simp [h, get_set_ne d m v h]

theorem rising_mono {lo lo' : Nat} (h : lo' ≤ lo) : ∀ m : SMap β, rising lo m = true → rising lo' m = true
  | [], _ => rfl
  | (a, v) :: m, hm => by
    simp only [rising, Bool.and_eq_true, decide_eq_true_eq] at hm ⊢
    exact ⟨Nat.le_trans h hm.1, hm.2⟩

theorem rising_erase : ∀ (lo : Nat) (m : SMap β) (k : Nat), rising lo m = true → rising lo (erase m k) = true
  | _, [], _, _ => rfl
  | lo, (a, v) :: m, k, h => by
    simp only [rising, Bool.and_eq_true, decide_eq_true_eq] at h
    unfold erase
    split
    · exact rising_mono (Nat.le_succ_of_le h.1) _ (rising_erase (a + 1) m k h.2)
    · simp only [rising, Bool.and_eq_true, decide_eq_true_eq]
      exact ⟨h.1, rising_erase (a + 1) m k h.2⟩

theorem rising_put : ∀ (lo : Nat) (m : SMap β) (k : Nat) (v : β), lo ≤ k → rising lo m = true → rising lo (put m k v) = true
  | lo, [], k, v, hk, _ => by simp [put, rising, hk]
  | lo, (a, w) :: m, k, v, hk, h => by
    simp only [rising, Bool.and_eq_true, decide_eq_true_eq] at h
    unfold put
    split
    · rename_i hlt
      simp only [rising, Bool.and_eq_true, decide_eq_true_eq]
      exact ⟨hk, hlt, h.2⟩
    · split
      · rename_i heq
        simp only [rising, Bool.and_eq_true, decide_eq_true_eq]
        exact ⟨hk, heq ▸ h.2⟩
      · rename_i h1 h2
        simp only [rising, Bool.and_eq_true, decide_eq_true_eq]
        exact ⟨h.1, rising_put (a + 1) m k v (by omega) h.2⟩

theorem mem_erase {m : SMap β} {k : Nat} {e : Nat × β} (h : e ∈ erase m k) : e ∈ m := by
  induction m with
  | nil => exact h
  | cons x m ih =>
    obtain ⟨a, w⟩ := x
    unfold erase at h
    split at h
    · exact List.mem_cons_of_mem _ (ih h)
    · rcases List.mem_cons.1 h with h | h
      · exact h ▸ List.mem_cons_self ..
      · exact List.mem_cons_of_mem _ (ih h)

theorem mem_put {m : SMap β} {k : Nat} {v : β} {e : Nat × β} (h : e ∈ put m k v) : e = (k, v) ∨ e ∈ m := by
  induction m with
  | nil => exact .inl (by simpa [put] using h)
  | cons x m ih =>
    obtain ⟨a, w⟩ := x
    unfold put at h
    split at h
    · rcases List.mem_cons.1 h with h | h
      · exact .inl h
      · exact .inr h
    · split at h
      · rcases List.mem_cons.1 h with h | h
        · exact .inl h
        · exact .inr (List.mem_cons_of_mem _ h)
      · rcases List.mem_cons.1 h with h | h
        · exact .inr (h ▸ List.mem_cons_self ..)
        · exact (ih h).imp id (List.mem_cons_of_mem _)

/-- Writing keeps the canonical form. -/
theorem wf_set [DecidableEq β] (d : β) (m : SMap β) (k : Nat) (v : β) (h : wf d m = true) : wf d (set d m k v) = true := by
  simp only [wf, Bool.and_eq_true, List.all_eq_true, decide_eq_true_eq] at h ⊢
  unfold set
  split
  · exact ⟨rising_erase 0 m k h.1, fun e he => h.2 e (mem_erase he)⟩
  · rename_i hv
    refine ⟨rising_put 0 m k v (Nat.zero_le _) h.1, fun e he => ?_⟩
    rcases mem_put he with rfl | he
    · exact hv
    · exact h.2 e he

theorem rising_filter (p : Nat × β → Bool) : ∀ (lo : Nat) (m : SMap β), rising lo m = true → rising lo (m.filter p) = true
  | _, [], _ => rfl
  | lo, (a, v) :: m, h => by
    simp only [rising, Bool.and_eq_true, decide_eq_true_eq] at h
    simp only [List.filter_cons]
    split
    · simp only [rising, Bool.and_eq_true, decide_eq_true_eq]
      exact ⟨h.1, rising_filter p (a + 1) m h.2⟩
    · exact rising_mono (Nat.le_succ_of_le h.1) _ (rising_filter p (a + 1) m h.2)

/-- Leaving entries out keeps the canonical form. -/
theorem wf_filter [DecidableEq β] (d : β) (m : SMap β) (p : Nat × β → Bool) (h : wf d m = true) : wf d (m.filter p) = true := by
  simp only [wf, Bool.and_eq_true, List.all_eq_true, decide_eq_true_eq] at h ⊢
  exact ⟨rising_filter p 0 m h.1, fun e he => h.2 e (List.mem_filter.1 he).1⟩

/-- Two runs of rising keys, the second above the first, rise together. -/
theorem rising_append (k : Nat) (n : SMap β) (hn : rising k n = true) : ∀ (lo : Nat) (m : SMap β), lo ≤ k → rising lo m = true →
    (∀ e ∈ m, e.1 < k) → rising lo (m ++ n) = true
  | _, [], hl, _, _ => rising_mono hl n hn
  | lo, (a, v) :: m, _, hm, hk => by
    simp only [rising, Bool.and_eq_true, decide_eq_true_eq, List.cons_append] at hm ⊢
    exact ⟨hm.1, rising_append k n hn (a + 1) m (hk (a, v) (by simp)) hm.2 fun e he => hk e (by simp [he])⟩

/-- The entries from key k up rise from k. -/
theorem rising_above (k : Nat) : ∀ (lo : Nat) (m : SMap β), rising lo m = true → rising k (m.filter fun e => decide (k ≤ e.1)) = true
  | _, [], _ => rfl
  | lo, (a, v) :: m, h => by
    simp only [rising, Bool.and_eq_true, decide_eq_true_eq] at h
    rw [List.filter_cons]
    split
    · rename_i hk
      simp only [rising, Bool.and_eq_true, decide_eq_true_eq]
      exact ⟨by simpa using hk, rising_filter _ (a + 1) m h.2⟩
    · exact rising_above k (a + 1) m h.2

/-- A run of values at rising keys rises, whichever are left out. -/
theorem rising_run (p : β × Nat → Bool) : ∀ (bs : List β) (a : Nat), rising a (((bs.zipIdx a).filter p).map fun b => (b.2, b.1)) = true
  | [], _ => rfl
  | b :: bs, a => by
    rw [List.zipIdx_cons, List.filter_cons]
    split
    · simp only [List.map_cons, rising, Bool.and_eq_true, decide_eq_true_eq]
      exact ⟨Nat.le_refl a, rising_run p bs (a + 1)⟩
    · exact rising_mono (Nat.le_succ a) _ (rising_run p bs (a + 1))

end SMap

namespace Machine

/-- A write is read back, and every other address reads as before. -/
@[simp] theorem Memory.read_write (m : Memory) (a b : Nat) (x : Byte) :
    (m.write a x).read b = if b = a then x else m.read b := SMap.get_set _ _ _ _ _

theorem Memory.wf_write (m : Memory) (a : Nat) (x : Byte) (h : m.wf = true) : (m.write a x).wf = true :=
  SMap.wf_set _ _ _ _ h

theorem Memory.wf_writeN : ∀ (bs : List Byte) (m : Memory) (a : Nat), m.wf = true → (m.writeN a bs).wf = true
  | [], _, _, h => h
  | b :: bs, m, a, h => Memory.wf_writeN bs (m.write a b) (a + 1) (Memory.wf_write m a b h)

theorem Memory.wf_setNum (m : Memory) (a n v : Nat) (h : m.wf = true) : (m.setNum a n v).wf = true := Memory.wf_writeN _ m a h

/-- A run replaced in one pass keeps the canonical form. -/
theorem Memory.wf_fill (m : Memory) (a : Nat) (bs : List Byte) (h : m.wf = true) : (m.fill a bs).wf = true := by
  have h' := h
  simp only [Memory.wf, SMap.wf, Bool.and_eq_true, List.all_eq_true, decide_eq_true_eq] at h'
  simp only [Memory.wf, SMap.wf, Bool.and_eq_true, List.all_eq_true, decide_eq_true_eq, Memory.fill, List.append_assoc]
  refine ⟨SMap.rising_append a _ (SMap.rising_append (a + bs.length) _ (SMap.rising_above _ 0 m h'.1) a _ (Nat.le_add_right ..)
    (SMap.rising_run _ bs a) ?_) 0 _ (Nat.zero_le _) (SMap.rising_filter _ 0 m h'.1) ?_, ?_⟩
  · intro e he
    obtain ⟨x, hx, rfl⟩ := List.mem_map.1 he
    have := List.mem_zipIdx (List.mem_filter.1 hx).1
    exact Nat.add_comm a _ ▸ this.2.1
  · intro e he
    simpa using (List.mem_filter.1 he).2
  · intro e he
    rcases List.mem_append.1 he with hm | hm
    · exact h'.2 e (List.mem_filter.1 hm).1
    rcases List.mem_append.1 hm with hm | hm
    · obtain ⟨x, hx, rfl⟩ := List.mem_map.1 hm
      simpa using (List.mem_filter.1 hx).2
    · exact h'.2 e (List.mem_filter.1 hm).1

/-- Bytes written from a up are read back there, and every other address reads as before. -/
theorem Memory.read_writeN : ∀ (bs : List Byte) (m : Memory) (a b : Nat),
    (m.writeN a bs).read b = if a ≤ b ∧ b < a + bs.length then bs.getD (b - a) 0 else m.read b
  | [], m, a, b => by simp [Memory.writeN] <;> omega
  | x :: bs, m, a, b => by
    rw [Memory.writeN, Memory.read_writeN bs (m.write a x) (a + 1) b]
    simp only [List.length_cons, Memory.read_write]
    by_cases h : a + 1 ≤ b ∧ b < a + 1 + bs.length
    · have h2 : a ≤ b ∧ b < a + (bs.length + 1) := by omega
      rw [if_pos h, if_pos h2, show b - a = (b - (a + 1)) + 1 by omega, List.getD_cons_succ]
    · rw [if_neg h]
      by_cases hb : b = a
      · subst hb; simp
      · have h2 : ¬(a ≤ b ∧ b < a + (bs.length + 1)) := by omega
        rw [if_neg hb, if_neg h2]

/-- Bytes outside those written read as before. -/
theorem Memory.readN_writeN_other (m : Memory) (a b n : Nat) (bs : List Byte) (h : b + n ≤ a ∨ a + bs.length ≤ b) :
    (m.writeN a bs).readN b n = m.readN b n := by
  simp only [Memory.readN]
  apply List.map_congr_left
  intro i hi
  have := List.mem_range.1 hi
  rw [Memory.read_writeN, if_neg (by omega)]

/-- Bytes written are read back. -/
theorem Memory.readN_writeN_self (m : Memory) (a : Nat) (bs : List Byte) : (m.writeN a bs).readN a bs.length = bs := by
  apply List.ext_getElem
  · simp [Memory.readN]
  · intro i h1 h2
    simp only [Memory.readN, List.getElem_map, List.getElem_range]
    rw [Memory.read_writeN, if_pos (by omega), Nat.add_sub_cancel_left]
    simp [List.getD_eq_getElem?_getD, h2]

end Machine

end Sys2Proof
end

