-- ==== Sys2Proof/Laws/State.lean ====
section
/-! SUPPORT. One lemma for each field under each plain update of State, Group and Split: true by rfl, so that no proof unfolds an update. -/

namespace Sys2Proof.Machine

open Sys2Proof

/-! ### modGroup -/

@[simp] theorem State.modGroup_inputs (s : State) (n : Nat) (f : Group → Group) : (s.modGroup n f).inputs = s.inputs := rfl
@[simp] theorem State.modGroup_cur (s : State) (n : Nat) (f : Group → Group) : (s.modGroup n f).cur = s.cur := rfl
@[simp] theorem State.modGroup_tick (s : State) (n : Nat) (f : Group → Group) : (s.modGroup n f).tick = s.tick := rfl
@[simp] theorem State.modGroup_nextId (s : State) (n : Nat) (f : Group → Group) : (s.modGroup n f).nextId = s.nextId := rfl
@[simp] theorem State.modGroup_power (s : State) (n : Nat) (f : Group → Group) : (s.modGroup n f).power = s.power := rfl
@[simp] theorem State.modGroup_dev (s : State) (n : Nat) (f : Group → Group) : (s.modGroup n f).dev = s.dev := rfl
@[simp] theorem State.modGroup_clk (s : State) (n : Nat) (f : Group → Group) : (s.modGroup n f).clk = s.clk := rfl
@[simp] theorem State.modGroup_wgs (s : State) (n : Nat) (f : Group → Group) : (s.modGroup n f).wgs = s.wgs := rfl
@[simp] theorem State.modGroup_grids (s : State) (n : Nat) (f : Group → Group) : (s.modGroup n f).grids = s.grids := rfl
@[simp] theorem State.modGroup_launches (s : State) (n : Nat) (f : Group → Group) : (s.modGroup n f).launches = s.launches := rfl
@[simp] theorem State.modGroup_ctxs (s : State) (n : Nat) (f : Group → Group) : (s.modGroup n f).ctxs = s.ctxs := rfl
@[simp] theorem State.modGroup_overflowCap (s : State) (n : Nat) (f : Group → Group) : (s.modGroup n f).overflowCap = s.overflowCap := rfl
@[simp] theorem State.modGroup_ringLast (s : State) (n : Nat) (f : Group → Group) : (s.modGroup n f).ringLast = s.ringLast := rfl
@[simp] theorem State.modGroup_mops (s : State) (n : Nat) (f : Group → Group) : (s.modGroup n f).mops = s.mops := rfl
@[simp] theorem State.modGroup_txs (s : State) (n : Nat) (f : Group → Group) : (s.modGroup n f).txs = s.txs := rfl
@[simp] theorem State.modGroup_copies (s : State) (n : Nat) (f : Group → Group) : (s.modGroup n f).copies = s.copies := rfl
@[simp] theorem State.modGroup_written (s : State) (n : Nat) (f : Group → Group) : (s.modGroup n f).written = s.written := rfl
@[simp] theorem State.modGroup_engineWaits (s : State) (n : Nat) (f : Group → Group) : (s.modGroup n f).engineWaits = s.engineWaits := rfl
@[simp] theorem State.modGroup_lathe (s : State) (n : Nat) (f : Group → Group) : (s.modGroup n f).lathe = s.lathe := rfl
@[simp] theorem State.modGroup_rings (s : State) (n : Nat) (f : Group → Group) : (s.modGroup n f).rings = s.rings := rfl
@[simp] theorem State.modGroup_collectors (s : State) (n : Nat) (f : Group → Group) : (s.modGroup n f).collectors = s.collectors := rfl
@[simp] theorem State.modGroup_queries (s : State) (n : Nat) (f : Group → Group) : (s.modGroup n f).queries = s.queries := rfl
@[simp] theorem State.modGroup_enqReads (s : State) (n : Nat) (f : Group → Group) : (s.modGroup n f).enqReads = s.enqReads := rfl
@[simp] theorem State.modGroup_tokOps (s : State) (n : Nat) (f : Group → Group) : (s.modGroup n f).tokOps = s.tokOps := rfl
@[simp] theorem State.modGroup_evals (s : State) (n : Nat) (f : Group → Group) : (s.modGroup n f).evals = s.evals := rfl
@[simp] theorem State.modGroup_evalPosts (s : State) (n : Nat) (f : Group → Group) : (s.modGroup n f).evalPosts = s.evalPosts := rfl
@[simp] theorem State.modGroup_reductions (s : State) (n : Nat) (f : Group → Group) : (s.modGroup n f).reductions = s.reductions := rfl
@[simp] theorem State.modGroup_tokens (s : State) (n : Nat) (f : Group → Group) : (s.modGroup n f).tokens = s.tokens := rfl
@[simp] theorem State.modGroup_tokWait (s : State) (n : Nat) (f : Group → Group) : (s.modGroup n f).tokWait = s.tokWait := rfl
@[simp] theorem State.modGroup_mem (s : State) (n : Nat) (f : Group → Group) : (s.modGroup n f).mem = s.mem := rfl
@[simp] theorem State.modGroup_spm (s : State) (n : Nat) (f : Group → Group) : (s.modGroup n f).spm = s.spm := rfl
@[simp] theorem State.modGroup_tags (s : State) (n : Nat) (f : Group → Group) : (s.modGroup n f).tags = s.tags := rfl
@[simp] theorem State.modGroup_poison (s : State) (n : Nat) (f : Group → Group) : (s.modGroup n f).poison = s.poison := rfl
@[simp] theorem State.modGroup_spmPoison (s : State) (n : Nat) (f : Group → Group) : (s.modGroup n f).spmPoison = s.spmPoison := rfl
@[simp] theorem State.modGroup_accPoison (s : State) (n : Nat) (f : Group → Group) : (s.modGroup n f).accPoison = s.accPoison := rfl
@[simp] theorem State.modGroup_acc (s : State) (n : Nat) (f : Group → Group) : (s.modGroup n f).acc = s.acc := rfl
@[simp] theorem State.modGroup_bands (s : State) (n : Nat) (f : Group → Group) : (s.modGroup n f).bands = s.bands := rfl
@[simp] theorem State.modGroup_bandCtx (s : State) (n : Nat) (f : Group → Group) : (s.modGroup n f).bandCtx = s.bandCtx := rfl
@[simp] theorem State.modGroup_spmCtx (s : State) (n : Nat) (f : Group → Group) : (s.modGroup n f).spmCtx = s.spmCtx := rfl
@[simp] theorem State.modGroup_act (s : State) (n : Nat) (f : Group → Group) : (s.modGroup n f).act = s.act := rfl
@[simp] theorem State.modGroup_actBank (s : State) (n : Nat) (f : Group → Group) : (s.modGroup n f).actBank = s.actBank := rfl
@[simp] theorem State.modGroup_l1 (s : State) (n : Nat) (f : Group → Group) : (s.modGroup n f).l1 = s.l1 := rfl
@[simp] theorem State.modGroup_istore (s : State) (n : Nat) (f : Group → Group) : (s.modGroup n f).istore = s.istore := rfl
@[simp] theorem State.modGroup_tlb (s : State) (n : Nat) (f : Group → Group) : (s.modGroup n f).tlb = s.tlb := rfl
@[simp] theorem State.modGroup_fcons (s : State) (n : Nat) (f : Group → Group) : (s.modGroup n f).fcons = s.fcons := rfl
@[simp] theorem State.modGroup_segid (s : State) (n : Nat) (f : Group → Group) : (s.modGroup n f).segid = s.segid := rfl
@[simp] theorem State.modGroup_fq (s : State) (n : Nat) (f : Group → Group) : (s.modGroup n f).fq = s.fq := rfl
@[simp] theorem State.modGroup_cam (s : State) (n : Nat) (f : Group → Group) : (s.modGroup n f).cam = s.cam := rfl
@[simp] theorem State.modGroup_history (s : State) (n : Nat) (f : Group → Group) : (s.modGroup n f).history = s.history := rfl
@[simp] theorem State.modGroup_patrol (s : State) (n : Nat) (f : Group → Group) : (s.modGroup n f).patrol = s.patrol := rfl
@[simp] theorem State.modGroup_events (s : State) (n : Nat) (f : Group → Group) : (s.modGroup n f).events = s.events := rfl
@[simp] theorem State.modGroup_counters (s : State) (n : Nat) (f : Group → Group) : (s.modGroup n f).counters = s.counters := rfl
@[simp] theorem State.modGroup_perfSel (s : State) (n : Nat) (f : Group → Group) : (s.modGroup n f).perfSel = s.perfSel := rfl
@[simp] theorem State.modGroup_shadowReqs (s : State) (n : Nat) (f : Group → Group) : (s.modGroup n f).shadowReqs = s.shadowReqs := rfl
@[simp] theorem State.modGroup_screenEnds (s : State) (n : Nat) (f : Group → Group) : (s.modGroup n f).screenEnds = s.screenEnds := rfl
@[simp] theorem State.modGroup_screens (s : State) (n : Nat) (f : Group → Group) : (s.modGroup n f).screens = s.screens := rfl
@[simp] theorem State.modGroup_handouts (s : State) (n : Nat) (f : Group → Group) : (s.modGroup n f).handouts = s.handouts := rfl
@[simp] theorem State.modGroup_passes (s : State) (n : Nat) (f : Group → Group) : (s.modGroup n f).passes = s.passes := rfl
@[simp] theorem State.modGroup_lastSwap (s : State) (n : Nat) (f : Group → Group) : (s.modGroup n f).lastSwap = s.lastSwap := rfl
@[simp] theorem State.modGroup_cmdMem (s : State) (n : Nat) (f : Group → Group) : (s.modGroup n f).cmdMem = s.cmdMem := rfl
@[simp] theorem State.modGroup_patch (s : State) (n : Nat) (f : Group → Group) : (s.modGroup n f).patch = s.patch := rfl
@[simp] theorem State.modGroup_cmd (s : State) (n : Nat) (f : Group → Group) : (s.modGroup n f).cmd = s.cmd := rfl
@[simp] theorem State.modGroup_cmdRewritten (s : State) (n : Nat) (f : Group → Group) : (s.modGroup n f).cmdRewritten = s.cmdRewritten := rfl
@[simp] theorem State.modGroup_migrates (s : State) (n : Nat) (f : Group → Group) : (s.modGroup n f).migrates = s.migrates := rfl
@[simp] theorem State.modGroup_msix (s : State) (n : Nat) (f : Group → Group) : (s.modGroup n f).msix = s.msix := rfl
@[simp] theorem State.modGroup_msi (s : State) (n : Nat) (f : Group → Group) : (s.modGroup n f).msi = s.msi := rfl
@[simp] theorem State.modGroup_replies (s : State) (n : Nat) (f : Group → Group) : (s.modGroup n f).replies = s.replies := rfl
@[simp] theorem State.modGroup_version (s : State) (n : Nat) (f : Group → Group) : (s.modGroup n f).version = s.version := rfl
@[simp] theorem State.modGroup_patched (s : State) (n : Nat) (f : Group → Group) : (s.modGroup n f).patched = s.patched := rfl
@[simp] theorem State.modGroup_devAt (s : State) (n : Nat) (f : Group → Group) : (s.modGroup n f).devAt = s.devAt := rfl
@[simp] theorem State.modGroup_point (s : State) (n : Nat) (f : Group → Group) : (s.modGroup n f).point = s.point := rfl
@[simp] theorem State.modGroup_hostWait (s : State) (n : Nat) (f : Group → Group) : (s.modGroup n f).hostWait = s.hostWait := rfl
@[simp] theorem State.modGroup_recovery (s : State) (n : Nat) (f : Group → Group) : (s.modGroup n f).recovery = s.recovery := rfl
@[simp] theorem State.modGroup_scrubPeriod (s : State) (n : Nat) (f : Group → Group) : (s.modGroup n f).scrubPeriod = s.scrubPeriod := rfl
@[simp] theorem State.modGroup_scrubWeighted (s : State) (n : Nat) (f : Group → Group) : (s.modGroup n f).scrubWeighted = s.scrubWeighted := rfl
@[simp] theorem State.modGroup_peer (s : State) (n : Nat) (f : Group → Group) : (s.modGroup n f).peer = s.peer := rfl
@[simp] theorem State.modGroup_domain (s : State) (n : Nat) (f : Group → Group) : (s.modGroup n f).domain = s.domain := rfl
@[simp] theorem State.modGroup_peers (s : State) (n : Nat) (f : Group → Group) : (s.modGroup n f).peers = s.peers := rfl
@[simp] theorem State.modGroup_mcast (s : State) (n : Nat) (f : Group → Group) : (s.modGroup n f).mcast = s.mcast := rfl
@[simp] theorem State.modGroup_mcastCtx (s : State) (n : Nat) (f : Group → Group) : (s.modGroup n f).mcastCtx = s.mcastCtx := rfl
@[simp] theorem State.modGroup_sent (s : State) (n : Nat) (f : Group → Group) : (s.modGroup n f).sent = s.sent := rfl
@[simp] theorem State.modGroup_unsent (s : State) (n : Nat) (f : Group → Group) : (s.modGroup n f).unsent = s.unsent := rfl
@[simp] theorem State.modGroup_arrived (s : State) (n : Nat) (f : Group → Group) : (s.modGroup n f).arrived = s.arrived := rfl
@[simp] theorem State.modGroup_ports (s : State) (n : Nat) (f : Group → Group) : (s.modGroup n f).ports = s.ports := rfl
@[simp] theorem State.modGroup_frames (s : State) (n : Nat) (f : Group → Group) : (s.modGroup n f).frames = s.frames := rfl
@[simp] theorem State.modGroup_frames1 (s : State) (n : Nat) (f : Group → Group) : (s.modGroup n f).frames1 = s.frames1 := rfl

theorem State.modGroup_groups (s : State) (n : Nat) (f : Group → Group) :
    (s.modGroup n f).groups = s.groups.map fun x => if x.gid = n then f x else x := rfl
theorem State.modGroup_xfers (s : State) (n : Nat) (f : Group → Group) :
    (s.modGroup n f).xfers = s.xfers.map fun x => if x.image.gid = n then { x with image := f x.image } else x := rfl

/-! ### modWg -/

@[simp] theorem State.modWg_inputs (s : State) (n : Nat) (f : Workgroup → Workgroup) : (s.modWg n f).inputs = s.inputs := rfl
@[simp] theorem State.modWg_cur (s : State) (n : Nat) (f : Workgroup → Workgroup) : (s.modWg n f).cur = s.cur := rfl
@[simp] theorem State.modWg_tick (s : State) (n : Nat) (f : Workgroup → Workgroup) : (s.modWg n f).tick = s.tick := rfl
@[simp] theorem State.modWg_nextId (s : State) (n : Nat) (f : Workgroup → Workgroup) : (s.modWg n f).nextId = s.nextId := rfl
@[simp] theorem State.modWg_power (s : State) (n : Nat) (f : Workgroup → Workgroup) : (s.modWg n f).power = s.power := rfl
@[simp] theorem State.modWg_dev (s : State) (n : Nat) (f : Workgroup → Workgroup) : (s.modWg n f).dev = s.dev := rfl
@[simp] theorem State.modWg_clk (s : State) (n : Nat) (f : Workgroup → Workgroup) : (s.modWg n f).clk = s.clk := rfl
@[simp] theorem State.modWg_groups (s : State) (n : Nat) (f : Workgroup → Workgroup) : (s.modWg n f).groups = s.groups := rfl
@[simp] theorem State.modWg_grids (s : State) (n : Nat) (f : Workgroup → Workgroup) : (s.modWg n f).grids = s.grids := rfl
@[simp] theorem State.modWg_launches (s : State) (n : Nat) (f : Workgroup → Workgroup) : (s.modWg n f).launches = s.launches := rfl
@[simp] theorem State.modWg_ctxs (s : State) (n : Nat) (f : Workgroup → Workgroup) : (s.modWg n f).ctxs = s.ctxs := rfl
@[simp] theorem State.modWg_xfers (s : State) (n : Nat) (f : Workgroup → Workgroup) : (s.modWg n f).xfers = s.xfers := rfl
@[simp] theorem State.modWg_overflowCap (s : State) (n : Nat) (f : Workgroup → Workgroup) : (s.modWg n f).overflowCap = s.overflowCap := rfl
@[simp] theorem State.modWg_ringLast (s : State) (n : Nat) (f : Workgroup → Workgroup) : (s.modWg n f).ringLast = s.ringLast := rfl
@[simp] theorem State.modWg_mops (s : State) (n : Nat) (f : Workgroup → Workgroup) : (s.modWg n f).mops = s.mops := rfl
@[simp] theorem State.modWg_txs (s : State) (n : Nat) (f : Workgroup → Workgroup) : (s.modWg n f).txs = s.txs := rfl
@[simp] theorem State.modWg_copies (s : State) (n : Nat) (f : Workgroup → Workgroup) : (s.modWg n f).copies = s.copies := rfl
@[simp] theorem State.modWg_written (s : State) (n : Nat) (f : Workgroup → Workgroup) : (s.modWg n f).written = s.written := rfl
@[simp] theorem State.modWg_engineWaits (s : State) (n : Nat) (f : Workgroup → Workgroup) : (s.modWg n f).engineWaits = s.engineWaits := rfl
@[simp] theorem State.modWg_lathe (s : State) (n : Nat) (f : Workgroup → Workgroup) : (s.modWg n f).lathe = s.lathe := rfl
@[simp] theorem State.modWg_rings (s : State) (n : Nat) (f : Workgroup → Workgroup) : (s.modWg n f).rings = s.rings := rfl
@[simp] theorem State.modWg_collectors (s : State) (n : Nat) (f : Workgroup → Workgroup) : (s.modWg n f).collectors = s.collectors := rfl
@[simp] theorem State.modWg_queries (s : State) (n : Nat) (f : Workgroup → Workgroup) : (s.modWg n f).queries = s.queries := rfl
@[simp] theorem State.modWg_enqReads (s : State) (n : Nat) (f : Workgroup → Workgroup) : (s.modWg n f).enqReads = s.enqReads := rfl
@[simp] theorem State.modWg_tokOps (s : State) (n : Nat) (f : Workgroup → Workgroup) : (s.modWg n f).tokOps = s.tokOps := rfl
@[simp] theorem State.modWg_evals (s : State) (n : Nat) (f : Workgroup → Workgroup) : (s.modWg n f).evals = s.evals := rfl
@[simp] theorem State.modWg_evalPosts (s : State) (n : Nat) (f : Workgroup → Workgroup) : (s.modWg n f).evalPosts = s.evalPosts := rfl
@[simp] theorem State.modWg_reductions (s : State) (n : Nat) (f : Workgroup → Workgroup) : (s.modWg n f).reductions = s.reductions := rfl
@[simp] theorem State.modWg_tokens (s : State) (n : Nat) (f : Workgroup → Workgroup) : (s.modWg n f).tokens = s.tokens := rfl
@[simp] theorem State.modWg_tokWait (s : State) (n : Nat) (f : Workgroup → Workgroup) : (s.modWg n f).tokWait = s.tokWait := rfl
@[simp] theorem State.modWg_mem (s : State) (n : Nat) (f : Workgroup → Workgroup) : (s.modWg n f).mem = s.mem := rfl
@[simp] theorem State.modWg_spm (s : State) (n : Nat) (f : Workgroup → Workgroup) : (s.modWg n f).spm = s.spm := rfl
@[simp] theorem State.modWg_tags (s : State) (n : Nat) (f : Workgroup → Workgroup) : (s.modWg n f).tags = s.tags := rfl
@[simp] theorem State.modWg_poison (s : State) (n : Nat) (f : Workgroup → Workgroup) : (s.modWg n f).poison = s.poison := rfl
@[simp] theorem State.modWg_spmPoison (s : State) (n : Nat) (f : Workgroup → Workgroup) : (s.modWg n f).spmPoison = s.spmPoison := rfl
@[simp] theorem State.modWg_accPoison (s : State) (n : Nat) (f : Workgroup → Workgroup) : (s.modWg n f).accPoison = s.accPoison := rfl
@[simp] theorem State.modWg_acc (s : State) (n : Nat) (f : Workgroup → Workgroup) : (s.modWg n f).acc = s.acc := rfl
@[simp] theorem State.modWg_bands (s : State) (n : Nat) (f : Workgroup → Workgroup) : (s.modWg n f).bands = s.bands := rfl
@[simp] theorem State.modWg_bandCtx (s : State) (n : Nat) (f : Workgroup → Workgroup) : (s.modWg n f).bandCtx = s.bandCtx := rfl
@[simp] theorem State.modWg_spmCtx (s : State) (n : Nat) (f : Workgroup → Workgroup) : (s.modWg n f).spmCtx = s.spmCtx := rfl
@[simp] theorem State.modWg_act (s : State) (n : Nat) (f : Workgroup → Workgroup) : (s.modWg n f).act = s.act := rfl
@[simp] theorem State.modWg_actBank (s : State) (n : Nat) (f : Workgroup → Workgroup) : (s.modWg n f).actBank = s.actBank := rfl
@[simp] theorem State.modWg_l1 (s : State) (n : Nat) (f : Workgroup → Workgroup) : (s.modWg n f).l1 = s.l1 := rfl
@[simp] theorem State.modWg_istore (s : State) (n : Nat) (f : Workgroup → Workgroup) : (s.modWg n f).istore = s.istore := rfl
@[simp] theorem State.modWg_tlb (s : State) (n : Nat) (f : Workgroup → Workgroup) : (s.modWg n f).tlb = s.tlb := rfl
@[simp] theorem State.modWg_fcons (s : State) (n : Nat) (f : Workgroup → Workgroup) : (s.modWg n f).fcons = s.fcons := rfl
@[simp] theorem State.modWg_segid (s : State) (n : Nat) (f : Workgroup → Workgroup) : (s.modWg n f).segid = s.segid := rfl
@[simp] theorem State.modWg_fq (s : State) (n : Nat) (f : Workgroup → Workgroup) : (s.modWg n f).fq = s.fq := rfl
@[simp] theorem State.modWg_cam (s : State) (n : Nat) (f : Workgroup → Workgroup) : (s.modWg n f).cam = s.cam := rfl
@[simp] theorem State.modWg_history (s : State) (n : Nat) (f : Workgroup → Workgroup) : (s.modWg n f).history = s.history := rfl
@[simp] theorem State.modWg_patrol (s : State) (n : Nat) (f : Workgroup → Workgroup) : (s.modWg n f).patrol = s.patrol := rfl
@[simp] theorem State.modWg_events (s : State) (n : Nat) (f : Workgroup → Workgroup) : (s.modWg n f).events = s.events := rfl
@[simp] theorem State.modWg_counters (s : State) (n : Nat) (f : Workgroup → Workgroup) : (s.modWg n f).counters = s.counters := rfl
@[simp] theorem State.modWg_perfSel (s : State) (n : Nat) (f : Workgroup → Workgroup) : (s.modWg n f).perfSel = s.perfSel := rfl
@[simp] theorem State.modWg_shadowReqs (s : State) (n : Nat) (f : Workgroup → Workgroup) : (s.modWg n f).shadowReqs = s.shadowReqs := rfl
@[simp] theorem State.modWg_screenEnds (s : State) (n : Nat) (f : Workgroup → Workgroup) : (s.modWg n f).screenEnds = s.screenEnds := rfl
@[simp] theorem State.modWg_screens (s : State) (n : Nat) (f : Workgroup → Workgroup) : (s.modWg n f).screens = s.screens := rfl
@[simp] theorem State.modWg_handouts (s : State) (n : Nat) (f : Workgroup → Workgroup) : (s.modWg n f).handouts = s.handouts := rfl
@[simp] theorem State.modWg_passes (s : State) (n : Nat) (f : Workgroup → Workgroup) : (s.modWg n f).passes = s.passes := rfl
@[simp] theorem State.modWg_lastSwap (s : State) (n : Nat) (f : Workgroup → Workgroup) : (s.modWg n f).lastSwap = s.lastSwap := rfl
@[simp] theorem State.modWg_cmdMem (s : State) (n : Nat) (f : Workgroup → Workgroup) : (s.modWg n f).cmdMem = s.cmdMem := rfl
@[simp] theorem State.modWg_patch (s : State) (n : Nat) (f : Workgroup → Workgroup) : (s.modWg n f).patch = s.patch := rfl
@[simp] theorem State.modWg_cmd (s : State) (n : Nat) (f : Workgroup → Workgroup) : (s.modWg n f).cmd = s.cmd := rfl
@[simp] theorem State.modWg_cmdRewritten (s : State) (n : Nat) (f : Workgroup → Workgroup) : (s.modWg n f).cmdRewritten = s.cmdRewritten := rfl
@[simp] theorem State.modWg_migrates (s : State) (n : Nat) (f : Workgroup → Workgroup) : (s.modWg n f).migrates = s.migrates := rfl
@[simp] theorem State.modWg_msix (s : State) (n : Nat) (f : Workgroup → Workgroup) : (s.modWg n f).msix = s.msix := rfl
@[simp] theorem State.modWg_msi (s : State) (n : Nat) (f : Workgroup → Workgroup) : (s.modWg n f).msi = s.msi := rfl
@[simp] theorem State.modWg_replies (s : State) (n : Nat) (f : Workgroup → Workgroup) : (s.modWg n f).replies = s.replies := rfl
@[simp] theorem State.modWg_version (s : State) (n : Nat) (f : Workgroup → Workgroup) : (s.modWg n f).version = s.version := rfl
@[simp] theorem State.modWg_patched (s : State) (n : Nat) (f : Workgroup → Workgroup) : (s.modWg n f).patched = s.patched := rfl
@[simp] theorem State.modWg_devAt (s : State) (n : Nat) (f : Workgroup → Workgroup) : (s.modWg n f).devAt = s.devAt := rfl
@[simp] theorem State.modWg_point (s : State) (n : Nat) (f : Workgroup → Workgroup) : (s.modWg n f).point = s.point := rfl
@[simp] theorem State.modWg_hostWait (s : State) (n : Nat) (f : Workgroup → Workgroup) : (s.modWg n f).hostWait = s.hostWait := rfl
@[simp] theorem State.modWg_recovery (s : State) (n : Nat) (f : Workgroup → Workgroup) : (s.modWg n f).recovery = s.recovery := rfl
@[simp] theorem State.modWg_scrubPeriod (s : State) (n : Nat) (f : Workgroup → Workgroup) : (s.modWg n f).scrubPeriod = s.scrubPeriod := rfl
@[simp] theorem State.modWg_scrubWeighted (s : State) (n : Nat) (f : Workgroup → Workgroup) : (s.modWg n f).scrubWeighted = s.scrubWeighted := rfl
@[simp] theorem State.modWg_peer (s : State) (n : Nat) (f : Workgroup → Workgroup) : (s.modWg n f).peer = s.peer := rfl
@[simp] theorem State.modWg_domain (s : State) (n : Nat) (f : Workgroup → Workgroup) : (s.modWg n f).domain = s.domain := rfl
@[simp] theorem State.modWg_peers (s : State) (n : Nat) (f : Workgroup → Workgroup) : (s.modWg n f).peers = s.peers := rfl
@[simp] theorem State.modWg_mcast (s : State) (n : Nat) (f : Workgroup → Workgroup) : (s.modWg n f).mcast = s.mcast := rfl
@[simp] theorem State.modWg_mcastCtx (s : State) (n : Nat) (f : Workgroup → Workgroup) : (s.modWg n f).mcastCtx = s.mcastCtx := rfl
@[simp] theorem State.modWg_sent (s : State) (n : Nat) (f : Workgroup → Workgroup) : (s.modWg n f).sent = s.sent := rfl
@[simp] theorem State.modWg_unsent (s : State) (n : Nat) (f : Workgroup → Workgroup) : (s.modWg n f).unsent = s.unsent := rfl
@[simp] theorem State.modWg_arrived (s : State) (n : Nat) (f : Workgroup → Workgroup) : (s.modWg n f).arrived = s.arrived := rfl
@[simp] theorem State.modWg_ports (s : State) (n : Nat) (f : Workgroup → Workgroup) : (s.modWg n f).ports = s.ports := rfl
@[simp] theorem State.modWg_frames (s : State) (n : Nat) (f : Workgroup → Workgroup) : (s.modWg n f).frames = s.frames := rfl
@[simp] theorem State.modWg_frames1 (s : State) (n : Nat) (f : Workgroup → Workgroup) : (s.modWg n f).frames1 = s.frames1 := rfl

/-! ### modCtx -/

@[simp] theorem State.modCtx_inputs (s : State) (n : Nat) (f : Context → Context) : (s.modCtx n f).inputs = s.inputs := rfl
@[simp] theorem State.modCtx_cur (s : State) (n : Nat) (f : Context → Context) : (s.modCtx n f).cur = s.cur := rfl
@[simp] theorem State.modCtx_tick (s : State) (n : Nat) (f : Context → Context) : (s.modCtx n f).tick = s.tick := rfl
@[simp] theorem State.modCtx_nextId (s : State) (n : Nat) (f : Context → Context) : (s.modCtx n f).nextId = s.nextId := rfl
@[simp] theorem State.modCtx_power (s : State) (n : Nat) (f : Context → Context) : (s.modCtx n f).power = s.power := rfl
@[simp] theorem State.modCtx_dev (s : State) (n : Nat) (f : Context → Context) : (s.modCtx n f).dev = s.dev := rfl
@[simp] theorem State.modCtx_clk (s : State) (n : Nat) (f : Context → Context) : (s.modCtx n f).clk = s.clk := rfl
@[simp] theorem State.modCtx_groups (s : State) (n : Nat) (f : Context → Context) : (s.modCtx n f).groups = s.groups := rfl
@[simp] theorem State.modCtx_wgs (s : State) (n : Nat) (f : Context → Context) : (s.modCtx n f).wgs = s.wgs := rfl
@[simp] theorem State.modCtx_grids (s : State) (n : Nat) (f : Context → Context) : (s.modCtx n f).grids = s.grids := rfl
@[simp] theorem State.modCtx_launches (s : State) (n : Nat) (f : Context → Context) : (s.modCtx n f).launches = s.launches := rfl
@[simp] theorem State.modCtx_xfers (s : State) (n : Nat) (f : Context → Context) : (s.modCtx n f).xfers = s.xfers := rfl
@[simp] theorem State.modCtx_overflowCap (s : State) (n : Nat) (f : Context → Context) : (s.modCtx n f).overflowCap = s.overflowCap := rfl
@[simp] theorem State.modCtx_ringLast (s : State) (n : Nat) (f : Context → Context) : (s.modCtx n f).ringLast = s.ringLast := rfl
@[simp] theorem State.modCtx_mops (s : State) (n : Nat) (f : Context → Context) : (s.modCtx n f).mops = s.mops := rfl
@[simp] theorem State.modCtx_txs (s : State) (n : Nat) (f : Context → Context) : (s.modCtx n f).txs = s.txs := rfl
@[simp] theorem State.modCtx_copies (s : State) (n : Nat) (f : Context → Context) : (s.modCtx n f).copies = s.copies := rfl
@[simp] theorem State.modCtx_written (s : State) (n : Nat) (f : Context → Context) : (s.modCtx n f).written = s.written := rfl
@[simp] theorem State.modCtx_engineWaits (s : State) (n : Nat) (f : Context → Context) : (s.modCtx n f).engineWaits = s.engineWaits := rfl
@[simp] theorem State.modCtx_lathe (s : State) (n : Nat) (f : Context → Context) : (s.modCtx n f).lathe = s.lathe := rfl
@[simp] theorem State.modCtx_rings (s : State) (n : Nat) (f : Context → Context) : (s.modCtx n f).rings = s.rings := rfl
@[simp] theorem State.modCtx_collectors (s : State) (n : Nat) (f : Context → Context) : (s.modCtx n f).collectors = s.collectors := rfl
@[simp] theorem State.modCtx_queries (s : State) (n : Nat) (f : Context → Context) : (s.modCtx n f).queries = s.queries := rfl
@[simp] theorem State.modCtx_enqReads (s : State) (n : Nat) (f : Context → Context) : (s.modCtx n f).enqReads = s.enqReads := rfl
@[simp] theorem State.modCtx_tokOps (s : State) (n : Nat) (f : Context → Context) : (s.modCtx n f).tokOps = s.tokOps := rfl
@[simp] theorem State.modCtx_evals (s : State) (n : Nat) (f : Context → Context) : (s.modCtx n f).evals = s.evals := rfl
@[simp] theorem State.modCtx_evalPosts (s : State) (n : Nat) (f : Context → Context) : (s.modCtx n f).evalPosts = s.evalPosts := rfl
@[simp] theorem State.modCtx_reductions (s : State) (n : Nat) (f : Context → Context) : (s.modCtx n f).reductions = s.reductions := rfl
@[simp] theorem State.modCtx_tokens (s : State) (n : Nat) (f : Context → Context) : (s.modCtx n f).tokens = s.tokens := rfl
@[simp] theorem State.modCtx_tokWait (s : State) (n : Nat) (f : Context → Context) : (s.modCtx n f).tokWait = s.tokWait := rfl
@[simp] theorem State.modCtx_mem (s : State) (n : Nat) (f : Context → Context) : (s.modCtx n f).mem = s.mem := rfl
@[simp] theorem State.modCtx_spm (s : State) (n : Nat) (f : Context → Context) : (s.modCtx n f).spm = s.spm := rfl
@[simp] theorem State.modCtx_tags (s : State) (n : Nat) (f : Context → Context) : (s.modCtx n f).tags = s.tags := rfl
@[simp] theorem State.modCtx_poison (s : State) (n : Nat) (f : Context → Context) : (s.modCtx n f).poison = s.poison := rfl
@[simp] theorem State.modCtx_spmPoison (s : State) (n : Nat) (f : Context → Context) : (s.modCtx n f).spmPoison = s.spmPoison := rfl
@[simp] theorem State.modCtx_accPoison (s : State) (n : Nat) (f : Context → Context) : (s.modCtx n f).accPoison = s.accPoison := rfl
@[simp] theorem State.modCtx_acc (s : State) (n : Nat) (f : Context → Context) : (s.modCtx n f).acc = s.acc := rfl
@[simp] theorem State.modCtx_bands (s : State) (n : Nat) (f : Context → Context) : (s.modCtx n f).bands = s.bands := rfl
@[simp] theorem State.modCtx_bandCtx (s : State) (n : Nat) (f : Context → Context) : (s.modCtx n f).bandCtx = s.bandCtx := rfl
@[simp] theorem State.modCtx_spmCtx (s : State) (n : Nat) (f : Context → Context) : (s.modCtx n f).spmCtx = s.spmCtx := rfl
@[simp] theorem State.modCtx_act (s : State) (n : Nat) (f : Context → Context) : (s.modCtx n f).act = s.act := rfl
@[simp] theorem State.modCtx_actBank (s : State) (n : Nat) (f : Context → Context) : (s.modCtx n f).actBank = s.actBank := rfl
@[simp] theorem State.modCtx_l1 (s : State) (n : Nat) (f : Context → Context) : (s.modCtx n f).l1 = s.l1 := rfl
@[simp] theorem State.modCtx_istore (s : State) (n : Nat) (f : Context → Context) : (s.modCtx n f).istore = s.istore := rfl
@[simp] theorem State.modCtx_tlb (s : State) (n : Nat) (f : Context → Context) : (s.modCtx n f).tlb = s.tlb := rfl
@[simp] theorem State.modCtx_fcons (s : State) (n : Nat) (f : Context → Context) : (s.modCtx n f).fcons = s.fcons := rfl
@[simp] theorem State.modCtx_segid (s : State) (n : Nat) (f : Context → Context) : (s.modCtx n f).segid = s.segid := rfl
@[simp] theorem State.modCtx_fq (s : State) (n : Nat) (f : Context → Context) : (s.modCtx n f).fq = s.fq := rfl
@[simp] theorem State.modCtx_cam (s : State) (n : Nat) (f : Context → Context) : (s.modCtx n f).cam = s.cam := rfl
@[simp] theorem State.modCtx_history (s : State) (n : Nat) (f : Context → Context) : (s.modCtx n f).history = s.history := rfl
@[simp] theorem State.modCtx_patrol (s : State) (n : Nat) (f : Context → Context) : (s.modCtx n f).patrol = s.patrol := rfl
@[simp] theorem State.modCtx_events (s : State) (n : Nat) (f : Context → Context) : (s.modCtx n f).events = s.events := rfl
@[simp] theorem State.modCtx_counters (s : State) (n : Nat) (f : Context → Context) : (s.modCtx n f).counters = s.counters := rfl
@[simp] theorem State.modCtx_perfSel (s : State) (n : Nat) (f : Context → Context) : (s.modCtx n f).perfSel = s.perfSel := rfl
@[simp] theorem State.modCtx_shadowReqs (s : State) (n : Nat) (f : Context → Context) : (s.modCtx n f).shadowReqs = s.shadowReqs := rfl
@[simp] theorem State.modCtx_screenEnds (s : State) (n : Nat) (f : Context → Context) : (s.modCtx n f).screenEnds = s.screenEnds := rfl
@[simp] theorem State.modCtx_screens (s : State) (n : Nat) (f : Context → Context) : (s.modCtx n f).screens = s.screens := rfl
@[simp] theorem State.modCtx_handouts (s : State) (n : Nat) (f : Context → Context) : (s.modCtx n f).handouts = s.handouts := rfl
@[simp] theorem State.modCtx_passes (s : State) (n : Nat) (f : Context → Context) : (s.modCtx n f).passes = s.passes := rfl
@[simp] theorem State.modCtx_lastSwap (s : State) (n : Nat) (f : Context → Context) : (s.modCtx n f).lastSwap = s.lastSwap := rfl
@[simp] theorem State.modCtx_cmdMem (s : State) (n : Nat) (f : Context → Context) : (s.modCtx n f).cmdMem = s.cmdMem := rfl
@[simp] theorem State.modCtx_patch (s : State) (n : Nat) (f : Context → Context) : (s.modCtx n f).patch = s.patch := rfl
@[simp] theorem State.modCtx_cmd (s : State) (n : Nat) (f : Context → Context) : (s.modCtx n f).cmd = s.cmd := rfl
@[simp] theorem State.modCtx_cmdRewritten (s : State) (n : Nat) (f : Context → Context) : (s.modCtx n f).cmdRewritten = s.cmdRewritten := rfl
@[simp] theorem State.modCtx_migrates (s : State) (n : Nat) (f : Context → Context) : (s.modCtx n f).migrates = s.migrates := rfl
@[simp] theorem State.modCtx_msix (s : State) (n : Nat) (f : Context → Context) : (s.modCtx n f).msix = s.msix := rfl
@[simp] theorem State.modCtx_msi (s : State) (n : Nat) (f : Context → Context) : (s.modCtx n f).msi = s.msi := rfl
@[simp] theorem State.modCtx_replies (s : State) (n : Nat) (f : Context → Context) : (s.modCtx n f).replies = s.replies := rfl
@[simp] theorem State.modCtx_version (s : State) (n : Nat) (f : Context → Context) : (s.modCtx n f).version = s.version := rfl
@[simp] theorem State.modCtx_patched (s : State) (n : Nat) (f : Context → Context) : (s.modCtx n f).patched = s.patched := rfl
@[simp] theorem State.modCtx_devAt (s : State) (n : Nat) (f : Context → Context) : (s.modCtx n f).devAt = s.devAt := rfl
@[simp] theorem State.modCtx_point (s : State) (n : Nat) (f : Context → Context) : (s.modCtx n f).point = s.point := rfl
@[simp] theorem State.modCtx_hostWait (s : State) (n : Nat) (f : Context → Context) : (s.modCtx n f).hostWait = s.hostWait := rfl
@[simp] theorem State.modCtx_recovery (s : State) (n : Nat) (f : Context → Context) : (s.modCtx n f).recovery = s.recovery := rfl
@[simp] theorem State.modCtx_scrubPeriod (s : State) (n : Nat) (f : Context → Context) : (s.modCtx n f).scrubPeriod = s.scrubPeriod := rfl
@[simp] theorem State.modCtx_scrubWeighted (s : State) (n : Nat) (f : Context → Context) : (s.modCtx n f).scrubWeighted = s.scrubWeighted := rfl
@[simp] theorem State.modCtx_peer (s : State) (n : Nat) (f : Context → Context) : (s.modCtx n f).peer = s.peer := rfl
@[simp] theorem State.modCtx_domain (s : State) (n : Nat) (f : Context → Context) : (s.modCtx n f).domain = s.domain := rfl
@[simp] theorem State.modCtx_peers (s : State) (n : Nat) (f : Context → Context) : (s.modCtx n f).peers = s.peers := rfl
@[simp] theorem State.modCtx_mcast (s : State) (n : Nat) (f : Context → Context) : (s.modCtx n f).mcast = s.mcast := rfl
@[simp] theorem State.modCtx_mcastCtx (s : State) (n : Nat) (f : Context → Context) : (s.modCtx n f).mcastCtx = s.mcastCtx := rfl
@[simp] theorem State.modCtx_sent (s : State) (n : Nat) (f : Context → Context) : (s.modCtx n f).sent = s.sent := rfl
@[simp] theorem State.modCtx_unsent (s : State) (n : Nat) (f : Context → Context) : (s.modCtx n f).unsent = s.unsent := rfl
@[simp] theorem State.modCtx_arrived (s : State) (n : Nat) (f : Context → Context) : (s.modCtx n f).arrived = s.arrived := rfl
@[simp] theorem State.modCtx_ports (s : State) (n : Nat) (f : Context → Context) : (s.modCtx n f).ports = s.ports := rfl
@[simp] theorem State.modCtx_frames (s : State) (n : Nat) (f : Context → Context) : (s.modCtx n f).frames = s.frames := rfl
@[simp] theorem State.modCtx_frames1 (s : State) (n : Nat) (f : Context → Context) : (s.modCtx n f).frames1 = s.frames1 := rfl

/-! ### modGrid -/

@[simp] theorem State.modGrid_inputs (s : State) (n : Nat) (f : Grid → Grid) : (s.modGrid n f).inputs = s.inputs := rfl
@[simp] theorem State.modGrid_cur (s : State) (n : Nat) (f : Grid → Grid) : (s.modGrid n f).cur = s.cur := rfl
@[simp] theorem State.modGrid_tick (s : State) (n : Nat) (f : Grid → Grid) : (s.modGrid n f).tick = s.tick := rfl
@[simp] theorem State.modGrid_nextId (s : State) (n : Nat) (f : Grid → Grid) : (s.modGrid n f).nextId = s.nextId := rfl
@[simp] theorem State.modGrid_power (s : State) (n : Nat) (f : Grid → Grid) : (s.modGrid n f).power = s.power := rfl
@[simp] theorem State.modGrid_dev (s : State) (n : Nat) (f : Grid → Grid) : (s.modGrid n f).dev = s.dev := rfl
@[simp] theorem State.modGrid_clk (s : State) (n : Nat) (f : Grid → Grid) : (s.modGrid n f).clk = s.clk := rfl
@[simp] theorem State.modGrid_groups (s : State) (n : Nat) (f : Grid → Grid) : (s.modGrid n f).groups = s.groups := rfl
@[simp] theorem State.modGrid_wgs (s : State) (n : Nat) (f : Grid → Grid) : (s.modGrid n f).wgs = s.wgs := rfl
@[simp] theorem State.modGrid_launches (s : State) (n : Nat) (f : Grid → Grid) : (s.modGrid n f).launches = s.launches := rfl
@[simp] theorem State.modGrid_ctxs (s : State) (n : Nat) (f : Grid → Grid) : (s.modGrid n f).ctxs = s.ctxs := rfl
@[simp] theorem State.modGrid_xfers (s : State) (n : Nat) (f : Grid → Grid) : (s.modGrid n f).xfers = s.xfers := rfl
@[simp] theorem State.modGrid_overflowCap (s : State) (n : Nat) (f : Grid → Grid) : (s.modGrid n f).overflowCap = s.overflowCap := rfl
@[simp] theorem State.modGrid_ringLast (s : State) (n : Nat) (f : Grid → Grid) : (s.modGrid n f).ringLast = s.ringLast := rfl
@[simp] theorem State.modGrid_mops (s : State) (n : Nat) (f : Grid → Grid) : (s.modGrid n f).mops = s.mops := rfl
@[simp] theorem State.modGrid_txs (s : State) (n : Nat) (f : Grid → Grid) : (s.modGrid n f).txs = s.txs := rfl
@[simp] theorem State.modGrid_copies (s : State) (n : Nat) (f : Grid → Grid) : (s.modGrid n f).copies = s.copies := rfl
@[simp] theorem State.modGrid_written (s : State) (n : Nat) (f : Grid → Grid) : (s.modGrid n f).written = s.written := rfl
@[simp] theorem State.modGrid_engineWaits (s : State) (n : Nat) (f : Grid → Grid) : (s.modGrid n f).engineWaits = s.engineWaits := rfl
@[simp] theorem State.modGrid_lathe (s : State) (n : Nat) (f : Grid → Grid) : (s.modGrid n f).lathe = s.lathe := rfl
@[simp] theorem State.modGrid_rings (s : State) (n : Nat) (f : Grid → Grid) : (s.modGrid n f).rings = s.rings := rfl
@[simp] theorem State.modGrid_collectors (s : State) (n : Nat) (f : Grid → Grid) : (s.modGrid n f).collectors = s.collectors := rfl
@[simp] theorem State.modGrid_queries (s : State) (n : Nat) (f : Grid → Grid) : (s.modGrid n f).queries = s.queries := rfl
@[simp] theorem State.modGrid_enqReads (s : State) (n : Nat) (f : Grid → Grid) : (s.modGrid n f).enqReads = s.enqReads := rfl
@[simp] theorem State.modGrid_tokOps (s : State) (n : Nat) (f : Grid → Grid) : (s.modGrid n f).tokOps = s.tokOps := rfl
@[simp] theorem State.modGrid_evals (s : State) (n : Nat) (f : Grid → Grid) : (s.modGrid n f).evals = s.evals := rfl
@[simp] theorem State.modGrid_evalPosts (s : State) (n : Nat) (f : Grid → Grid) : (s.modGrid n f).evalPosts = s.evalPosts := rfl
@[simp] theorem State.modGrid_reductions (s : State) (n : Nat) (f : Grid → Grid) : (s.modGrid n f).reductions = s.reductions := rfl
@[simp] theorem State.modGrid_tokens (s : State) (n : Nat) (f : Grid → Grid) : (s.modGrid n f).tokens = s.tokens := rfl
@[simp] theorem State.modGrid_tokWait (s : State) (n : Nat) (f : Grid → Grid) : (s.modGrid n f).tokWait = s.tokWait := rfl
@[simp] theorem State.modGrid_mem (s : State) (n : Nat) (f : Grid → Grid) : (s.modGrid n f).mem = s.mem := rfl
@[simp] theorem State.modGrid_spm (s : State) (n : Nat) (f : Grid → Grid) : (s.modGrid n f).spm = s.spm := rfl
@[simp] theorem State.modGrid_tags (s : State) (n : Nat) (f : Grid → Grid) : (s.modGrid n f).tags = s.tags := rfl
@[simp] theorem State.modGrid_poison (s : State) (n : Nat) (f : Grid → Grid) : (s.modGrid n f).poison = s.poison := rfl
@[simp] theorem State.modGrid_spmPoison (s : State) (n : Nat) (f : Grid → Grid) : (s.modGrid n f).spmPoison = s.spmPoison := rfl
@[simp] theorem State.modGrid_accPoison (s : State) (n : Nat) (f : Grid → Grid) : (s.modGrid n f).accPoison = s.accPoison := rfl
@[simp] theorem State.modGrid_acc (s : State) (n : Nat) (f : Grid → Grid) : (s.modGrid n f).acc = s.acc := rfl
@[simp] theorem State.modGrid_bands (s : State) (n : Nat) (f : Grid → Grid) : (s.modGrid n f).bands = s.bands := rfl
@[simp] theorem State.modGrid_bandCtx (s : State) (n : Nat) (f : Grid → Grid) : (s.modGrid n f).bandCtx = s.bandCtx := rfl
@[simp] theorem State.modGrid_spmCtx (s : State) (n : Nat) (f : Grid → Grid) : (s.modGrid n f).spmCtx = s.spmCtx := rfl
@[simp] theorem State.modGrid_act (s : State) (n : Nat) (f : Grid → Grid) : (s.modGrid n f).act = s.act := rfl
@[simp] theorem State.modGrid_actBank (s : State) (n : Nat) (f : Grid → Grid) : (s.modGrid n f).actBank = s.actBank := rfl
@[simp] theorem State.modGrid_l1 (s : State) (n : Nat) (f : Grid → Grid) : (s.modGrid n f).l1 = s.l1 := rfl
@[simp] theorem State.modGrid_istore (s : State) (n : Nat) (f : Grid → Grid) : (s.modGrid n f).istore = s.istore := rfl
@[simp] theorem State.modGrid_tlb (s : State) (n : Nat) (f : Grid → Grid) : (s.modGrid n f).tlb = s.tlb := rfl
@[simp] theorem State.modGrid_fcons (s : State) (n : Nat) (f : Grid → Grid) : (s.modGrid n f).fcons = s.fcons := rfl
@[simp] theorem State.modGrid_segid (s : State) (n : Nat) (f : Grid → Grid) : (s.modGrid n f).segid = s.segid := rfl
@[simp] theorem State.modGrid_fq (s : State) (n : Nat) (f : Grid → Grid) : (s.modGrid n f).fq = s.fq := rfl
@[simp] theorem State.modGrid_cam (s : State) (n : Nat) (f : Grid → Grid) : (s.modGrid n f).cam = s.cam := rfl
@[simp] theorem State.modGrid_history (s : State) (n : Nat) (f : Grid → Grid) : (s.modGrid n f).history = s.history := rfl
@[simp] theorem State.modGrid_patrol (s : State) (n : Nat) (f : Grid → Grid) : (s.modGrid n f).patrol = s.patrol := rfl
@[simp] theorem State.modGrid_events (s : State) (n : Nat) (f : Grid → Grid) : (s.modGrid n f).events = s.events := rfl
@[simp] theorem State.modGrid_counters (s : State) (n : Nat) (f : Grid → Grid) : (s.modGrid n f).counters = s.counters := rfl
@[simp] theorem State.modGrid_perfSel (s : State) (n : Nat) (f : Grid → Grid) : (s.modGrid n f).perfSel = s.perfSel := rfl
@[simp] theorem State.modGrid_shadowReqs (s : State) (n : Nat) (f : Grid → Grid) : (s.modGrid n f).shadowReqs = s.shadowReqs := rfl
@[simp] theorem State.modGrid_screenEnds (s : State) (n : Nat) (f : Grid → Grid) : (s.modGrid n f).screenEnds = s.screenEnds := rfl
@[simp] theorem State.modGrid_screens (s : State) (n : Nat) (f : Grid → Grid) : (s.modGrid n f).screens = s.screens := rfl
@[simp] theorem State.modGrid_handouts (s : State) (n : Nat) (f : Grid → Grid) : (s.modGrid n f).handouts = s.handouts := rfl
@[simp] theorem State.modGrid_passes (s : State) (n : Nat) (f : Grid → Grid) : (s.modGrid n f).passes = s.passes := rfl
@[simp] theorem State.modGrid_lastSwap (s : State) (n : Nat) (f : Grid → Grid) : (s.modGrid n f).lastSwap = s.lastSwap := rfl
@[simp] theorem State.modGrid_cmdMem (s : State) (n : Nat) (f : Grid → Grid) : (s.modGrid n f).cmdMem = s.cmdMem := rfl
@[simp] theorem State.modGrid_patch (s : State) (n : Nat) (f : Grid → Grid) : (s.modGrid n f).patch = s.patch := rfl
@[simp] theorem State.modGrid_cmd (s : State) (n : Nat) (f : Grid → Grid) : (s.modGrid n f).cmd = s.cmd := rfl
@[simp] theorem State.modGrid_cmdRewritten (s : State) (n : Nat) (f : Grid → Grid) : (s.modGrid n f).cmdRewritten = s.cmdRewritten := rfl
@[simp] theorem State.modGrid_migrates (s : State) (n : Nat) (f : Grid → Grid) : (s.modGrid n f).migrates = s.migrates := rfl
@[simp] theorem State.modGrid_msix (s : State) (n : Nat) (f : Grid → Grid) : (s.modGrid n f).msix = s.msix := rfl
@[simp] theorem State.modGrid_msi (s : State) (n : Nat) (f : Grid → Grid) : (s.modGrid n f).msi = s.msi := rfl
@[simp] theorem State.modGrid_replies (s : State) (n : Nat) (f : Grid → Grid) : (s.modGrid n f).replies = s.replies := rfl
@[simp] theorem State.modGrid_version (s : State) (n : Nat) (f : Grid → Grid) : (s.modGrid n f).version = s.version := rfl
@[simp] theorem State.modGrid_patched (s : State) (n : Nat) (f : Grid → Grid) : (s.modGrid n f).patched = s.patched := rfl
@[simp] theorem State.modGrid_devAt (s : State) (n : Nat) (f : Grid → Grid) : (s.modGrid n f).devAt = s.devAt := rfl
@[simp] theorem State.modGrid_point (s : State) (n : Nat) (f : Grid → Grid) : (s.modGrid n f).point = s.point := rfl
@[simp] theorem State.modGrid_hostWait (s : State) (n : Nat) (f : Grid → Grid) : (s.modGrid n f).hostWait = s.hostWait := rfl
@[simp] theorem State.modGrid_recovery (s : State) (n : Nat) (f : Grid → Grid) : (s.modGrid n f).recovery = s.recovery := rfl
@[simp] theorem State.modGrid_scrubPeriod (s : State) (n : Nat) (f : Grid → Grid) : (s.modGrid n f).scrubPeriod = s.scrubPeriod := rfl
@[simp] theorem State.modGrid_scrubWeighted (s : State) (n : Nat) (f : Grid → Grid) : (s.modGrid n f).scrubWeighted = s.scrubWeighted := rfl
@[simp] theorem State.modGrid_peer (s : State) (n : Nat) (f : Grid → Grid) : (s.modGrid n f).peer = s.peer := rfl
@[simp] theorem State.modGrid_domain (s : State) (n : Nat) (f : Grid → Grid) : (s.modGrid n f).domain = s.domain := rfl
@[simp] theorem State.modGrid_peers (s : State) (n : Nat) (f : Grid → Grid) : (s.modGrid n f).peers = s.peers := rfl
@[simp] theorem State.modGrid_mcast (s : State) (n : Nat) (f : Grid → Grid) : (s.modGrid n f).mcast = s.mcast := rfl
@[simp] theorem State.modGrid_mcastCtx (s : State) (n : Nat) (f : Grid → Grid) : (s.modGrid n f).mcastCtx = s.mcastCtx := rfl
@[simp] theorem State.modGrid_sent (s : State) (n : Nat) (f : Grid → Grid) : (s.modGrid n f).sent = s.sent := rfl
@[simp] theorem State.modGrid_unsent (s : State) (n : Nat) (f : Grid → Grid) : (s.modGrid n f).unsent = s.unsent := rfl
@[simp] theorem State.modGrid_arrived (s : State) (n : Nat) (f : Grid → Grid) : (s.modGrid n f).arrived = s.arrived := rfl
@[simp] theorem State.modGrid_ports (s : State) (n : Nat) (f : Grid → Grid) : (s.modGrid n f).ports = s.ports := rfl
@[simp] theorem State.modGrid_frames (s : State) (n : Nat) (f : Grid → Grid) : (s.modGrid n f).frames = s.frames := rfl
@[simp] theorem State.modGrid_frames1 (s : State) (n : Nat) (f : Grid → Grid) : (s.modGrid n f).frames1 = s.frames1 := rfl

/-! ### mapElems -/

@[simp] theorem State.mapElems_inputs (s : State) (f : MemOp → Elem → Elem) : (s.mapElems f).inputs = s.inputs := rfl
@[simp] theorem State.mapElems_cur (s : State) (f : MemOp → Elem → Elem) : (s.mapElems f).cur = s.cur := rfl
@[simp] theorem State.mapElems_tick (s : State) (f : MemOp → Elem → Elem) : (s.mapElems f).tick = s.tick := rfl
@[simp] theorem State.mapElems_nextId (s : State) (f : MemOp → Elem → Elem) : (s.mapElems f).nextId = s.nextId := rfl
@[simp] theorem State.mapElems_power (s : State) (f : MemOp → Elem → Elem) : (s.mapElems f).power = s.power := rfl
@[simp] theorem State.mapElems_dev (s : State) (f : MemOp → Elem → Elem) : (s.mapElems f).dev = s.dev := rfl
@[simp] theorem State.mapElems_clk (s : State) (f : MemOp → Elem → Elem) : (s.mapElems f).clk = s.clk := rfl
@[simp] theorem State.mapElems_groups (s : State) (f : MemOp → Elem → Elem) : (s.mapElems f).groups = s.groups := rfl
@[simp] theorem State.mapElems_wgs (s : State) (f : MemOp → Elem → Elem) : (s.mapElems f).wgs = s.wgs := rfl
@[simp] theorem State.mapElems_grids (s : State) (f : MemOp → Elem → Elem) : (s.mapElems f).grids = s.grids := rfl
@[simp] theorem State.mapElems_launches (s : State) (f : MemOp → Elem → Elem) : (s.mapElems f).launches = s.launches := rfl
@[simp] theorem State.mapElems_ctxs (s : State) (f : MemOp → Elem → Elem) : (s.mapElems f).ctxs = s.ctxs := rfl
@[simp] theorem State.mapElems_xfers (s : State) (f : MemOp → Elem → Elem) : (s.mapElems f).xfers = s.xfers := rfl
@[simp] theorem State.mapElems_overflowCap (s : State) (f : MemOp → Elem → Elem) : (s.mapElems f).overflowCap = s.overflowCap := rfl
@[simp] theorem State.mapElems_ringLast (s : State) (f : MemOp → Elem → Elem) : (s.mapElems f).ringLast = s.ringLast := rfl
@[simp] theorem State.mapElems_txs (s : State) (f : MemOp → Elem → Elem) : (s.mapElems f).txs = s.txs := rfl
@[simp] theorem State.mapElems_copies (s : State) (f : MemOp → Elem → Elem) : (s.mapElems f).copies = s.copies := rfl
@[simp] theorem State.mapElems_written (s : State) (f : MemOp → Elem → Elem) : (s.mapElems f).written = s.written := rfl
@[simp] theorem State.mapElems_engineWaits (s : State) (f : MemOp → Elem → Elem) : (s.mapElems f).engineWaits = s.engineWaits := rfl
@[simp] theorem State.mapElems_lathe (s : State) (f : MemOp → Elem → Elem) : (s.mapElems f).lathe = s.lathe := rfl
@[simp] theorem State.mapElems_rings (s : State) (f : MemOp → Elem → Elem) : (s.mapElems f).rings = s.rings := rfl
@[simp] theorem State.mapElems_collectors (s : State) (f : MemOp → Elem → Elem) : (s.mapElems f).collectors = s.collectors := rfl
@[simp] theorem State.mapElems_queries (s : State) (f : MemOp → Elem → Elem) : (s.mapElems f).queries = s.queries := rfl
@[simp] theorem State.mapElems_enqReads (s : State) (f : MemOp → Elem → Elem) : (s.mapElems f).enqReads = s.enqReads := rfl
@[simp] theorem State.mapElems_tokOps (s : State) (f : MemOp → Elem → Elem) : (s.mapElems f).tokOps = s.tokOps := rfl
@[simp] theorem State.mapElems_evals (s : State) (f : MemOp → Elem → Elem) : (s.mapElems f).evals = s.evals := rfl
@[simp] theorem State.mapElems_evalPosts (s : State) (f : MemOp → Elem → Elem) : (s.mapElems f).evalPosts = s.evalPosts := rfl
@[simp] theorem State.mapElems_reductions (s : State) (f : MemOp → Elem → Elem) : (s.mapElems f).reductions = s.reductions := rfl
@[simp] theorem State.mapElems_tokens (s : State) (f : MemOp → Elem → Elem) : (s.mapElems f).tokens = s.tokens := rfl
@[simp] theorem State.mapElems_tokWait (s : State) (f : MemOp → Elem → Elem) : (s.mapElems f).tokWait = s.tokWait := rfl
@[simp] theorem State.mapElems_mem (s : State) (f : MemOp → Elem → Elem) : (s.mapElems f).mem = s.mem := rfl
@[simp] theorem State.mapElems_spm (s : State) (f : MemOp → Elem → Elem) : (s.mapElems f).spm = s.spm := rfl
@[simp] theorem State.mapElems_tags (s : State) (f : MemOp → Elem → Elem) : (s.mapElems f).tags = s.tags := rfl
@[simp] theorem State.mapElems_poison (s : State) (f : MemOp → Elem → Elem) : (s.mapElems f).poison = s.poison := rfl
@[simp] theorem State.mapElems_spmPoison (s : State) (f : MemOp → Elem → Elem) : (s.mapElems f).spmPoison = s.spmPoison := rfl
@[simp] theorem State.mapElems_accPoison (s : State) (f : MemOp → Elem → Elem) : (s.mapElems f).accPoison = s.accPoison := rfl
@[simp] theorem State.mapElems_acc (s : State) (f : MemOp → Elem → Elem) : (s.mapElems f).acc = s.acc := rfl
@[simp] theorem State.mapElems_bands (s : State) (f : MemOp → Elem → Elem) : (s.mapElems f).bands = s.bands := rfl
@[simp] theorem State.mapElems_bandCtx (s : State) (f : MemOp → Elem → Elem) : (s.mapElems f).bandCtx = s.bandCtx := rfl
@[simp] theorem State.mapElems_spmCtx (s : State) (f : MemOp → Elem → Elem) : (s.mapElems f).spmCtx = s.spmCtx := rfl
@[simp] theorem State.mapElems_act (s : State) (f : MemOp → Elem → Elem) : (s.mapElems f).act = s.act := rfl
@[simp] theorem State.mapElems_actBank (s : State) (f : MemOp → Elem → Elem) : (s.mapElems f).actBank = s.actBank := rfl
@[simp] theorem State.mapElems_l1 (s : State) (f : MemOp → Elem → Elem) : (s.mapElems f).l1 = s.l1 := rfl
@[simp] theorem State.mapElems_istore (s : State) (f : MemOp → Elem → Elem) : (s.mapElems f).istore = s.istore := rfl
@[simp] theorem State.mapElems_tlb (s : State) (f : MemOp → Elem → Elem) : (s.mapElems f).tlb = s.tlb := rfl
@[simp] theorem State.mapElems_fcons (s : State) (f : MemOp → Elem → Elem) : (s.mapElems f).fcons = s.fcons := rfl
@[simp] theorem State.mapElems_segid (s : State) (f : MemOp → Elem → Elem) : (s.mapElems f).segid = s.segid := rfl
@[simp] theorem State.mapElems_fq (s : State) (f : MemOp → Elem → Elem) : (s.mapElems f).fq = s.fq := rfl
@[simp] theorem State.mapElems_cam (s : State) (f : MemOp → Elem → Elem) : (s.mapElems f).cam = s.cam := rfl
@[simp] theorem State.mapElems_history (s : State) (f : MemOp → Elem → Elem) : (s.mapElems f).history = s.history := rfl
@[simp] theorem State.mapElems_patrol (s : State) (f : MemOp → Elem → Elem) : (s.mapElems f).patrol = s.patrol := rfl
@[simp] theorem State.mapElems_events (s : State) (f : MemOp → Elem → Elem) : (s.mapElems f).events = s.events := rfl
@[simp] theorem State.mapElems_counters (s : State) (f : MemOp → Elem → Elem) : (s.mapElems f).counters = s.counters := rfl
@[simp] theorem State.mapElems_perfSel (s : State) (f : MemOp → Elem → Elem) : (s.mapElems f).perfSel = s.perfSel := rfl
@[simp] theorem State.mapElems_shadowReqs (s : State) (f : MemOp → Elem → Elem) : (s.mapElems f).shadowReqs = s.shadowReqs := rfl
@[simp] theorem State.mapElems_screenEnds (s : State) (f : MemOp → Elem → Elem) : (s.mapElems f).screenEnds = s.screenEnds := rfl
@[simp] theorem State.mapElems_screens (s : State) (f : MemOp → Elem → Elem) : (s.mapElems f).screens = s.screens := rfl
@[simp] theorem State.mapElems_handouts (s : State) (f : MemOp → Elem → Elem) : (s.mapElems f).handouts = s.handouts := rfl
@[simp] theorem State.mapElems_passes (s : State) (f : MemOp → Elem → Elem) : (s.mapElems f).passes = s.passes := rfl
@[simp] theorem State.mapElems_lastSwap (s : State) (f : MemOp → Elem → Elem) : (s.mapElems f).lastSwap = s.lastSwap := rfl
@[simp] theorem State.mapElems_cmdMem (s : State) (f : MemOp → Elem → Elem) : (s.mapElems f).cmdMem = s.cmdMem := rfl
@[simp] theorem State.mapElems_patch (s : State) (f : MemOp → Elem → Elem) : (s.mapElems f).patch = s.patch := rfl
@[simp] theorem State.mapElems_cmd (s : State) (f : MemOp → Elem → Elem) : (s.mapElems f).cmd = s.cmd := rfl
@[simp] theorem State.mapElems_cmdRewritten (s : State) (f : MemOp → Elem → Elem) : (s.mapElems f).cmdRewritten = s.cmdRewritten := rfl
@[simp] theorem State.mapElems_migrates (s : State) (f : MemOp → Elem → Elem) : (s.mapElems f).migrates = s.migrates := rfl
@[simp] theorem State.mapElems_msix (s : State) (f : MemOp → Elem → Elem) : (s.mapElems f).msix = s.msix := rfl
@[simp] theorem State.mapElems_msi (s : State) (f : MemOp → Elem → Elem) : (s.mapElems f).msi = s.msi := rfl
@[simp] theorem State.mapElems_replies (s : State) (f : MemOp → Elem → Elem) : (s.mapElems f).replies = s.replies := rfl
@[simp] theorem State.mapElems_version (s : State) (f : MemOp → Elem → Elem) : (s.mapElems f).version = s.version := rfl
@[simp] theorem State.mapElems_patched (s : State) (f : MemOp → Elem → Elem) : (s.mapElems f).patched = s.patched := rfl
@[simp] theorem State.mapElems_devAt (s : State) (f : MemOp → Elem → Elem) : (s.mapElems f).devAt = s.devAt := rfl
@[simp] theorem State.mapElems_point (s : State) (f : MemOp → Elem → Elem) : (s.mapElems f).point = s.point := rfl
@[simp] theorem State.mapElems_hostWait (s : State) (f : MemOp → Elem → Elem) : (s.mapElems f).hostWait = s.hostWait := rfl
@[simp] theorem State.mapElems_recovery (s : State) (f : MemOp → Elem → Elem) : (s.mapElems f).recovery = s.recovery := rfl
@[simp] theorem State.mapElems_scrubPeriod (s : State) (f : MemOp → Elem → Elem) : (s.mapElems f).scrubPeriod = s.scrubPeriod := rfl
@[simp] theorem State.mapElems_scrubWeighted (s : State) (f : MemOp → Elem → Elem) : (s.mapElems f).scrubWeighted = s.scrubWeighted := rfl
@[simp] theorem State.mapElems_peer (s : State) (f : MemOp → Elem → Elem) : (s.mapElems f).peer = s.peer := rfl
@[simp] theorem State.mapElems_domain (s : State) (f : MemOp → Elem → Elem) : (s.mapElems f).domain = s.domain := rfl
@[simp] theorem State.mapElems_peers (s : State) (f : MemOp → Elem → Elem) : (s.mapElems f).peers = s.peers := rfl
@[simp] theorem State.mapElems_mcast (s : State) (f : MemOp → Elem → Elem) : (s.mapElems f).mcast = s.mcast := rfl
@[simp] theorem State.mapElems_mcastCtx (s : State) (f : MemOp → Elem → Elem) : (s.mapElems f).mcastCtx = s.mcastCtx := rfl
@[simp] theorem State.mapElems_sent (s : State) (f : MemOp → Elem → Elem) : (s.mapElems f).sent = s.sent := rfl
@[simp] theorem State.mapElems_unsent (s : State) (f : MemOp → Elem → Elem) : (s.mapElems f).unsent = s.unsent := rfl
@[simp] theorem State.mapElems_arrived (s : State) (f : MemOp → Elem → Elem) : (s.mapElems f).arrived = s.arrived := rfl
@[simp] theorem State.mapElems_ports (s : State) (f : MemOp → Elem → Elem) : (s.mapElems f).ports = s.ports := rfl
@[simp] theorem State.mapElems_frames (s : State) (f : MemOp → Elem → Elem) : (s.mapElems f).frames = s.frames := rfl
@[simp] theorem State.mapElems_frames1 (s : State) (f : MemOp → Elem → Elem) : (s.mapElems f).frames1 = s.frames1 := rfl

/-! ### setWait -/

@[simp] theorem State.setWait_inputs (s : State) (n i : Nat) (x : Wait) : (s.setWait n i x).inputs = s.inputs := rfl
@[simp] theorem State.setWait_cur (s : State) (n i : Nat) (x : Wait) : (s.setWait n i x).cur = s.cur := rfl
@[simp] theorem State.setWait_tick (s : State) (n i : Nat) (x : Wait) : (s.setWait n i x).tick = s.tick := rfl
@[simp] theorem State.setWait_nextId (s : State) (n i : Nat) (x : Wait) : (s.setWait n i x).nextId = s.nextId := rfl
@[simp] theorem State.setWait_power (s : State) (n i : Nat) (x : Wait) : (s.setWait n i x).power = s.power := rfl
@[simp] theorem State.setWait_dev (s : State) (n i : Nat) (x : Wait) : (s.setWait n i x).dev = s.dev := rfl
@[simp] theorem State.setWait_clk (s : State) (n i : Nat) (x : Wait) : (s.setWait n i x).clk = s.clk := rfl
@[simp] theorem State.setWait_wgs (s : State) (n i : Nat) (x : Wait) : (s.setWait n i x).wgs = s.wgs := rfl
@[simp] theorem State.setWait_grids (s : State) (n i : Nat) (x : Wait) : (s.setWait n i x).grids = s.grids := rfl
@[simp] theorem State.setWait_launches (s : State) (n i : Nat) (x : Wait) : (s.setWait n i x).launches = s.launches := rfl
@[simp] theorem State.setWait_ctxs (s : State) (n i : Nat) (x : Wait) : (s.setWait n i x).ctxs = s.ctxs := rfl
@[simp] theorem State.setWait_overflowCap (s : State) (n i : Nat) (x : Wait) : (s.setWait n i x).overflowCap = s.overflowCap := rfl
@[simp] theorem State.setWait_ringLast (s : State) (n i : Nat) (x : Wait) : (s.setWait n i x).ringLast = s.ringLast := rfl
@[simp] theorem State.setWait_mops (s : State) (n i : Nat) (x : Wait) : (s.setWait n i x).mops = s.mops := rfl
@[simp] theorem State.setWait_txs (s : State) (n i : Nat) (x : Wait) : (s.setWait n i x).txs = s.txs := rfl
@[simp] theorem State.setWait_copies (s : State) (n i : Nat) (x : Wait) : (s.setWait n i x).copies = s.copies := rfl
@[simp] theorem State.setWait_written (s : State) (n i : Nat) (x : Wait) : (s.setWait n i x).written = s.written := rfl
@[simp] theorem State.setWait_engineWaits (s : State) (n i : Nat) (x : Wait) : (s.setWait n i x).engineWaits = s.engineWaits := rfl
@[simp] theorem State.setWait_lathe (s : State) (n i : Nat) (x : Wait) : (s.setWait n i x).lathe = s.lathe := rfl
@[simp] theorem State.setWait_rings (s : State) (n i : Nat) (x : Wait) : (s.setWait n i x).rings = s.rings := rfl
@[simp] theorem State.setWait_collectors (s : State) (n i : Nat) (x : Wait) : (s.setWait n i x).collectors = s.collectors := rfl
@[simp] theorem State.setWait_queries (s : State) (n i : Nat) (x : Wait) : (s.setWait n i x).queries = s.queries := rfl
@[simp] theorem State.setWait_enqReads (s : State) (n i : Nat) (x : Wait) : (s.setWait n i x).enqReads = s.enqReads := rfl
@[simp] theorem State.setWait_tokOps (s : State) (n i : Nat) (x : Wait) : (s.setWait n i x).tokOps = s.tokOps := rfl
@[simp] theorem State.setWait_evals (s : State) (n i : Nat) (x : Wait) : (s.setWait n i x).evals = s.evals := rfl
@[simp] theorem State.setWait_evalPosts (s : State) (n i : Nat) (x : Wait) : (s.setWait n i x).evalPosts = s.evalPosts := rfl
@[simp] theorem State.setWait_reductions (s : State) (n i : Nat) (x : Wait) : (s.setWait n i x).reductions = s.reductions := rfl
@[simp] theorem State.setWait_tokens (s : State) (n i : Nat) (x : Wait) : (s.setWait n i x).tokens = s.tokens := rfl
@[simp] theorem State.setWait_tokWait (s : State) (n i : Nat) (x : Wait) : (s.setWait n i x).tokWait = s.tokWait := rfl
@[simp] theorem State.setWait_mem (s : State) (n i : Nat) (x : Wait) : (s.setWait n i x).mem = s.mem := rfl
@[simp] theorem State.setWait_spm (s : State) (n i : Nat) (x : Wait) : (s.setWait n i x).spm = s.spm := rfl
@[simp] theorem State.setWait_tags (s : State) (n i : Nat) (x : Wait) : (s.setWait n i x).tags = s.tags := rfl
@[simp] theorem State.setWait_poison (s : State) (n i : Nat) (x : Wait) : (s.setWait n i x).poison = s.poison := rfl
@[simp] theorem State.setWait_spmPoison (s : State) (n i : Nat) (x : Wait) : (s.setWait n i x).spmPoison = s.spmPoison := rfl
@[simp] theorem State.setWait_accPoison (s : State) (n i : Nat) (x : Wait) : (s.setWait n i x).accPoison = s.accPoison := rfl
@[simp] theorem State.setWait_acc (s : State) (n i : Nat) (x : Wait) : (s.setWait n i x).acc = s.acc := rfl
@[simp] theorem State.setWait_bands (s : State) (n i : Nat) (x : Wait) : (s.setWait n i x).bands = s.bands := rfl
@[simp] theorem State.setWait_bandCtx (s : State) (n i : Nat) (x : Wait) : (s.setWait n i x).bandCtx = s.bandCtx := rfl
@[simp] theorem State.setWait_spmCtx (s : State) (n i : Nat) (x : Wait) : (s.setWait n i x).spmCtx = s.spmCtx := rfl
@[simp] theorem State.setWait_act (s : State) (n i : Nat) (x : Wait) : (s.setWait n i x).act = s.act := rfl
@[simp] theorem State.setWait_actBank (s : State) (n i : Nat) (x : Wait) : (s.setWait n i x).actBank = s.actBank := rfl
@[simp] theorem State.setWait_l1 (s : State) (n i : Nat) (x : Wait) : (s.setWait n i x).l1 = s.l1 := rfl
@[simp] theorem State.setWait_istore (s : State) (n i : Nat) (x : Wait) : (s.setWait n i x).istore = s.istore := rfl
@[simp] theorem State.setWait_tlb (s : State) (n i : Nat) (x : Wait) : (s.setWait n i x).tlb = s.tlb := rfl
@[simp] theorem State.setWait_fcons (s : State) (n i : Nat) (x : Wait) : (s.setWait n i x).fcons = s.fcons := rfl
@[simp] theorem State.setWait_segid (s : State) (n i : Nat) (x : Wait) : (s.setWait n i x).segid = s.segid := rfl
@[simp] theorem State.setWait_fq (s : State) (n i : Nat) (x : Wait) : (s.setWait n i x).fq = s.fq := rfl
@[simp] theorem State.setWait_cam (s : State) (n i : Nat) (x : Wait) : (s.setWait n i x).cam = s.cam := rfl
@[simp] theorem State.setWait_history (s : State) (n i : Nat) (x : Wait) : (s.setWait n i x).history = s.history := rfl
@[simp] theorem State.setWait_patrol (s : State) (n i : Nat) (x : Wait) : (s.setWait n i x).patrol = s.patrol := rfl
@[simp] theorem State.setWait_events (s : State) (n i : Nat) (x : Wait) : (s.setWait n i x).events = s.events := rfl
@[simp] theorem State.setWait_counters (s : State) (n i : Nat) (x : Wait) : (s.setWait n i x).counters = s.counters := rfl
@[simp] theorem State.setWait_perfSel (s : State) (n i : Nat) (x : Wait) : (s.setWait n i x).perfSel = s.perfSel := rfl
@[simp] theorem State.setWait_shadowReqs (s : State) (n i : Nat) (x : Wait) : (s.setWait n i x).shadowReqs = s.shadowReqs := rfl
@[simp] theorem State.setWait_screenEnds (s : State) (n i : Nat) (x : Wait) : (s.setWait n i x).screenEnds = s.screenEnds := rfl
@[simp] theorem State.setWait_screens (s : State) (n i : Nat) (x : Wait) : (s.setWait n i x).screens = s.screens := rfl
@[simp] theorem State.setWait_handouts (s : State) (n i : Nat) (x : Wait) : (s.setWait n i x).handouts = s.handouts := rfl
@[simp] theorem State.setWait_passes (s : State) (n i : Nat) (x : Wait) : (s.setWait n i x).passes = s.passes := rfl
@[simp] theorem State.setWait_lastSwap (s : State) (n i : Nat) (x : Wait) : (s.setWait n i x).lastSwap = s.lastSwap := rfl
@[simp] theorem State.setWait_cmdMem (s : State) (n i : Nat) (x : Wait) : (s.setWait n i x).cmdMem = s.cmdMem := rfl
@[simp] theorem State.setWait_patch (s : State) (n i : Nat) (x : Wait) : (s.setWait n i x).patch = s.patch := rfl
@[simp] theorem State.setWait_cmd (s : State) (n i : Nat) (x : Wait) : (s.setWait n i x).cmd = s.cmd := rfl
@[simp] theorem State.setWait_cmdRewritten (s : State) (n i : Nat) (x : Wait) : (s.setWait n i x).cmdRewritten = s.cmdRewritten := rfl
@[simp] theorem State.setWait_migrates (s : State) (n i : Nat) (x : Wait) : (s.setWait n i x).migrates = s.migrates := rfl
@[simp] theorem State.setWait_msix (s : State) (n i : Nat) (x : Wait) : (s.setWait n i x).msix = s.msix := rfl
@[simp] theorem State.setWait_msi (s : State) (n i : Nat) (x : Wait) : (s.setWait n i x).msi = s.msi := rfl
@[simp] theorem State.setWait_replies (s : State) (n i : Nat) (x : Wait) : (s.setWait n i x).replies = s.replies := rfl
@[simp] theorem State.setWait_version (s : State) (n i : Nat) (x : Wait) : (s.setWait n i x).version = s.version := rfl
@[simp] theorem State.setWait_patched (s : State) (n i : Nat) (x : Wait) : (s.setWait n i x).patched = s.patched := rfl
@[simp] theorem State.setWait_devAt (s : State) (n i : Nat) (x : Wait) : (s.setWait n i x).devAt = s.devAt := rfl
@[simp] theorem State.setWait_point (s : State) (n i : Nat) (x : Wait) : (s.setWait n i x).point = s.point := rfl
@[simp] theorem State.setWait_hostWait (s : State) (n i : Nat) (x : Wait) : (s.setWait n i x).hostWait = s.hostWait := rfl
@[simp] theorem State.setWait_recovery (s : State) (n i : Nat) (x : Wait) : (s.setWait n i x).recovery = s.recovery := rfl
@[simp] theorem State.setWait_scrubPeriod (s : State) (n i : Nat) (x : Wait) : (s.setWait n i x).scrubPeriod = s.scrubPeriod := rfl
@[simp] theorem State.setWait_scrubWeighted (s : State) (n i : Nat) (x : Wait) : (s.setWait n i x).scrubWeighted = s.scrubWeighted := rfl
@[simp] theorem State.setWait_peer (s : State) (n i : Nat) (x : Wait) : (s.setWait n i x).peer = s.peer := rfl
@[simp] theorem State.setWait_domain (s : State) (n i : Nat) (x : Wait) : (s.setWait n i x).domain = s.domain := rfl
@[simp] theorem State.setWait_peers (s : State) (n i : Nat) (x : Wait) : (s.setWait n i x).peers = s.peers := rfl
@[simp] theorem State.setWait_mcast (s : State) (n i : Nat) (x : Wait) : (s.setWait n i x).mcast = s.mcast := rfl
@[simp] theorem State.setWait_mcastCtx (s : State) (n i : Nat) (x : Wait) : (s.setWait n i x).mcastCtx = s.mcastCtx := rfl
@[simp] theorem State.setWait_sent (s : State) (n i : Nat) (x : Wait) : (s.setWait n i x).sent = s.sent := rfl
@[simp] theorem State.setWait_unsent (s : State) (n i : Nat) (x : Wait) : (s.setWait n i x).unsent = s.unsent := rfl
@[simp] theorem State.setWait_arrived (s : State) (n i : Nat) (x : Wait) : (s.setWait n i x).arrived = s.arrived := rfl
@[simp] theorem State.setWait_ports (s : State) (n i : Nat) (x : Wait) : (s.setWait n i x).ports = s.ports := rfl
@[simp] theorem State.setWait_frames (s : State) (n i : Nat) (x : Wait) : (s.setWait n i x).frames = s.frames := rfl
@[simp] theorem State.setWait_frames1 (s : State) (n i : Nat) (x : Wait) : (s.setWait n i x).frames1 = s.frames1 := rfl

/-! ### modSplit -/

@[simp] theorem Group.modSplit_gid (g : Group) (i : Nat) (f : Split → Split) : (g.modSplit i f).gid = g.gid := rfl
@[simp] theorem Group.modSplit_core (g : Group) (i : Nat) (f : Split → Split) : (g.modSplit i f).core = g.core := rfl
@[simp] theorem Group.modSplit_slot (g : Group) (i : Nat) (f : Split → Split) : (g.modSplit i f).slot = g.slot := rfl
@[simp] theorem Group.modSplit_ctx (g : Group) (i : Nat) (f : Split → Split) : (g.modSplit i f).ctx = g.ctx := rfl
@[simp] theorem Group.modSplit_wg (g : Group) (i : Nat) (f : Split → Split) : (g.modSplit i f).wg = g.wg := rfl
@[simp] theorem Group.modSplit_grid (g : Group) (i : Nat) (f : Split → Split) : (g.modSplit i f).grid = g.grid := rfl
@[simp] theorem Group.modSplit_wgx (g : Group) (i : Nat) (f : Split → Split) : (g.modSplit i f).wgx = g.wgx := rfl
@[simp] theorem Group.modSplit_wgy (g : Group) (i : Nat) (f : Split → Split) : (g.modSplit i f).wgy = g.wgy := rfl
@[simp] theorem Group.modSplit_wgz (g : Group) (i : Nat) (f : Split → Split) : (g.modSplit i f).wgz = g.wgz := rfl
@[simp] theorem Group.modSplit_lin (g : Group) (i : Nat) (f : Split → Split) : (g.modSplit i f).lin = g.lin := rfl
@[simp] theorem Group.modSplit_ginwg (g : Group) (i : Nat) (f : Split → Split) : (g.modSplit i f).ginwg = g.ginwg := rfl
@[simp] theorem Group.modSplit_teamSize (g : Group) (i : Nat) (f : Split → Split) : (g.modSplit i f).teamSize = g.teamSize := rfl
@[simp] theorem Group.modSplit_teamIdx (g : Group) (i : Nat) (f : Split → Split) : (g.modSplit i f).teamIdx = g.teamIdx := rfl
@[simp] theorem Group.modSplit_depth (g : Group) (i : Nat) (f : Split → Split) : (g.modSplit i f).depth = g.depth := rfl
@[simp] theorem Group.modSplit_task (g : Group) (i : Nat) (f : Split → Split) : (g.modSplit i f).task = g.task := rfl
@[simp] theorem Group.modSplit_succ (g : Group) (i : Nat) (f : Split → Split) : (g.modSplit i f).succ = g.succ := rfl
@[simp] theorem Group.modSplit_evc (g : Group) (i : Nat) (f : Split → Split) : (g.modSplit i f).evc = g.evc := rfl
@[simp] theorem Group.modSplit_svc (g : Group) (i : Nat) (f : Split → Split) : (g.modSplit i f).svc = g.svc := rfl
@[simp] theorem Group.modSplit_late (g : Group) (i : Nat) (f : Split → Split) : (g.modSplit i f).late = g.late := rfl
@[simp] theorem Group.modSplit_drift (g : Group) (i : Nat) (f : Split → Split) : (g.modSplit i f).drift = g.drift := rfl
@[simp] theorem Group.modSplit_pair (g : Group) (i : Nat) (f : Split → Split) : (g.modSplit i f).pair = g.pair := rfl
@[simp] theorem Group.modSplit_shadow (g : Group) (i : Nat) (f : Split → Split) : (g.modSplit i f).shadow = g.shadow := rfl
@[simp] theorem Group.modSplit_screened (g : Group) (i : Nat) (f : Split → Split) : (g.modSplit i f).screened = g.screened := rfl
@[simp] theorem Group.modSplit_trapped (g : Group) (i : Nat) (f : Split → Split) : (g.modSplit i f).trapped = g.trapped := rfl
@[simp] theorem Group.modSplit_badTask (g : Group) (i : Nat) (f : Split → Split) : (g.modSplit i f).badTask = g.badTask := rfl
@[simp] theorem Group.modSplit_nblk (g : Group) (i : Nat) (f : Split → Split) : (g.modSplit i f).nblk = g.nblk := rfl
@[simp] theorem Group.modSplit_v (g : Group) (i : Nat) (f : Split → Split) : (g.modSplit i f).v = g.v := rfl
@[simp] theorem Group.modSplit_s (g : Group) (i : Nat) (f : Split → Split) : (g.modSplit i f).s = g.s := rfl
@[simp] theorem Group.modSplit_bank (g : Group) (i : Nat) (f : Split → Split) : (g.modSplit i f).bank = g.bank := rfl
@[simp] theorem Group.modSplit_p (g : Group) (i : Nat) (f : Split → Split) : (g.modSplit i f).p = g.p := rfl
@[simp] theorem Group.modSplit_latch (g : Group) (i : Nat) (f : Split → Split) : (g.modSplit i f).latch = g.latch := rfl
@[simp] theorem Group.modSplit_unfenced (g : Group) (i : Nat) (f : Split → Split) : (g.modSplit i f).unfenced = g.unfenced := rfl
@[simp] theorem Group.modSplit_unfencedSpm (g : Group) (i : Nat) (f : Split → Split) : (g.modSplit i f).unfencedSpm = g.unfencedSpm := rfl
@[simp] theorem Group.modSplit_stack (g : Group) (i : Nat) (f : Split → Split) : (g.modSplit i f).stack = g.stack := rfl
@[simp] theorem Group.modSplit_inflight (g : Group) (i : Nat) (f : Split → Split) : (g.modSplit i f).inflight = g.inflight := rfl
@[simp] theorem Group.modSplit_wdog (g : Group) (i : Nat) (f : Split → Split) : (g.modSplit i f).wdog = g.wdog := rfl
@[simp] theorem Group.modSplit_kill (g : Group) (i : Nat) (f : Split → Split) : (g.modSplit i f).kill = g.kill := rfl
@[simp] theorem Group.modSplit_cons (g : Group) (i : Nat) (f : Split → Split) : (g.modSplit i f).cons = g.cons := rfl
@[simp] theorem Group.modSplit_trapm (g : Group) (i : Nat) (f : Split → Split) : (g.modSplit i f).trapm = g.trapm := rfl
@[simp] theorem Group.modSplit_preq (g : Group) (i : Nat) (f : Split → Split) : (g.modSplit i f).preq = g.preq := rfl
@[simp] theorem Group.modSplit_seed (g : Group) (i : Nat) (f : Split → Split) : (g.modSplit i f).seed = g.seed := rfl
@[simp] theorem Group.modSplit_idempc (g : Group) (i : Nat) (f : Split → Split) : (g.modSplit i f).idempc = g.idempc := rfl
@[simp] theorem Group.modSplit_restart (g : Group) (i : Nat) (f : Split → Split) : (g.modSplit i f).restart = g.restart := rfl
@[simp] theorem Group.modSplit_rflt (g : Group) (i : Nat) (f : Split → Split) : (g.modSplit i f).rflt = g.rflt := rfl
@[simp] theorem Group.modSplit_mxit (g : Group) (i : Nat) (f : Split → Split) : (g.modSplit i f).mxit = g.mxit := rfl
@[simp] theorem Group.modSplit_drainst (g : Group) (i : Nat) (f : Split → Split) : (g.modSplit i f).drainst = g.drainst := rfl
@[simp] theorem Group.modSplit_lqst (g : Group) (i : Nat) (f : Split → Split) : (g.modSplit i f).lqst = g.lqst := rfl
@[simp] theorem Group.modSplit_tvec (g : Group) (i : Nat) (f : Split → Split) : (g.modSplit i f).tvec = g.tvec := rfl
@[simp] theorem Group.modSplit_tpc (g : Group) (i : Nat) (f : Split → Split) : (g.modSplit i f).tpc = g.tpc := rfl
@[simp] theorem Group.modSplit_tmask (g : Group) (i : Nat) (f : Split → Split) : (g.modSplit i f).tmask = g.tmask := rfl
@[simp] theorem Group.modSplit_tcause (g : Group) (i : Nat) (f : Split → Split) : (g.modSplit i f).tcause = g.tcause := rfl
@[simp] theorem Group.modSplit_taddr (g : Group) (i : Nat) (f : Split → Split) : (g.modSplit i f).taddr = g.taddr := rfl
@[simp] theorem Group.modSplit_tframe (g : Group) (i : Nat) (f : Split → Split) : (g.modSplit i f).tframe = g.tframe := rfl
@[simp] theorem Group.modSplit_tnrec (g : Group) (i : Nat) (f : Split → Split) : (g.modSplit i f).tnrec = g.tnrec := rfl
@[simp] theorem Group.modSplit_dplace (g : Group) (i : Nat) (f : Split → Split) : (g.modSplit i f).dplace = g.dplace := rfl
@[simp] theorem Group.modSplit_wdlim (g : Group) (i : Nat) (f : Split → Split) : (g.modSplit i f).wdlim = g.wdlim := rfl
@[simp] theorem Group.modSplit_qos (g : Group) (i : Nat) (f : Split → Split) : (g.modSplit i f).qos = g.qos := rfl
@[simp] theorem Group.modSplit_mxsave (g : Group) (i : Nat) (f : Split → Split) : (g.modSplit i f).mxsave = g.mxsave := rfl
@[simp] theorem Group.modSplit_pending (g : Group) (i : Nat) (f : Split → Split) : (g.modSplit i f).pending = g.pending := rfl
@[simp] theorem Group.modSplit_entering (g : Group) (i : Nat) (f : Split → Split) : (g.modSplit i f).entering = g.entering := rfl
@[simp] theorem Group.modSplit_cpyFault (g : Group) (i : Nat) (f : Split → Split) : (g.modSplit i f).cpyFault = g.cpyFault := rfl
@[simp] theorem Group.modSplit_mtxFault (g : Group) (i : Nat) (f : Split → Split) : (g.modSplit i f).mtxFault = g.mtxFault := rfl
@[simp] theorem Group.modSplit_lateDue (g : Group) (i : Nat) (f : Split → Split) : (g.modSplit i f).lateDue = g.lateDue := rfl
@[simp] theorem Group.modSplit_owed (g : Group) (i : Nat) (f : Split → Split) : (g.modSplit i f).owed = g.owed := rfl
@[simp] theorem Group.modSplit_pairings (g : Group) (i : Nat) (f : Split → Split) : (g.modSplit i f).pairings = g.pairings := rfl
@[simp] theorem Group.modSplit_strip (g : Group) (i : Nat) (f : Split → Split) : (g.modSplit i f).strip = g.strip := rfl
@[simp] theorem Group.modSplit_active (g : Group) (i : Nat) (f : Split → Split) : (g.modSplit i f).active = g.active := rfl
@[simp] theorem Group.modSplit_order (g : Group) (i : Nat) (f : Split → Split) : (g.modSplit i f).order = g.order := rfl
@[simp] theorem Group.modSplit_readyAt (g : Group) (i : Nat) (f : Split → Split) : (g.modSplit i f).readyAt = g.readyAt := rfl
@[simp] theorem Group.modSplit_leaving (g : Group) (i : Nat) (f : Split → Split) : (g.modSplit i f).leaving = g.leaving := rfl
@[simp] theorem Group.modSplit_jmpxAt (g : Group) (i : Nat) (f : Split → Split) : (g.modSplit i f).jmpxAt = g.jmpxAt := rfl
@[simp] theorem Group.modSplit_hash (g : Group) (i : Nat) (f : Split → Split) : (g.modSplit i f).hash = g.hash := rfl
@[simp] theorem Group.modSplit_endSigp (g : Group) (i : Nat) (f : Split → Split) : (g.modSplit i f).endSigp = g.endSigp := rfl
@[simp] theorem Group.modSplit_ended (g : Group) (i : Nat) (f : Split → Split) : (g.modSplit i f).ended = g.ended := rfl
@[simp] theorem Group.modSplit_lastSplit (g : Group) (i : Nat) (f : Split → Split) : (g.modSplit i f).lastSplit = g.lastSplit := rfl
@[simp] theorem Group.modSplit_fatal (g : Group) (i : Nat) (f : Split → Split) : (g.modSplit i f).fatal = g.fatal := rfl
@[simp] theorem Group.modSplit_restarting (g : Group) (i : Nat) (f : Split → Split) : (g.modSplit i f).restarting = g.restarting := rfl
@[simp] theorem Group.modSplit_ueCause (g : Group) (i : Nat) (f : Split → Split) : (g.modSplit i f).ueCause = g.ueCause := rfl
@[simp] theorem Group.modSplit_begun (g : Group) (i : Nat) (f : Split → Split) : (g.modSplit i f).begun = g.begun := rfl
@[simp] theorem Group.modSplit_carried (g : Group) (i : Nat) (f : Split → Split) : (g.modSplit i f).carried = g.carried := rfl

/-! ### raise -/

@[simp] theorem Group.raise_gid (g : Group) (i : Nat) (p : Path) : (g.raise i p).gid = g.gid := rfl
@[simp] theorem Group.raise_core (g : Group) (i : Nat) (p : Path) : (g.raise i p).core = g.core := rfl
@[simp] theorem Group.raise_slot (g : Group) (i : Nat) (p : Path) : (g.raise i p).slot = g.slot := rfl
@[simp] theorem Group.raise_ctx (g : Group) (i : Nat) (p : Path) : (g.raise i p).ctx = g.ctx := rfl
@[simp] theorem Group.raise_wg (g : Group) (i : Nat) (p : Path) : (g.raise i p).wg = g.wg := rfl
@[simp] theorem Group.raise_grid (g : Group) (i : Nat) (p : Path) : (g.raise i p).grid = g.grid := rfl
@[simp] theorem Group.raise_wgx (g : Group) (i : Nat) (p : Path) : (g.raise i p).wgx = g.wgx := rfl
@[simp] theorem Group.raise_wgy (g : Group) (i : Nat) (p : Path) : (g.raise i p).wgy = g.wgy := rfl
@[simp] theorem Group.raise_wgz (g : Group) (i : Nat) (p : Path) : (g.raise i p).wgz = g.wgz := rfl
@[simp] theorem Group.raise_lin (g : Group) (i : Nat) (p : Path) : (g.raise i p).lin = g.lin := rfl
@[simp] theorem Group.raise_ginwg (g : Group) (i : Nat) (p : Path) : (g.raise i p).ginwg = g.ginwg := rfl
@[simp] theorem Group.raise_teamSize (g : Group) (i : Nat) (p : Path) : (g.raise i p).teamSize = g.teamSize := rfl
@[simp] theorem Group.raise_teamIdx (g : Group) (i : Nat) (p : Path) : (g.raise i p).teamIdx = g.teamIdx := rfl
@[simp] theorem Group.raise_depth (g : Group) (i : Nat) (p : Path) : (g.raise i p).depth = g.depth := rfl
@[simp] theorem Group.raise_task (g : Group) (i : Nat) (p : Path) : (g.raise i p).task = g.task := rfl
@[simp] theorem Group.raise_succ (g : Group) (i : Nat) (p : Path) : (g.raise i p).succ = g.succ := rfl
@[simp] theorem Group.raise_evc (g : Group) (i : Nat) (p : Path) : (g.raise i p).evc = g.evc := rfl
@[simp] theorem Group.raise_svc (g : Group) (i : Nat) (p : Path) : (g.raise i p).svc = g.svc := rfl
@[simp] theorem Group.raise_late (g : Group) (i : Nat) (p : Path) : (g.raise i p).late = g.late := rfl
@[simp] theorem Group.raise_drift (g : Group) (i : Nat) (p : Path) : (g.raise i p).drift = g.drift := rfl
@[simp] theorem Group.raise_pair (g : Group) (i : Nat) (p : Path) : (g.raise i p).pair = g.pair := rfl
@[simp] theorem Group.raise_shadow (g : Group) (i : Nat) (p : Path) : (g.raise i p).shadow = g.shadow := rfl
@[simp] theorem Group.raise_screened (g : Group) (i : Nat) (p : Path) : (g.raise i p).screened = g.screened := rfl
@[simp] theorem Group.raise_trapped (g : Group) (i : Nat) (p : Path) : (g.raise i p).trapped = g.trapped := rfl
@[simp] theorem Group.raise_badTask (g : Group) (i : Nat) (p : Path) : (g.raise i p).badTask = g.badTask := rfl
@[simp] theorem Group.raise_nblk (g : Group) (i : Nat) (p : Path) : (g.raise i p).nblk = g.nblk := rfl
@[simp] theorem Group.raise_v (g : Group) (i : Nat) (p : Path) : (g.raise i p).v = g.v := rfl
@[simp] theorem Group.raise_s (g : Group) (i : Nat) (p : Path) : (g.raise i p).s = g.s := rfl
@[simp] theorem Group.raise_bank (g : Group) (i : Nat) (p : Path) : (g.raise i p).bank = g.bank := rfl
@[simp] theorem Group.raise_p (g : Group) (i : Nat) (p : Path) : (g.raise i p).p = g.p := rfl
@[simp] theorem Group.raise_latch (g : Group) (i : Nat) (p : Path) : (g.raise i p).latch = g.latch := rfl
@[simp] theorem Group.raise_unfenced (g : Group) (i : Nat) (p : Path) : (g.raise i p).unfenced = g.unfenced := rfl
@[simp] theorem Group.raise_unfencedSpm (g : Group) (i : Nat) (p : Path) : (g.raise i p).unfencedSpm = g.unfencedSpm := rfl
@[simp] theorem Group.raise_splits (g : Group) (i : Nat) (p : Path) : (g.raise i p).splits = g.splits := rfl
@[simp] theorem Group.raise_stack (g : Group) (i : Nat) (p : Path) : (g.raise i p).stack = g.stack := rfl
@[simp] theorem Group.raise_wdog (g : Group) (i : Nat) (p : Path) : (g.raise i p).wdog = g.wdog := rfl
@[simp] theorem Group.raise_kill (g : Group) (i : Nat) (p : Path) : (g.raise i p).kill = g.kill := rfl
@[simp] theorem Group.raise_cons (g : Group) (i : Nat) (p : Path) : (g.raise i p).cons = g.cons := rfl
@[simp] theorem Group.raise_trapm (g : Group) (i : Nat) (p : Path) : (g.raise i p).trapm = g.trapm := rfl
@[simp] theorem Group.raise_preq (g : Group) (i : Nat) (p : Path) : (g.raise i p).preq = g.preq := rfl
@[simp] theorem Group.raise_seed (g : Group) (i : Nat) (p : Path) : (g.raise i p).seed = g.seed := rfl
@[simp] theorem Group.raise_idempc (g : Group) (i : Nat) (p : Path) : (g.raise i p).idempc = g.idempc := rfl
@[simp] theorem Group.raise_restart (g : Group) (i : Nat) (p : Path) : (g.raise i p).restart = g.restart := rfl
@[simp] theorem Group.raise_rflt (g : Group) (i : Nat) (p : Path) : (g.raise i p).rflt = g.rflt := rfl
@[simp] theorem Group.raise_mxit (g : Group) (i : Nat) (p : Path) : (g.raise i p).mxit = g.mxit := rfl
@[simp] theorem Group.raise_drainst (g : Group) (i : Nat) (p : Path) : (g.raise i p).drainst = g.drainst := rfl
@[simp] theorem Group.raise_lqst (g : Group) (i : Nat) (p : Path) : (g.raise i p).lqst = g.lqst := rfl
@[simp] theorem Group.raise_tvec (g : Group) (i : Nat) (p : Path) : (g.raise i p).tvec = g.tvec := rfl
@[simp] theorem Group.raise_tpc (g : Group) (i : Nat) (p : Path) : (g.raise i p).tpc = g.tpc := rfl
@[simp] theorem Group.raise_tmask (g : Group) (i : Nat) (p : Path) : (g.raise i p).tmask = g.tmask := rfl
@[simp] theorem Group.raise_tcause (g : Group) (i : Nat) (p : Path) : (g.raise i p).tcause = g.tcause := rfl
@[simp] theorem Group.raise_taddr (g : Group) (i : Nat) (p : Path) : (g.raise i p).taddr = g.taddr := rfl
@[simp] theorem Group.raise_tframe (g : Group) (i : Nat) (p : Path) : (g.raise i p).tframe = g.tframe := rfl
@[simp] theorem Group.raise_tnrec (g : Group) (i : Nat) (p : Path) : (g.raise i p).tnrec = g.tnrec := rfl
@[simp] theorem Group.raise_dplace (g : Group) (i : Nat) (p : Path) : (g.raise i p).dplace = g.dplace := rfl
@[simp] theorem Group.raise_wdlim (g : Group) (i : Nat) (p : Path) : (g.raise i p).wdlim = g.wdlim := rfl
@[simp] theorem Group.raise_qos (g : Group) (i : Nat) (p : Path) : (g.raise i p).qos = g.qos := rfl
@[simp] theorem Group.raise_mxsave (g : Group) (i : Nat) (p : Path) : (g.raise i p).mxsave = g.mxsave := rfl
@[simp] theorem Group.raise_saved (g : Group) (i : Nat) (p : Path) : (g.raise i p).saved = g.saved := rfl
@[simp] theorem Group.raise_pending (g : Group) (i : Nat) (p : Path) : (g.raise i p).pending = g.pending := rfl
@[simp] theorem Group.raise_entering (g : Group) (i : Nat) (p : Path) : (g.raise i p).entering = g.entering := rfl
@[simp] theorem Group.raise_cpyFault (g : Group) (i : Nat) (p : Path) : (g.raise i p).cpyFault = g.cpyFault := rfl
@[simp] theorem Group.raise_mtxFault (g : Group) (i : Nat) (p : Path) : (g.raise i p).mtxFault = g.mtxFault := rfl
@[simp] theorem Group.raise_lateDue (g : Group) (i : Nat) (p : Path) : (g.raise i p).lateDue = g.lateDue := rfl
@[simp] theorem Group.raise_owed (g : Group) (i : Nat) (p : Path) : (g.raise i p).owed = g.owed := rfl
@[simp] theorem Group.raise_pairings (g : Group) (i : Nat) (p : Path) : (g.raise i p).pairings = g.pairings := rfl
@[simp] theorem Group.raise_strip (g : Group) (i : Nat) (p : Path) : (g.raise i p).strip = g.strip := rfl
@[simp] theorem Group.raise_active (g : Group) (i : Nat) (p : Path) : (g.raise i p).active = g.active := rfl
@[simp] theorem Group.raise_order (g : Group) (i : Nat) (p : Path) : (g.raise i p).order = g.order := rfl
@[simp] theorem Group.raise_readyAt (g : Group) (i : Nat) (p : Path) : (g.raise i p).readyAt = g.readyAt := rfl
@[simp] theorem Group.raise_leaving (g : Group) (i : Nat) (p : Path) : (g.raise i p).leaving = g.leaving := rfl
@[simp] theorem Group.raise_jmpxAt (g : Group) (i : Nat) (p : Path) : (g.raise i p).jmpxAt = g.jmpxAt := rfl
@[simp] theorem Group.raise_hash (g : Group) (i : Nat) (p : Path) : (g.raise i p).hash = g.hash := rfl
@[simp] theorem Group.raise_endSigp (g : Group) (i : Nat) (p : Path) : (g.raise i p).endSigp = g.endSigp := rfl
@[simp] theorem Group.raise_ended (g : Group) (i : Nat) (p : Path) : (g.raise i p).ended = g.ended := rfl
@[simp] theorem Group.raise_lastSplit (g : Group) (i : Nat) (p : Path) : (g.raise i p).lastSplit = g.lastSplit := rfl
@[simp] theorem Group.raise_fatal (g : Group) (i : Nat) (p : Path) : (g.raise i p).fatal = g.fatal := rfl
@[simp] theorem Group.raise_restarting (g : Group) (i : Nat) (p : Path) : (g.raise i p).restarting = g.restarting := rfl
@[simp] theorem Group.raise_ueCause (g : Group) (i : Nat) (p : Path) : (g.raise i p).ueCause = g.ueCause := rfl
@[simp] theorem Group.raise_begun (g : Group) (i : Nat) (p : Path) : (g.raise i p).begun = g.begun := rfl
@[simp] theorem Group.raise_carried (g : Group) (i : Nat) (p : Path) : (g.raise i p).carried = g.carried := rfl

/-! ### finish -/

@[simp] theorem Group.finish_gid (g : Group) (i : Nat) (p : Path) : (g.finish i p).gid = g.gid := rfl
@[simp] theorem Group.finish_core (g : Group) (i : Nat) (p : Path) : (g.finish i p).core = g.core := rfl
@[simp] theorem Group.finish_slot (g : Group) (i : Nat) (p : Path) : (g.finish i p).slot = g.slot := rfl
@[simp] theorem Group.finish_ctx (g : Group) (i : Nat) (p : Path) : (g.finish i p).ctx = g.ctx := rfl
@[simp] theorem Group.finish_wg (g : Group) (i : Nat) (p : Path) : (g.finish i p).wg = g.wg := rfl
@[simp] theorem Group.finish_grid (g : Group) (i : Nat) (p : Path) : (g.finish i p).grid = g.grid := rfl
@[simp] theorem Group.finish_wgx (g : Group) (i : Nat) (p : Path) : (g.finish i p).wgx = g.wgx := rfl
@[simp] theorem Group.finish_wgy (g : Group) (i : Nat) (p : Path) : (g.finish i p).wgy = g.wgy := rfl
@[simp] theorem Group.finish_wgz (g : Group) (i : Nat) (p : Path) : (g.finish i p).wgz = g.wgz := rfl
@[simp] theorem Group.finish_lin (g : Group) (i : Nat) (p : Path) : (g.finish i p).lin = g.lin := rfl
@[simp] theorem Group.finish_ginwg (g : Group) (i : Nat) (p : Path) : (g.finish i p).ginwg = g.ginwg := rfl
@[simp] theorem Group.finish_teamSize (g : Group) (i : Nat) (p : Path) : (g.finish i p).teamSize = g.teamSize := rfl
@[simp] theorem Group.finish_teamIdx (g : Group) (i : Nat) (p : Path) : (g.finish i p).teamIdx = g.teamIdx := rfl
@[simp] theorem Group.finish_depth (g : Group) (i : Nat) (p : Path) : (g.finish i p).depth = g.depth := rfl
@[simp] theorem Group.finish_task (g : Group) (i : Nat) (p : Path) : (g.finish i p).task = g.task := rfl
@[simp] theorem Group.finish_succ (g : Group) (i : Nat) (p : Path) : (g.finish i p).succ = g.succ := rfl
@[simp] theorem Group.finish_evc (g : Group) (i : Nat) (p : Path) : (g.finish i p).evc = g.evc := rfl
@[simp] theorem Group.finish_svc (g : Group) (i : Nat) (p : Path) : (g.finish i p).svc = g.svc := rfl
@[simp] theorem Group.finish_late (g : Group) (i : Nat) (p : Path) : (g.finish i p).late = g.late := rfl
@[simp] theorem Group.finish_drift (g : Group) (i : Nat) (p : Path) : (g.finish i p).drift = g.drift := rfl
@[simp] theorem Group.finish_pair (g : Group) (i : Nat) (p : Path) : (g.finish i p).pair = g.pair := rfl
@[simp] theorem Group.finish_shadow (g : Group) (i : Nat) (p : Path) : (g.finish i p).shadow = g.shadow := rfl
@[simp] theorem Group.finish_screened (g : Group) (i : Nat) (p : Path) : (g.finish i p).screened = g.screened := rfl
@[simp] theorem Group.finish_trapped (g : Group) (i : Nat) (p : Path) : (g.finish i p).trapped = g.trapped := rfl
@[simp] theorem Group.finish_badTask (g : Group) (i : Nat) (p : Path) : (g.finish i p).badTask = g.badTask := rfl
@[simp] theorem Group.finish_nblk (g : Group) (i : Nat) (p : Path) : (g.finish i p).nblk = g.nblk := rfl
@[simp] theorem Group.finish_v (g : Group) (i : Nat) (p : Path) : (g.finish i p).v = g.v := rfl
@[simp] theorem Group.finish_s (g : Group) (i : Nat) (p : Path) : (g.finish i p).s = g.s := rfl
@[simp] theorem Group.finish_bank (g : Group) (i : Nat) (p : Path) : (g.finish i p).bank = g.bank := rfl
@[simp] theorem Group.finish_p (g : Group) (i : Nat) (p : Path) : (g.finish i p).p = g.p := rfl
@[simp] theorem Group.finish_latch (g : Group) (i : Nat) (p : Path) : (g.finish i p).latch = g.latch := rfl
@[simp] theorem Group.finish_unfenced (g : Group) (i : Nat) (p : Path) : (g.finish i p).unfenced = g.unfenced := rfl
@[simp] theorem Group.finish_unfencedSpm (g : Group) (i : Nat) (p : Path) : (g.finish i p).unfencedSpm = g.unfencedSpm := rfl
@[simp] theorem Group.finish_splits (g : Group) (i : Nat) (p : Path) : (g.finish i p).splits = g.splits := rfl
@[simp] theorem Group.finish_stack (g : Group) (i : Nat) (p : Path) : (g.finish i p).stack = g.stack := rfl
@[simp] theorem Group.finish_wdog (g : Group) (i : Nat) (p : Path) : (g.finish i p).wdog = g.wdog := rfl
@[simp] theorem Group.finish_kill (g : Group) (i : Nat) (p : Path) : (g.finish i p).kill = g.kill := rfl
@[simp] theorem Group.finish_cons (g : Group) (i : Nat) (p : Path) : (g.finish i p).cons = g.cons := rfl
@[simp] theorem Group.finish_trapm (g : Group) (i : Nat) (p : Path) : (g.finish i p).trapm = g.trapm := rfl
@[simp] theorem Group.finish_preq (g : Group) (i : Nat) (p : Path) : (g.finish i p).preq = g.preq := rfl
@[simp] theorem Group.finish_seed (g : Group) (i : Nat) (p : Path) : (g.finish i p).seed = g.seed := rfl
@[simp] theorem Group.finish_idempc (g : Group) (i : Nat) (p : Path) : (g.finish i p).idempc = g.idempc := rfl
@[simp] theorem Group.finish_restart (g : Group) (i : Nat) (p : Path) : (g.finish i p).restart = g.restart := rfl
@[simp] theorem Group.finish_rflt (g : Group) (i : Nat) (p : Path) : (g.finish i p).rflt = g.rflt := rfl
@[simp] theorem Group.finish_mxit (g : Group) (i : Nat) (p : Path) : (g.finish i p).mxit = g.mxit := rfl
@[simp] theorem Group.finish_drainst (g : Group) (i : Nat) (p : Path) : (g.finish i p).drainst = g.drainst := rfl
@[simp] theorem Group.finish_lqst (g : Group) (i : Nat) (p : Path) : (g.finish i p).lqst = g.lqst := rfl
@[simp] theorem Group.finish_tvec (g : Group) (i : Nat) (p : Path) : (g.finish i p).tvec = g.tvec := rfl
@[simp] theorem Group.finish_tpc (g : Group) (i : Nat) (p : Path) : (g.finish i p).tpc = g.tpc := rfl
@[simp] theorem Group.finish_tmask (g : Group) (i : Nat) (p : Path) : (g.finish i p).tmask = g.tmask := rfl
@[simp] theorem Group.finish_tcause (g : Group) (i : Nat) (p : Path) : (g.finish i p).tcause = g.tcause := rfl
@[simp] theorem Group.finish_taddr (g : Group) (i : Nat) (p : Path) : (g.finish i p).taddr = g.taddr := rfl
@[simp] theorem Group.finish_tframe (g : Group) (i : Nat) (p : Path) : (g.finish i p).tframe = g.tframe := rfl
@[simp] theorem Group.finish_tnrec (g : Group) (i : Nat) (p : Path) : (g.finish i p).tnrec = g.tnrec := rfl
@[simp] theorem Group.finish_dplace (g : Group) (i : Nat) (p : Path) : (g.finish i p).dplace = g.dplace := rfl
@[simp] theorem Group.finish_wdlim (g : Group) (i : Nat) (p : Path) : (g.finish i p).wdlim = g.wdlim := rfl
@[simp] theorem Group.finish_qos (g : Group) (i : Nat) (p : Path) : (g.finish i p).qos = g.qos := rfl
@[simp] theorem Group.finish_mxsave (g : Group) (i : Nat) (p : Path) : (g.finish i p).mxsave = g.mxsave := rfl
@[simp] theorem Group.finish_saved (g : Group) (i : Nat) (p : Path) : (g.finish i p).saved = g.saved := rfl
@[simp] theorem Group.finish_pending (g : Group) (i : Nat) (p : Path) : (g.finish i p).pending = g.pending := rfl
@[simp] theorem Group.finish_entering (g : Group) (i : Nat) (p : Path) : (g.finish i p).entering = g.entering := rfl
@[simp] theorem Group.finish_cpyFault (g : Group) (i : Nat) (p : Path) : (g.finish i p).cpyFault = g.cpyFault := rfl
@[simp] theorem Group.finish_mtxFault (g : Group) (i : Nat) (p : Path) : (g.finish i p).mtxFault = g.mtxFault := rfl
@[simp] theorem Group.finish_lateDue (g : Group) (i : Nat) (p : Path) : (g.finish i p).lateDue = g.lateDue := rfl
@[simp] theorem Group.finish_owed (g : Group) (i : Nat) (p : Path) : (g.finish i p).owed = g.owed := rfl
@[simp] theorem Group.finish_pairings (g : Group) (i : Nat) (p : Path) : (g.finish i p).pairings = g.pairings := rfl
@[simp] theorem Group.finish_strip (g : Group) (i : Nat) (p : Path) : (g.finish i p).strip = g.strip := rfl
@[simp] theorem Group.finish_active (g : Group) (i : Nat) (p : Path) : (g.finish i p).active = g.active := rfl
@[simp] theorem Group.finish_order (g : Group) (i : Nat) (p : Path) : (g.finish i p).order = g.order := rfl
@[simp] theorem Group.finish_readyAt (g : Group) (i : Nat) (p : Path) : (g.finish i p).readyAt = g.readyAt := rfl
@[simp] theorem Group.finish_leaving (g : Group) (i : Nat) (p : Path) : (g.finish i p).leaving = g.leaving := rfl
@[simp] theorem Group.finish_jmpxAt (g : Group) (i : Nat) (p : Path) : (g.finish i p).jmpxAt = g.jmpxAt := rfl
@[simp] theorem Group.finish_hash (g : Group) (i : Nat) (p : Path) : (g.finish i p).hash = g.hash := rfl
@[simp] theorem Group.finish_endSigp (g : Group) (i : Nat) (p : Path) : (g.finish i p).endSigp = g.endSigp := rfl
@[simp] theorem Group.finish_ended (g : Group) (i : Nat) (p : Path) : (g.finish i p).ended = g.ended := rfl
@[simp] theorem Group.finish_lastSplit (g : Group) (i : Nat) (p : Path) : (g.finish i p).lastSplit = g.lastSplit := rfl
@[simp] theorem Group.finish_fatal (g : Group) (i : Nat) (p : Path) : (g.finish i p).fatal = g.fatal := rfl
@[simp] theorem Group.finish_restarting (g : Group) (i : Nat) (p : Path) : (g.finish i p).restarting = g.restarting := rfl
@[simp] theorem Group.finish_ueCause (g : Group) (i : Nat) (p : Path) : (g.finish i p).ueCause = g.ueCause := rfl
@[simp] theorem Group.finish_begun (g : Group) (i : Nat) (p : Path) : (g.finish i p).begun = g.begun := rfl
@[simp] theorem Group.finish_carried (g : Group) (i : Nat) (p : Path) : (g.finish i p).carried = g.carried := rfl

/-! ### keep -/

@[simp] theorem Group.keep_gid (g : Group) (i k : Nat) (x : W64) : (g.keep i k x).gid = g.gid := rfl
@[simp] theorem Group.keep_core (g : Group) (i k : Nat) (x : W64) : (g.keep i k x).core = g.core := rfl
@[simp] theorem Group.keep_slot (g : Group) (i k : Nat) (x : W64) : (g.keep i k x).slot = g.slot := rfl
@[simp] theorem Group.keep_ctx (g : Group) (i k : Nat) (x : W64) : (g.keep i k x).ctx = g.ctx := rfl
@[simp] theorem Group.keep_wg (g : Group) (i k : Nat) (x : W64) : (g.keep i k x).wg = g.wg := rfl
@[simp] theorem Group.keep_grid (g : Group) (i k : Nat) (x : W64) : (g.keep i k x).grid = g.grid := rfl
@[simp] theorem Group.keep_wgx (g : Group) (i k : Nat) (x : W64) : (g.keep i k x).wgx = g.wgx := rfl
@[simp] theorem Group.keep_wgy (g : Group) (i k : Nat) (x : W64) : (g.keep i k x).wgy = g.wgy := rfl
@[simp] theorem Group.keep_wgz (g : Group) (i k : Nat) (x : W64) : (g.keep i k x).wgz = g.wgz := rfl
@[simp] theorem Group.keep_lin (g : Group) (i k : Nat) (x : W64) : (g.keep i k x).lin = g.lin := rfl
@[simp] theorem Group.keep_ginwg (g : Group) (i k : Nat) (x : W64) : (g.keep i k x).ginwg = g.ginwg := rfl
@[simp] theorem Group.keep_teamSize (g : Group) (i k : Nat) (x : W64) : (g.keep i k x).teamSize = g.teamSize := rfl
@[simp] theorem Group.keep_teamIdx (g : Group) (i k : Nat) (x : W64) : (g.keep i k x).teamIdx = g.teamIdx := rfl
@[simp] theorem Group.keep_depth (g : Group) (i k : Nat) (x : W64) : (g.keep i k x).depth = g.depth := rfl
@[simp] theorem Group.keep_task (g : Group) (i k : Nat) (x : W64) : (g.keep i k x).task = g.task := rfl
@[simp] theorem Group.keep_succ (g : Group) (i k : Nat) (x : W64) : (g.keep i k x).succ = g.succ := rfl
@[simp] theorem Group.keep_evc (g : Group) (i k : Nat) (x : W64) : (g.keep i k x).evc = g.evc := rfl
@[simp] theorem Group.keep_svc (g : Group) (i k : Nat) (x : W64) : (g.keep i k x).svc = g.svc := rfl
@[simp] theorem Group.keep_late (g : Group) (i k : Nat) (x : W64) : (g.keep i k x).late = g.late := rfl
@[simp] theorem Group.keep_drift (g : Group) (i k : Nat) (x : W64) : (g.keep i k x).drift = g.drift := rfl
@[simp] theorem Group.keep_pair (g : Group) (i k : Nat) (x : W64) : (g.keep i k x).pair = g.pair := rfl
@[simp] theorem Group.keep_shadow (g : Group) (i k : Nat) (x : W64) : (g.keep i k x).shadow = g.shadow := rfl
@[simp] theorem Group.keep_screened (g : Group) (i k : Nat) (x : W64) : (g.keep i k x).screened = g.screened := rfl
@[simp] theorem Group.keep_trapped (g : Group) (i k : Nat) (x : W64) : (g.keep i k x).trapped = g.trapped := rfl
@[simp] theorem Group.keep_badTask (g : Group) (i k : Nat) (x : W64) : (g.keep i k x).badTask = g.badTask := rfl
@[simp] theorem Group.keep_nblk (g : Group) (i k : Nat) (x : W64) : (g.keep i k x).nblk = g.nblk := rfl
@[simp] theorem Group.keep_v (g : Group) (i k : Nat) (x : W64) : (g.keep i k x).v = g.v := rfl
@[simp] theorem Group.keep_s (g : Group) (i k : Nat) (x : W64) : (g.keep i k x).s = g.s := rfl
@[simp] theorem Group.keep_bank (g : Group) (i k : Nat) (x : W64) : (g.keep i k x).bank = g.bank := rfl
@[simp] theorem Group.keep_p (g : Group) (i k : Nat) (x : W64) : (g.keep i k x).p = g.p := rfl
@[simp] theorem Group.keep_latch (g : Group) (i k : Nat) (x : W64) : (g.keep i k x).latch = g.latch := rfl
@[simp] theorem Group.keep_unfenced (g : Group) (i k : Nat) (x : W64) : (g.keep i k x).unfenced = g.unfenced := rfl
@[simp] theorem Group.keep_unfencedSpm (g : Group) (i k : Nat) (x : W64) : (g.keep i k x).unfencedSpm = g.unfencedSpm := rfl
@[simp] theorem Group.keep_stack (g : Group) (i k : Nat) (x : W64) : (g.keep i k x).stack = g.stack := rfl
@[simp] theorem Group.keep_inflight (g : Group) (i k : Nat) (x : W64) : (g.keep i k x).inflight = g.inflight := rfl
@[simp] theorem Group.keep_wdog (g : Group) (i k : Nat) (x : W64) : (g.keep i k x).wdog = g.wdog := rfl
@[simp] theorem Group.keep_kill (g : Group) (i k : Nat) (x : W64) : (g.keep i k x).kill = g.kill := rfl
@[simp] theorem Group.keep_cons (g : Group) (i k : Nat) (x : W64) : (g.keep i k x).cons = g.cons := rfl
@[simp] theorem Group.keep_trapm (g : Group) (i k : Nat) (x : W64) : (g.keep i k x).trapm = g.trapm := rfl
@[simp] theorem Group.keep_preq (g : Group) (i k : Nat) (x : W64) : (g.keep i k x).preq = g.preq := rfl
@[simp] theorem Group.keep_seed (g : Group) (i k : Nat) (x : W64) : (g.keep i k x).seed = g.seed := rfl
@[simp] theorem Group.keep_idempc (g : Group) (i k : Nat) (x : W64) : (g.keep i k x).idempc = g.idempc := rfl
@[simp] theorem Group.keep_restart (g : Group) (i k : Nat) (x : W64) : (g.keep i k x).restart = g.restart := rfl
@[simp] theorem Group.keep_rflt (g : Group) (i k : Nat) (x : W64) : (g.keep i k x).rflt = g.rflt := rfl
@[simp] theorem Group.keep_mxit (g : Group) (i k : Nat) (x : W64) : (g.keep i k x).mxit = g.mxit := rfl
@[simp] theorem Group.keep_drainst (g : Group) (i k : Nat) (x : W64) : (g.keep i k x).drainst = g.drainst := rfl
@[simp] theorem Group.keep_lqst (g : Group) (i k : Nat) (x : W64) : (g.keep i k x).lqst = g.lqst := rfl
@[simp] theorem Group.keep_tvec (g : Group) (i k : Nat) (x : W64) : (g.keep i k x).tvec = g.tvec := rfl
@[simp] theorem Group.keep_tpc (g : Group) (i k : Nat) (x : W64) : (g.keep i k x).tpc = g.tpc := rfl
@[simp] theorem Group.keep_tmask (g : Group) (i k : Nat) (x : W64) : (g.keep i k x).tmask = g.tmask := rfl
@[simp] theorem Group.keep_tcause (g : Group) (i k : Nat) (x : W64) : (g.keep i k x).tcause = g.tcause := rfl
@[simp] theorem Group.keep_taddr (g : Group) (i k : Nat) (x : W64) : (g.keep i k x).taddr = g.taddr := rfl
@[simp] theorem Group.keep_tframe (g : Group) (i k : Nat) (x : W64) : (g.keep i k x).tframe = g.tframe := rfl
@[simp] theorem Group.keep_tnrec (g : Group) (i k : Nat) (x : W64) : (g.keep i k x).tnrec = g.tnrec := rfl
@[simp] theorem Group.keep_dplace (g : Group) (i k : Nat) (x : W64) : (g.keep i k x).dplace = g.dplace := rfl
@[simp] theorem Group.keep_wdlim (g : Group) (i k : Nat) (x : W64) : (g.keep i k x).wdlim = g.wdlim := rfl
@[simp] theorem Group.keep_qos (g : Group) (i k : Nat) (x : W64) : (g.keep i k x).qos = g.qos := rfl
@[simp] theorem Group.keep_mxsave (g : Group) (i k : Nat) (x : W64) : (g.keep i k x).mxsave = g.mxsave := rfl
@[simp] theorem Group.keep_saved (g : Group) (i k : Nat) (x : W64) : (g.keep i k x).saved = g.saved := rfl
@[simp] theorem Group.keep_pending (g : Group) (i k : Nat) (x : W64) : (g.keep i k x).pending = g.pending := rfl
@[simp] theorem Group.keep_entering (g : Group) (i k : Nat) (x : W64) : (g.keep i k x).entering = g.entering := rfl
@[simp] theorem Group.keep_cpyFault (g : Group) (i k : Nat) (x : W64) : (g.keep i k x).cpyFault = g.cpyFault := rfl
@[simp] theorem Group.keep_mtxFault (g : Group) (i k : Nat) (x : W64) : (g.keep i k x).mtxFault = g.mtxFault := rfl
@[simp] theorem Group.keep_lateDue (g : Group) (i k : Nat) (x : W64) : (g.keep i k x).lateDue = g.lateDue := rfl
@[simp] theorem Group.keep_owed (g : Group) (i k : Nat) (x : W64) : (g.keep i k x).owed = g.owed := rfl
@[simp] theorem Group.keep_pairings (g : Group) (i k : Nat) (x : W64) : (g.keep i k x).pairings = g.pairings := rfl
@[simp] theorem Group.keep_strip (g : Group) (i k : Nat) (x : W64) : (g.keep i k x).strip = g.strip := rfl
@[simp] theorem Group.keep_active (g : Group) (i k : Nat) (x : W64) : (g.keep i k x).active = g.active := rfl
@[simp] theorem Group.keep_order (g : Group) (i k : Nat) (x : W64) : (g.keep i k x).order = g.order := rfl
@[simp] theorem Group.keep_readyAt (g : Group) (i k : Nat) (x : W64) : (g.keep i k x).readyAt = g.readyAt := rfl
@[simp] theorem Group.keep_leaving (g : Group) (i k : Nat) (x : W64) : (g.keep i k x).leaving = g.leaving := rfl
@[simp] theorem Group.keep_jmpxAt (g : Group) (i k : Nat) (x : W64) : (g.keep i k x).jmpxAt = g.jmpxAt := rfl
@[simp] theorem Group.keep_hash (g : Group) (i k : Nat) (x : W64) : (g.keep i k x).hash = g.hash := rfl
@[simp] theorem Group.keep_endSigp (g : Group) (i k : Nat) (x : W64) : (g.keep i k x).endSigp = g.endSigp := rfl
@[simp] theorem Group.keep_ended (g : Group) (i k : Nat) (x : W64) : (g.keep i k x).ended = g.ended := rfl
@[simp] theorem Group.keep_lastSplit (g : Group) (i k : Nat) (x : W64) : (g.keep i k x).lastSplit = g.lastSplit := rfl
@[simp] theorem Group.keep_fatal (g : Group) (i k : Nat) (x : W64) : (g.keep i k x).fatal = g.fatal := rfl
@[simp] theorem Group.keep_restarting (g : Group) (i k : Nat) (x : W64) : (g.keep i k x).restarting = g.restarting := rfl
@[simp] theorem Group.keep_ueCause (g : Group) (i k : Nat) (x : W64) : (g.keep i k x).ueCause = g.ueCause := rfl
@[simp] theorem Group.keep_begun (g : Group) (i k : Nat) (x : W64) : (g.keep i k x).begun = g.begun := rfl
@[simp] theorem Group.keep_carried (g : Group) (i k : Nat) (x : W64) : (g.keep i k x).carried = g.carried := rfl

/-! ### setV -/

@[simp] theorem Group.setV_gid (g : Group) (r l : Nat) (x : W32) : (g.setV r l x).gid = g.gid := rfl
@[simp] theorem Group.setV_core (g : Group) (r l : Nat) (x : W32) : (g.setV r l x).core = g.core := rfl
@[simp] theorem Group.setV_slot (g : Group) (r l : Nat) (x : W32) : (g.setV r l x).slot = g.slot := rfl
@[simp] theorem Group.setV_ctx (g : Group) (r l : Nat) (x : W32) : (g.setV r l x).ctx = g.ctx := rfl
@[simp] theorem Group.setV_wg (g : Group) (r l : Nat) (x : W32) : (g.setV r l x).wg = g.wg := rfl
@[simp] theorem Group.setV_grid (g : Group) (r l : Nat) (x : W32) : (g.setV r l x).grid = g.grid := rfl
@[simp] theorem Group.setV_wgx (g : Group) (r l : Nat) (x : W32) : (g.setV r l x).wgx = g.wgx := rfl
@[simp] theorem Group.setV_wgy (g : Group) (r l : Nat) (x : W32) : (g.setV r l x).wgy = g.wgy := rfl
@[simp] theorem Group.setV_wgz (g : Group) (r l : Nat) (x : W32) : (g.setV r l x).wgz = g.wgz := rfl
@[simp] theorem Group.setV_lin (g : Group) (r l : Nat) (x : W32) : (g.setV r l x).lin = g.lin := rfl
@[simp] theorem Group.setV_ginwg (g : Group) (r l : Nat) (x : W32) : (g.setV r l x).ginwg = g.ginwg := rfl
@[simp] theorem Group.setV_teamSize (g : Group) (r l : Nat) (x : W32) : (g.setV r l x).teamSize = g.teamSize := rfl
@[simp] theorem Group.setV_teamIdx (g : Group) (r l : Nat) (x : W32) : (g.setV r l x).teamIdx = g.teamIdx := rfl
@[simp] theorem Group.setV_depth (g : Group) (r l : Nat) (x : W32) : (g.setV r l x).depth = g.depth := rfl
@[simp] theorem Group.setV_task (g : Group) (r l : Nat) (x : W32) : (g.setV r l x).task = g.task := rfl
@[simp] theorem Group.setV_succ (g : Group) (r l : Nat) (x : W32) : (g.setV r l x).succ = g.succ := rfl
@[simp] theorem Group.setV_evc (g : Group) (r l : Nat) (x : W32) : (g.setV r l x).evc = g.evc := rfl
@[simp] theorem Group.setV_svc (g : Group) (r l : Nat) (x : W32) : (g.setV r l x).svc = g.svc := rfl
@[simp] theorem Group.setV_late (g : Group) (r l : Nat) (x : W32) : (g.setV r l x).late = g.late := rfl
@[simp] theorem Group.setV_drift (g : Group) (r l : Nat) (x : W32) : (g.setV r l x).drift = g.drift := rfl
@[simp] theorem Group.setV_pair (g : Group) (r l : Nat) (x : W32) : (g.setV r l x).pair = g.pair := rfl
@[simp] theorem Group.setV_shadow (g : Group) (r l : Nat) (x : W32) : (g.setV r l x).shadow = g.shadow := rfl
@[simp] theorem Group.setV_screened (g : Group) (r l : Nat) (x : W32) : (g.setV r l x).screened = g.screened := rfl
@[simp] theorem Group.setV_trapped (g : Group) (r l : Nat) (x : W32) : (g.setV r l x).trapped = g.trapped := rfl
@[simp] theorem Group.setV_badTask (g : Group) (r l : Nat) (x : W32) : (g.setV r l x).badTask = g.badTask := rfl
@[simp] theorem Group.setV_nblk (g : Group) (r l : Nat) (x : W32) : (g.setV r l x).nblk = g.nblk := rfl
@[simp] theorem Group.setV_s (g : Group) (r l : Nat) (x : W32) : (g.setV r l x).s = g.s := rfl
@[simp] theorem Group.setV_bank (g : Group) (r l : Nat) (x : W32) : (g.setV r l x).bank = g.bank := rfl
@[simp] theorem Group.setV_p (g : Group) (r l : Nat) (x : W32) : (g.setV r l x).p = g.p := rfl
@[simp] theorem Group.setV_latch (g : Group) (r l : Nat) (x : W32) : (g.setV r l x).latch = g.latch := rfl
@[simp] theorem Group.setV_unfencedSpm (g : Group) (r l : Nat) (x : W32) : (g.setV r l x).unfencedSpm = g.unfencedSpm := rfl
@[simp] theorem Group.setV_splits (g : Group) (r l : Nat) (x : W32) : (g.setV r l x).splits = g.splits := rfl
@[simp] theorem Group.setV_stack (g : Group) (r l : Nat) (x : W32) : (g.setV r l x).stack = g.stack := rfl
@[simp] theorem Group.setV_inflight (g : Group) (r l : Nat) (x : W32) : (g.setV r l x).inflight = g.inflight := rfl
@[simp] theorem Group.setV_wdog (g : Group) (r l : Nat) (x : W32) : (g.setV r l x).wdog = g.wdog := rfl
@[simp] theorem Group.setV_kill (g : Group) (r l : Nat) (x : W32) : (g.setV r l x).kill = g.kill := rfl
@[simp] theorem Group.setV_cons (g : Group) (r l : Nat) (x : W32) : (g.setV r l x).cons = g.cons := rfl
@[simp] theorem Group.setV_trapm (g : Group) (r l : Nat) (x : W32) : (g.setV r l x).trapm = g.trapm := rfl
@[simp] theorem Group.setV_preq (g : Group) (r l : Nat) (x : W32) : (g.setV r l x).preq = g.preq := rfl
@[simp] theorem Group.setV_seed (g : Group) (r l : Nat) (x : W32) : (g.setV r l x).seed = g.seed := rfl
@[simp] theorem Group.setV_idempc (g : Group) (r l : Nat) (x : W32) : (g.setV r l x).idempc = g.idempc := rfl
@[simp] theorem Group.setV_restart (g : Group) (r l : Nat) (x : W32) : (g.setV r l x).restart = g.restart := rfl
@[simp] theorem Group.setV_rflt (g : Group) (r l : Nat) (x : W32) : (g.setV r l x).rflt = g.rflt := rfl
@[simp] theorem Group.setV_mxit (g : Group) (r l : Nat) (x : W32) : (g.setV r l x).mxit = g.mxit := rfl
@[simp] theorem Group.setV_drainst (g : Group) (r l : Nat) (x : W32) : (g.setV r l x).drainst = g.drainst := rfl
@[simp] theorem Group.setV_lqst (g : Group) (r l : Nat) (x : W32) : (g.setV r l x).lqst = g.lqst := rfl
@[simp] theorem Group.setV_tvec (g : Group) (r l : Nat) (x : W32) : (g.setV r l x).tvec = g.tvec := rfl
@[simp] theorem Group.setV_tpc (g : Group) (r l : Nat) (x : W32) : (g.setV r l x).tpc = g.tpc := rfl
@[simp] theorem Group.setV_tmask (g : Group) (r l : Nat) (x : W32) : (g.setV r l x).tmask = g.tmask := rfl
@[simp] theorem Group.setV_tcause (g : Group) (r l : Nat) (x : W32) : (g.setV r l x).tcause = g.tcause := rfl
@[simp] theorem Group.setV_taddr (g : Group) (r l : Nat) (x : W32) : (g.setV r l x).taddr = g.taddr := rfl
@[simp] theorem Group.setV_tframe (g : Group) (r l : Nat) (x : W32) : (g.setV r l x).tframe = g.tframe := rfl
@[simp] theorem Group.setV_tnrec (g : Group) (r l : Nat) (x : W32) : (g.setV r l x).tnrec = g.tnrec := rfl
@[simp] theorem Group.setV_dplace (g : Group) (r l : Nat) (x : W32) : (g.setV r l x).dplace = g.dplace := rfl
@[simp] theorem Group.setV_wdlim (g : Group) (r l : Nat) (x : W32) : (g.setV r l x).wdlim = g.wdlim := rfl
@[simp] theorem Group.setV_qos (g : Group) (r l : Nat) (x : W32) : (g.setV r l x).qos = g.qos := rfl
@[simp] theorem Group.setV_mxsave (g : Group) (r l : Nat) (x : W32) : (g.setV r l x).mxsave = g.mxsave := rfl
@[simp] theorem Group.setV_saved (g : Group) (r l : Nat) (x : W32) : (g.setV r l x).saved = g.saved := rfl
@[simp] theorem Group.setV_pending (g : Group) (r l : Nat) (x : W32) : (g.setV r l x).pending = g.pending := rfl
@[simp] theorem Group.setV_entering (g : Group) (r l : Nat) (x : W32) : (g.setV r l x).entering = g.entering := rfl
@[simp] theorem Group.setV_cpyFault (g : Group) (r l : Nat) (x : W32) : (g.setV r l x).cpyFault = g.cpyFault := rfl
@[simp] theorem Group.setV_mtxFault (g : Group) (r l : Nat) (x : W32) : (g.setV r l x).mtxFault = g.mtxFault := rfl
@[simp] theorem Group.setV_lateDue (g : Group) (r l : Nat) (x : W32) : (g.setV r l x).lateDue = g.lateDue := rfl
@[simp] theorem Group.setV_owed (g : Group) (r l : Nat) (x : W32) : (g.setV r l x).owed = g.owed := rfl
@[simp] theorem Group.setV_pairings (g : Group) (r l : Nat) (x : W32) : (g.setV r l x).pairings = g.pairings := rfl
@[simp] theorem Group.setV_strip (g : Group) (r l : Nat) (x : W32) : (g.setV r l x).strip = g.strip := rfl
@[simp] theorem Group.setV_active (g : Group) (r l : Nat) (x : W32) : (g.setV r l x).active = g.active := rfl
@[simp] theorem Group.setV_order (g : Group) (r l : Nat) (x : W32) : (g.setV r l x).order = g.order := rfl
@[simp] theorem Group.setV_readyAt (g : Group) (r l : Nat) (x : W32) : (g.setV r l x).readyAt = g.readyAt := rfl
@[simp] theorem Group.setV_leaving (g : Group) (r l : Nat) (x : W32) : (g.setV r l x).leaving = g.leaving := rfl
@[simp] theorem Group.setV_jmpxAt (g : Group) (r l : Nat) (x : W32) : (g.setV r l x).jmpxAt = g.jmpxAt := rfl
@[simp] theorem Group.setV_hash (g : Group) (r l : Nat) (x : W32) : (g.setV r l x).hash = g.hash := rfl
@[simp] theorem Group.setV_endSigp (g : Group) (r l : Nat) (x : W32) : (g.setV r l x).endSigp = g.endSigp := rfl
@[simp] theorem Group.setV_ended (g : Group) (r l : Nat) (x : W32) : (g.setV r l x).ended = g.ended := rfl
@[simp] theorem Group.setV_lastSplit (g : Group) (r l : Nat) (x : W32) : (g.setV r l x).lastSplit = g.lastSplit := rfl
@[simp] theorem Group.setV_fatal (g : Group) (r l : Nat) (x : W32) : (g.setV r l x).fatal = g.fatal := rfl
@[simp] theorem Group.setV_restarting (g : Group) (r l : Nat) (x : W32) : (g.setV r l x).restarting = g.restarting := rfl
@[simp] theorem Group.setV_ueCause (g : Group) (r l : Nat) (x : W32) : (g.setV r l x).ueCause = g.ueCause := rfl
@[simp] theorem Group.setV_begun (g : Group) (r l : Nat) (x : W32) : (g.setV r l x).begun = g.begun := rfl
@[simp] theorem Group.setV_carried (g : Group) (r l : Nat) (x : W32) : (g.setV r l x).carried = g.carried := rfl

end Sys2Proof.Machine
end

