-- ==== Sys2Proof/Laws/Group.lean ====
section
/-! SUPPORT. The laws of changing one group or one split: what is found afterwards, and that the others stay. -/

namespace Sys2Proof.Machine

open Sys2Proof

variable {s : State} {n m : Nat} {f : Group → Group}

theorem find_change {α : Type} (key : α → Nat) (l : List α) (n m : Nat) (f : α → α) (hf : ∀ x, key (f x) = key x) :
    (l.map fun x => if key x = n then f x else x).find? (key · == m) =
      (l.find? (key · == m)).map fun x => if m = n then f x else x := by
  induction l with
  | nil => simp
  | cons x l ih =>
    simp only [List.map_cons, List.find?_cons]
    have hk : key (if key x = n then f x else x) = key x := by split <;> simp [hf]
    rw [hk]
    by_cases h : key x = m
    · simp only [h, beq_self_eq_true, Option.map_some]
    · have hb : (key x == m) = false := by simpa using h
      simp only [hb, ih]

theorem State.group?_modGroup (hf : ∀ x, (f x).gid = x.gid) :
    (s.modGroup n f).group? m = (s.group? m).map fun x => if m = n then f x else x := by
  simp only [State.group?, State.modGroup_groups, State.modGroup_xfers]
  rw [find_change (fun g : Group => g.gid) s.groups n m f hf]
  have h2 : ((s.xfers.map fun x => if x.image.gid = n then { x with image := f x.image } else x).find? (·.image.gid == m)) =
      (s.xfers.find? (·.image.gid == m)).map fun x => if m = n then { x with image := f x.image } else x :=
    find_change (fun x : Xfer => x.image.gid) s.xfers n m (fun x => { x with image := f x.image }) (fun x => hf x.image)
  rw [h2]
  cases h : s.groups.find? (·.gid == m) with
  | some g => simp
  | none =>
    cases h3 : s.xfers.find? (·.image.gid == m) with
    | none => simp
    | some x => simp only [Option.map_some, Option.map_none, Option.none_or]; split <;> simp

/-- The changed group, where the device holds it. -/
theorem State.grp_modGroup (hf : ∀ x, (f x).gid = x.gid) (h : (s.group? n).isSome) :
    (s.modGroup n f).grp n = f (s.grp n) := by
  obtain ⟨g, hg⟩ := Option.isSome_iff_exists.1 h
  simp [State.grp, State.group?_modGroup hf, hg]

/-- Every other group stays. -/
theorem State.grp_modGroup_ne (hf : ∀ x, (f x).gid = x.gid) (h : m ≠ n) : (s.modGroup n f).grp m = s.grp m := by
  simp only [State.grp, State.group?_modGroup hf]
  cases s.group? m <;> simp [h]

theorem State.isSome_modGroup (hf : ∀ x, (f x).gid = x.gid) : ((s.modGroup n f).group? m).isSome = (s.group? m).isSome := by
  simp [State.group?_modGroup hf]

/-- Two changes of one group are one. -/
theorem State.modGroup_modGroup (g : Group → Group) (hf : ∀ x, (f x).gid = x.gid) :
    (s.modGroup n f).modGroup n g = s.modGroup n fun x => g (f x) := by
  simp only [State.modGroup, List.map_map]
  congr 1
  · apply List.map_congr_left; intro x _
    simp only [Function.comp_apply]
    by_cases h : x.gid = n
    · simp [h, hf]
    · simp [h]
  · apply List.map_congr_left; intro x _
    simp only [Function.comp_apply]
    by_cases h : x.image.gid = n
    · simp [h, hf]
    · simp [h]

theorem Group.modSplit_find (g : Group) (i j : Nat) (f : Split → Split) (hf : ∀ p, (f p).idx = p.idx) :
    (g.modSplit i f).splits.find? (·.idx == j) = (g.splits.find? (·.idx == j)).map fun p => if j = i then f p else p :=
  find_change (fun p : Split => p.idx) g.splits i j f hf

theorem Group.split_modSplit {g : Group} {i : Nat} {f : Split → Split} (hf : ∀ p, (f p).idx = p.idx)
    (h : g.splits.any (·.idx == i) = true) : (g.modSplit i f).split i = f (g.split i) := by
  simp only [Group.split, Group.modSplit_find g i i f hf, if_true]
  obtain ⟨p, hp, hi⟩ := List.any_eq_true.1 h
  have : (g.splits.find? (·.idx == i)).isSome := by
    rw [List.find?_isSome]; exact ⟨p, hp, hi⟩
  obtain ⟨q, hq⟩ := Option.isSome_iff_exists.1 this
  simp [hq]

theorem Group.split_modSplit_ne {g : Group} {i j : Nat} {f : Split → Split} (hf : ∀ p, (f p).idx = p.idx) (h : j ≠ i) :
    (g.modSplit i f).split j = g.split j := by
  simp only [Group.split, Group.modSplit_find g i j f hf, h, if_false, Option.map_id']

theorem Group.any_modSplit {g : Group} {i j : Nat} {f : Split → Split} (hf : ∀ p, (f p).idx = p.idx) :
    (g.modSplit i f).splits.any (·.idx == j) = g.splits.any (·.idx == j) := by
  simp only [Group.modSplit, List.any_map]
  congr 1; funext p
  simp only [Function.comp_apply]
  split <;> simp [hf]

@[simp] theorem Group.length_modSplit {g : Group} {i : Nat} {f : Split → Split} :
    (g.modSplit i f).splits.length = g.splits.length := by simp [Group.modSplit]

/-- Two changes of one split are one. -/
theorem Group.modSplit_modSplit {g : Group} {i : Nat} {f h : Split → Split} (hf : ∀ p, (f p).idx = p.idx) :
    (g.modSplit i f).modSplit i h = g.modSplit i fun p => h (f p) := by
  have key (l : List Split) : ((l.map fun x => if x.idx = i then f x else x).map fun x => if x.idx = i then h x else x) =
      l.map fun x => if x.idx = i then h (f x) else x := by
    rw [List.map_map]; apply List.map_congr_left; intro x _
    simp only [Function.comp_apply]
    by_cases hx : x.idx = i <;> simp [hx, hf]
  simp only [Group.modSplit, key, Option.map_map]
  congr 1
  cases g.saved with
  | none => rfl
  | some o =>
    simp only [Option.map_some, Function.comp_apply]
    by_cases ht : o.trapper = i <;> simp [ht, key]

/-! ### The read of a byte, and the event counters -/

/-- What a read of a location depends on. -/
theorem State.readLoc_congr {s t : State} (h1 : t.spm = s.spm) (h2 : t.mem = s.mem) (h3 : t.peer = s.peer)
    (h4 : t.cmdMem = s.cmdMem) (h5 : t.tick = s.tick) (l : Loc) (n : Nat) : t.readLoc l n = s.readLoc l n := by
  cases l <;> simp only [State.readLoc, h1, h2, h3, h4, h5]

theorem State.bump_eq (s : State) (i j : Nat) : ∃ c, s.bump i j = { s with counters := c } := by
  simp only [State.bump]
  split
  · exact ⟨_, rfl⟩
  · exact ⟨s.counters, rfl⟩

/-- A performance event changes the device counters alone (R324). -/
theorem State.perf_eq (s : State) (core ev : Nat) : ∃ c, s.perf core ev = { s with counters := c } := by
  unfold State.perf
  generalize List.range 16 = l
  induction l generalizing s with
  | nil => exact ⟨s.counters, rfl⟩
  | cons j l ih =>
    rw [List.foldl_cons]
    by_cases h : (SMap.get 0 s.perfSel (16 * core + j)).toNat = ev
    · obtain ⟨c, hc⟩ := s.bump_eq 0x60 (16 * core + j)
      rw [if_pos h, hc]
      obtain ⟨c', hc'⟩ := ih { s with counters := c }
      exact ⟨c', by rw [hc']⟩
    · rw [if_neg h]
      exact ih s

/-- A post changes the firmware event queue and the device counters alone (R271). -/
theorem State.post_eq (s : State) (e : FwEvent) : ∃ es c, s.post e = { s with events := es, counters := c } := by
  unfold State.post
  split
  · exact ⟨_, s.counters, rfl⟩
  · obtain ⟨c, hc⟩ := s.bump_eq 0x50 0
    exact ⟨s.events, c, by rw [hc]⟩

end Sys2Proof.Machine
end

