-- ==== Sys2Proof/Laws/Retire.lean ====
section
/-! SUPPORT. What the retirement of an instruction does, said once (R53, R54, R321): to its split, to its group, and to nothing else. -/

namespace Sys2Proof.Machine

open Sys2Proof

/-- The issuing split after its word is passed. -/
def Split.passed (p : Split) : Split :=
  let q : Split := { p with sigb := sigEnter p.sigb p.ir, pc := p.pc + 8, left := p.left - 1, wait := .none, replay := none }
  if p.left ≤ 1 then
    { q with old := [], yielded := p.yielded || bitAt p.hdr 28, sigb := if bitAt p.hdr 29 then 0xFFFF else q.sigb }
  else q

/-- A change of a group that leaves its registers alone: only the watchdog, splits and latches change, and no split comes or goes. -/
structure Moves (f : Group → Group) : Prop where
  rest : ∀ x, ∃ w sp la sv, f x = { x with wdog := w, splits := sp, latch := la, saved := sv }
  idx : ∀ x, (f x).splits.map (·.idx) = x.splits.map (·.idx)
  saved : ∀ x, (f x).saved.isSome = x.saved.isSome

theorem Moves.gid {f : Group → Group} (h : Moves f) (x : Group) : (f x).gid = x.gid := by
  obtain ⟨_, _, _, _, e⟩ := h.rest x; rw [e]

theorem Moves.comp {f g : Group → Group} (hf : Moves f) (hg : Moves g) : Moves fun x => g (f x) where
  rest x := by
    obtain ⟨_, _, _, _, e⟩ := hf.rest x
    obtain ⟨w, sp, la, sv, e2⟩ := hg.rest (f x)
    exact ⟨w, sp, la, sv, by rw [e2, e]⟩
  idx x := (hg.idx _).trans (hf.idx x)
  saved x := (hg.saved _).trans (hf.saved x)

theorem moves_modSplit (i : Nat) (h : Split → Split) (hi : ∀ p, (h p).idx = p.idx) : Moves fun x => x.modSplit i h where
  rest x := ⟨_, _, _, _, rfl⟩
  idx x := by
    simp only [Group.modSplit, List.map_map]
    apply List.map_congr_left; intro p _
    simp only [Function.comp_apply]; split <;> simp [hi]
  saved x := by simp [Group.modSplit]

theorem moves_id : Moves fun x => x := ⟨fun _ => ⟨_, _, _, _, rfl⟩, fun _ => rfl, fun _ => rfl⟩

theorem moves_wdog (n : Nat) : Moves fun x => { x with wdog := n } :=
  ⟨fun _ => ⟨_, _, _, _, rfl⟩, fun _ => rfl, fun _ => rfl⟩

theorem moves_latch (p : Nat × W64 → Bool) : Moves fun x => { x with latch := x.latch.filter p } :=
  ⟨fun _ => ⟨_, _, _, _, rfl⟩, fun _ => rfl, fun _ => rfl⟩

/-- A change of a group after another, beside new counters. -/
theorem State.modGroup_after (s : State) (n : Nat) (f g : Group → Group) (c : SMap W64) (hf : ∀ x, (f x).gid = x.gid) :
    ({ s.modGroup n f with counters := c } : State).modGroup n g = { s.modGroup n fun x => g (f x) with counters := c } :=
  congrArg (fun x : State => ({ x with counters := c } : State)) (State.modGroup_modGroup (s := s) (n := n) (f := f) g hf)

/-- The change that a retirement makes in the issuing group. -/
structure Retires (s : State) (f : Group → Group) : Prop where
  moves : Moves f
  split : (f s.G).split s.cur.2 = s.S.passed
  latch : s.midClause → (f s.G).latch = s.G.latch
  sibling : ∀ j, j ≠ s.cur.2 → (f s.G).split j = s.G.split j

theorem State.issuing_group {s : State} (h : s.issuing = true) : (s.group? s.cur.1).isSome = true := by
  simp only [State.issuing, Bool.and_eq_true] at h; exact h.1

theorem State.issuing_split {s : State} (h : s.issuing = true) : s.G.splits.any (·.idx == s.cur.2) = true := by
  simp only [State.issuing, Bool.and_eq_true] at h; exact h.2

/-- A retirement with a good signature moves the issuing group on and changes the performance counters; nothing else changes. -/
theorem State.retire_eq {s : State} (hi : s.issuing = true) (hs : s.signed = true) :
    ∃ f c, s.retire = { s.modG f with counters := c } ∧ Retires s f := by
  have hg := s.issuing_group hi
  have hp := s.issuing_split hi
  let pass : Split → Split := fun q =>
    { q with sigb := sigEnter q.sigb q.ir, pc := q.pc + 8, left := q.left - 1, wait := .none, replay := none }
  let f1 : Group → Group := fun x => ({ x with wdog := 0 } : Group).modSplit s.cur.2 pass
  have m1 : Moves f1 := (moves_wdog 0).comp (moves_modSplit s.cur.2 pass fun _ => rfl)
  obtain ⟨c, hc⟩ := (s.modGroup s.cur.1 fun x => { x with wdog := 0 }).perf_eq (s.grp s.cur.1).core 3
  let u : State := { s.modG f1 with counters := c }
  have hgu : u.grp s.cur.1 = f1 s.G := State.grp_modGroup m1.gid hg
  have hsome : (u.group? s.cur.1).isSome = true := (State.isSome_modGroup m1.gid).trans hg
  have hsp : (f1 s.G).split s.cur.2 = pass s.S := Group.split_modSplit (g := { s.G with wdog := 0 }) (fun _ => rfl) hp
  have hpass : s.retire = if (s.S).left ≤ 1 then u.clauseEnd s.cur.1 s.cur.2 else u := by
    have h0 : ((s.modGroup s.cur.1 fun x => { x with wdog := 0 }).grp s.cur.1) = { s.G with wdog := 0 } :=
      State.grp_modGroup (fun _ => rfl) hg
    have h1 : (({ s.modGroup s.cur.1 (fun x => { x with wdog := 0 }) with counters := c } : State).grp s.cur.1) = { s.G with wdog := 0 } := h0
    have h2 : (({ s.modGroup s.cur.1 (fun x => { x with wdog := 0 }) with counters := c } : State).modGroup s.cur.1 fun x => x.modSplit s.cur.2 pass) = u :=
      State.modGroup_after s s.cur.1 (fun x => { x with wdog := 0 }) (fun x => x.modSplit s.cur.2 pass) c fun _ => rfl
    simp only [State.retire, State.retireAt, State.passWord]
    rw [hc, h2, h1]
    rfl
  rw [hpass]
  by_cases hl : s.S.left ≤ 1
  · rw [if_pos hl]
    let f2 : Group → Group := fun x =>
      let y := x.modSplit s.cur.2 fun q => { q with old := [] }
      { y with latch := y.latch.filter fun e => e.1 / 256 != s.cur.2 }
    have m2 : Moves f2 := (moves_modSplit s.cur.2 (fun q => { q with old := [] }) fun _ => rfl).comp
      (moves_latch fun e => e.1 / 256 != s.cur.2)
    let f3 : Group → Group := if bitAt s.S.hdr 28 then (fun x => x.modSplit s.cur.2 fun q => { q with yielded := true }) else fun x => x
    have m3 : Moves f3 := by
      simp only [f3]; split
      · exact moves_modSplit s.cur.2 (fun q => { q with yielded := true }) fun _ => rfl
      · exact moves_id
    let f4 : Group → Group := if bitAt s.S.hdr 29 then (fun x => x.modSplit s.cur.2 fun q => { q with sigb := 0xFFFF }) else fun x => x
    have m4 : Moves f4 := by
      simp only [f4]; split
      · exact moves_modSplit s.cur.2 (fun q => { q with sigb := 0xFFFF }) fun _ => rfl
      · exact moves_id
    have hpu : (u.grp s.cur.1).split s.cur.2 = pass s.S := by rw [hgu, hsp]
    have hsig : bitAt s.S.hdr 29 = true → sigEnter s.S.sigb s.S.ir = fld s.S.hdr 30 16 := by
      intro h
      simp only [State.signed, Bool.or_eq_true, decide_eq_true_eq, beq_iff_eq, Bool.not_eq_true'] at hs
      rcases hs with (h1 | h1) | h1
      · omega
      · rw [h] at h1; exact absurd h1 (by decide)
      · exact h1
    refine ⟨fun x => f4 (f3 (f2 (f1 x))), c, ?_, ((m1.comp m2).comp m3).comp m4, ?_, ?_, ?_⟩
    · simp only [State.clauseEnd]
      rw [hpu]
      have e28 : bitAt (pass s.S).hdr 28 = bitAt s.S.hdr 28 := rfl
      have e29 : bitAt (pass s.S).hdr 29 = bitAt s.S.hdr 29 := rfl
      have esig : (pass s.S).sigb = sigEnter s.S.sigb s.S.ir := rfl
      have ehdr : (pass s.S).hdr = s.S.hdr := rfl
      rw [e28, e29, esig, ehdr]
      have step2 : u.modGroup s.cur.1 f2 = { s.modG fun x => f2 (f1 x) with counters := c } :=
        State.modGroup_after s s.cur.1 f1 f2 c m1.gid
      have step3 : (if bitAt s.S.hdr 28 then (u.modGroup s.cur.1 f2).modGroup s.cur.1 (fun x => x.modSplit s.cur.2 fun q => { q with yielded := true })
          else u.modGroup s.cur.1 f2) = { s.modG fun x => f3 (f2 (f1 x)) with counters := c } := by
        rw [step2]
        simp only [f3]
        split
        · exact State.modGroup_after s s.cur.1 (fun x => f2 (f1 x)) (fun x => x.modSplit s.cur.2 fun q => { q with yielded := true }) c (m1.comp m2).gid
        · rfl
      show (if bitAt s.S.hdr 29 then
          if sigEnter s.S.sigb s.S.ir = fld s.S.hdr 30 16 then
            (if bitAt s.S.hdr 28 then (u.modGroup s.cur.1 f2).modGroup s.cur.1 (fun x => x.modSplit s.cur.2 fun q => { q with yielded := true })
              else u.modGroup s.cur.1 f2).modGroup s.cur.1 (fun x => x.modSplit s.cur.2 fun q => { q with sigb := 0xFFFF })
          else _
        else (if bitAt s.S.hdr 28 then (u.modGroup s.cur.1 f2).modGroup s.cur.1 (fun x => x.modSplit s.cur.2 fun q => { q with yielded := true })
              else u.modGroup s.cur.1 f2)) = _
      rw [step3]
      by_cases h29 : bitAt s.S.hdr 29 = true
      · rw [if_pos h29, if_pos (hsig h29)]
        simp only [f4, h29, if_true]
        exact State.modGroup_after s s.cur.1 (fun x => f3 (f2 (f1 x))) (fun x => x.modSplit s.cur.2 fun q => { q with sigb := 0xFFFF }) c ((m1.comp m2).comp m3).gid
      · rw [if_neg h29]
        simp only [f4, h29]
        rfl
    · have any1 : (f1 s.G).splits.any (·.idx == s.cur.2) = true := (Group.any_modSplit (g := { s.G with wdog := 0 }) (f := pass) (fun _ => rfl)).trans hp
      have any2 : (f2 (f1 s.G)).splits.any (·.idx == s.cur.2) = true := (Group.any_modSplit (g := f1 s.G) (f := fun q => { q with old := [] }) (fun _ => rfl)).trans any1
      have h2 : (f2 (f1 s.G)).split s.cur.2 = { pass s.S with old := [] } := by
        exact (Group.split_modSplit (g := f1 s.G) (f := fun q => { q with old := [] }) (fun _ => rfl) any1).trans (by rw [hsp])
      have any3 : (f3 (f2 (f1 s.G))).splits.any (·.idx == s.cur.2) = true := by
        simp only [f3]; split
        · exact (Group.any_modSplit (g := f2 (f1 s.G)) (f := fun q => { q with yielded := true }) (fun _ => rfl)).trans any2
        · exact any2
      have h3 : (f3 (f2 (f1 s.G))).split s.cur.2 =
          { pass s.S with old := [], yielded := s.S.yielded || bitAt s.S.hdr 28 } := by
        simp only [f3]
        by_cases h28 : bitAt s.S.hdr 28 = true
        · rw [if_pos h28, Group.split_modSplit (f := fun q => { q with yielded := true }) (fun _ => rfl) any2, h2, h28, Bool.or_true]
        · rw [if_neg h28, h2, (Bool.not_eq_true _).mp h28, Bool.or_false]
      show (f4 (f3 (f2 (f1 s.G)))).split s.cur.2 = _
      rw [Split.passed, if_pos hl]
      simp only [f4]
      by_cases h29 : bitAt s.S.hdr 29 = true
      · rw [if_pos h29, Group.split_modSplit (f := fun q => { q with sigb := 0xFFFF }) (fun _ => rfl) any3, h3, if_pos h29]
      · rw [if_neg h29, h3, if_neg h29]
    · intro h; exact absurd h (by simp only [State.midClause]; omega)
    · intro j hj
      have a1 : (f1 s.G).split j = s.G.split j := Group.split_modSplit_ne (g := { s.G with wdog := 0 }) (f := pass) (fun _ => rfl) hj
      have a2 : (f2 (f1 s.G)).split j = s.G.split j := (Group.split_modSplit_ne (g := f1 s.G) (f := fun q => { q with old := [] }) (fun _ => rfl) hj).trans a1
      have a3 : (f3 (f2 (f1 s.G))).split j = s.G.split j := by
        simp only [f3]; split
        · exact (Group.split_modSplit_ne (g := f2 (f1 s.G)) (f := fun q => { q with yielded := true }) (fun _ => rfl) hj).trans a2
        · exact a2
      show (f4 (f3 (f2 (f1 s.G)))).split j = _
      simp only [f4]; split
      · exact (Group.split_modSplit_ne (g := f3 (f2 (f1 s.G))) (f := fun q => { q with sigb := 0xFFFF }) (fun _ => rfl) hj).trans a3
      · exact a3
  · rw [if_neg hl]
    refine ⟨f1, c, rfl, m1, ?_, fun _ => rfl, fun j hj => Group.split_modSplit_ne (g := { s.G with wdog := 0 }) (f := pass) (fun _ => rfl) hj⟩
    rw [hsp, Split.passed, if_neg hl]

end Sys2Proof.Machine
end

