-- ==== Sys2Proof/Laws/Frame.lean ====
section
/-! SUPPORT. Frames: what a retirement and what a change of registers leaves unchanged, and how frames compose. -/

namespace Sys2Proof.Machine

open Sys2Proof

theorem SameOutside.trans {s t u : State} (h1 : SameOutside s t) (h2 : SameOutside t u) (hc : t.cur = s.cur) : SameOutside s u where
  bytes l n := (h2.bytes l n).trans (h1.bytes l n)
  tags := h2.tags.trans h1.tags
  poison := ⟨h2.poison.1.trans h1.poison.1, h2.poison.2.1.trans h1.poison.2.1, h2.poison.2.2.trans h1.poison.2.2⟩
  acc := h2.acc.trans h1.acc
  act := h2.act.trans h1.act
  others g hg := (h2.others g (hc ▸ hg)).trans (h1.others g hg)

theorem SameSpecial.trans {a b : List Nat} {s t u : State} (h1 : SameSpecial a s t) (h2 : SameSpecial b t u)
    (hb : ∀ x, x ∈ a → x ∈ b) : SameSpecial b s u :=
  fun x hx => (h2 x hx).trans (h1 x fun h => hx (hb x h))

theorem SameSpecial.mono {a b : List Nat} {s t : State} (h : SameSpecial a s t) (hb : ∀ x, x ∈ a → x ∈ b) : SameSpecial b s t :=
  fun x hx => h x fun hh => hx (hb x hh)

theorem SameScalar.trans {s t u : State} (h1 : SameScalar s t) (h2 : SameScalar t u) : SameScalar s u :=
  ⟨h2.1.trans h1.1, h2.2.trans h1.2⟩

theorem SamePred.trans {s t u : State} (h1 : SamePred s t) (h2 : SamePred t u) : SamePred s u := fun p => (h2 p).trans (h1 p)

theorem SameVector.trans {s t u : State} (h1 : SameVector s t) (h2 : SameVector t u) : SameVector s u := Eq.trans h2 h1

/-- Every special register but SR_SIGB depends on these fields alone (R98). -/
theorem special_congr {s t : State} {g h : Group} {p q : Split} (x : Nat) (hx : x ≠ 0x19)
    (hc : t.clk = s.clk) (hp : t.peer = s.peer) (hf : t.fcons = s.fcons) (hs : t.segid = s.segid)
    (hg : ∃ w v sc bk pr la un us sp st ow sv, h = { g with
      wdog := w, v := v, s := sc, bank := bk, p := pr, latch := la, unfenced := un, unfencedSpm := us, splits := sp, stack := st,
      owed := ow, saved := sv })
    (hl : h.splits.length = g.splits.length) (hm : q.mask = p.mask) (hi : q.idx = p.idx) (hsp : q.sigp = p.sigp) :
    t.special h q x = s.special g p x := by
  obtain ⟨w, v, sc, bk, pr, la, un, us, sp, st, ow, sv, rfl⟩ := hg
  simp only at hl
  unfold State.special
  split <;> first
    | rfl
    | exact absurd rfl hx
    | simp only [hm, hi, hsp, hc, hp, hs, hl, State.srMode, State.forced, hf] <;> rfl

/-- What a step inside the issuing group leaves unchanged elsewhere. -/
theorem SameOutside.modG {s : State} {f : Group → Group} (hf : ∀ x, (f x).gid = x.gid) (c : SMap W64) :
    SameOutside s { s.modG f with counters := c } where
  bytes l n := State.readLoc_congr (s := s) (t := { s.modG f with counters := c }) rfl rfl rfl rfl rfl l n
  tags := rfl
  poison := ⟨rfl, rfl, rfl⟩
  acc := rfl
  act := rfl
  others _ hg := State.grp_modGroup_ne hf hg

/-- What retirement leaves unchanged, and where the split goes on. -/
structure RetireFrame (s t : State) : Prop where
  untouched : Untouched [] s t
  word : NextWord s t
  latch : s.midClause → t.G.latch = s.G.latch
  split : t.S = s.S.passed
  tick : t.tick = s.tick
  mops : t.mops = s.mops
  groups : (t.group? s.cur.1).isSome = true
  idxs : t.G.splits.map (·.idx) = s.G.splits.map (·.idx)

theorem passed_mask (p : Split) : p.passed.mask = p.mask := by unfold Split.passed; split <;> rfl
theorem passed_idx (p : Split) : p.passed.idx = p.idx := by unfold Split.passed; split <;> rfl
theorem passed_sigp (p : Split) : p.passed.sigp = p.sigp := by unfold Split.passed; split <;> rfl
theorem passed_pc (p : Split) : p.passed.pc = p.pc + 8 := by unfold Split.passed; split <;> rfl
theorem passed_sigb (p : Split) : p.passed.sigb =
    if p.left ≤ 1 ∧ bitAt p.hdr 29 = true then 0xFFFF else sigEnter p.sigb p.ir := by
  unfold Split.passed; by_cases h : p.left ≤ 1 <;> simp [h]
theorem passed_left (p : Split) : p.passed.left = p.left - 1 := by unfold Split.passed; split <;> rfl

/-- Retirement said once: the split's pc, count of words and signature move on, and nothing else that a program reads changes. -/
theorem State.retire_frame {s : State} (hi : s.issuing = true) (hs : s.signed = true) : RetireFrame s s.retire := by
  obtain ⟨f, c, he, hr⟩ := State.retire_eq hi hs
  rw [he]
  have hG : ({ s.modG f with counters := c } : State).G = f s.G := State.grp_modGroup hr.moves.gid (State.issuing_group hi)
  have hS : ({ s.modG f with counters := c } : State).S = s.S.passed := by
    show (State.G _).split s.cur.2 = _
    rw [hG, hr.split]
  obtain ⟨w, sp, la, sv, e⟩ := hr.moves.rest s.G
  have hlen : (f s.G).splits.length = s.G.splits.length := by
    have := congrArg List.length (hr.moves.idx s.G); simpa using this
  refine ⟨⟨SameOutside.modG hr.moves.gid c, ?_, ?_, ?_, ?_⟩, ⟨rfl, ?_, ?_, ?_, ?_⟩, ?_, hS, rfl, rfl, ?_, ?_⟩
  · intro x hx
    have hx' : x ≠ 0x19 := fun h => hx (by simp [h])
    rw [hG, hS]
    refine special_congr x hx' rfl rfl rfl rfl ⟨w, _, _, _, _, la, _, _, sp, _, _, sv, e⟩ hlen (passed_mask _) (passed_idx _) (passed_sigp _)
  · exact ⟨by rw [hG, e], by rw [hG, e]⟩
  · intro p; rw [hG, e]; rfl
  · exact (congrArg Group.v hG).trans (by rw [e])
  · rw [hS, passed_pc]
  · rw [hS, passed_left]
  · rw [hS, passed_mask]
  · rw [hS, passed_sigb]
  · intro hm; rw [hG, hr.latch hm]
  · exact (State.isSome_modGroup hr.moves.gid).trans (State.issuing_group hi)
  · rw [hG, hr.moves.idx]

end Sys2Proof.Machine
end

