-- ==== Sys2Proof/Laws/Operands.lean ====
section
/-! SUPPORT. The results of vector, predicate and scalar instructions, said once for each form (R62, R63, R107, R108, R137). -/

namespace Sys2Proof.Machine

open Sys2Proof

theorem mem_lanesOf {m : Mask} {l : Nat} : l ∈ lanesOf m ↔ l < 64 ∧ bitAt m l = true := by
  simp [lanesOf, allLanes, lanes, List.mem_filter, List.mem_range]

theorem lanesOf_lt {m : Mask} {l : Nat} (h : l ∈ lanesOf m) : l < 64 := (mem_lanesOf.1 h).1

/-! ### Values kept for siblings -/

/-- Only what siblings' clauses keep of overwritten values differs. -/
def OnlyOld (g h : Group) : Prop :=
  ∃ sp, h = { g with splits := sp } ∧ sp.map (fun p => { p with old := [] }) = g.splits.map fun p => { p with old := [] }

theorem OnlyOld.refl (g : Group) : OnlyOld g g := ⟨g.splits, rfl, rfl⟩

theorem OnlyOld.trans {g h k : Group} (h1 : OnlyOld g h) (h2 : OnlyOld h k) : OnlyOld g k := by
  obtain ⟨sp, rfl, e1⟩ := h1
  obtain ⟨sq, rfl, e2⟩ := h2
  exact ⟨sq, rfl, e2.trans e1⟩

theorem OnlyOld.keep (g : Group) (i k : Nat) (x : W64) : OnlyOld g (g.keep i k x) := by
  refine ⟨_, rfl, ?_⟩
  rw [List.map_map]
  apply List.map_congr_left; intro p _
  simp only [Function.comp_apply]
  split
  · rfl
  · split <;> rfl

theorem OnlyOld.foldl {α : Type} (f : Group → α → Group) (hf : ∀ g a, OnlyOld g (f g a)) :
    ∀ (l : List α) (g : Group), OnlyOld g (l.foldl f g)
  | [], g => .refl g
  | a :: l, g => (hf g a).trans (OnlyOld.foldl f hf l (f g a))

theorem OnlyOld.keepV (g : Group) (i d n : Nat) (m : Mask) : OnlyOld g (g.keepV i d n m) := by
  unfold Group.keepV
  split
  · exact .refl g
  · exact OnlyOld.foldl _ (fun g j => OnlyOld.foldl _ (fun g l => .keep g _ _ _) _ g) _ g

/-- Splits that differ in the kept values alone agree in every other field that is read. -/
theorem of_old {p q : Split} (h : ({ p with old := [] } : Split) = { q with old := [] }) :
    p.idx = q.idx ∧ p.mask = q.mask ∧ p.pc = q.pc ∧ p.left = q.left ∧ p.hdr = q.hdr ∧ p.sigb = q.sigb ∧ p.ir = q.ir ∧ p.sigp = q.sigp := by
  cases p; cases q; simp at h; simp [h]

theorem map_idx_of_old {a b : List Split} (h : a.map (fun p => { p with old := [] }) = b.map fun p => { p with old := [] }) :
    a.map (·.idx) = b.map (·.idx) := by
  have := congrArg (List.map (fun p : Split => p.idx)) h
  simpa [List.map_map, Function.comp_def] using this

theorem find_of_old {a b : List Split} (i : Nat) (h : a.map (fun p => { p with old := [] }) = b.map fun p => { p with old := [] }) :
    (a.find? (·.idx == i)).map (fun p => { p with old := [] }) = (b.find? (·.idx == i)).map fun p => { p with old := [] } := by
  induction a generalizing b with
  | nil => cases b with
    | nil => rfl
    | cons y b => simp at h
  | cons x a ih => cases b with
    | nil => simp at h
    | cons y b =>
      simp only [List.map_cons, List.cons.injEq] at h
      have hi : x.idx = y.idx := by
        have := congrArg (fun p : Split => p.idx) h.1
        exact this
      simp only [List.find?_cons, hi]
      cases hy : (y.idx == i) with
      | true => simpa using h.1
      | false => exact ih h.2

theorem OnlyOld.split {g h : Group} (hh : OnlyOld g h) (i : Nat) :
    { h.split i with old := [] } = ({ g.split i with old := [] } : Split) := by
  obtain ⟨sp, rfl, e⟩ := hh
  have := find_of_old i e
  unfold Group.split
  cases h1 : sp.find? (·.idx == i) <;> cases h2 : g.splits.find? (·.idx == i) <;> rw [h1, h2] at this <;> simp_all

theorem any_idx (l : List Split) (i : Nat) : l.any (·.idx == i) = (l.map (·.idx)).any (· == i) := by
  simp [List.any_map, Function.comp_def]

/-! ### Lane results -/

theorem put32_fold (i d : Nat) (w : Bool) (bl : Nat) (f : Nat → W32) : ∀ (ls : List Nat) (g : Group), (∀ l ∈ ls, l < 64) →
    let h := ls.foldl (fun g l => g.put32 i d w bl l (f l)) g
    (∃ v u la, h = { g with v := v, unfenced := u, latch := la }) ∧
    (∀ r l, l < 64 → h.vreg r l = if l ∈ ls ∧ r = d ∧ w = false then f l else g.vreg r l) ∧
    (∀ df b l, l < 64 → SMap.get df h.latch (256 * i + 64 * b + l) =
      if l ∈ ls ∧ b = bl then (f l).setWidth 64 else SMap.get df g.latch (256 * i + 64 * b + l))
  | [], g, _ => ⟨⟨_, _, _, rfl⟩, fun _ _ _ => by simp, fun _ _ _ _ => by simp⟩
  | a :: ls, g, ha => by
    have ha64 : a < 64 := ha a (List.mem_cons_self ..)
    obtain ⟨⟨v, u, la, e⟩, hv, hl⟩ := put32_fold i d w bl f ls (g.put32 i d w bl a (f a)) fun l h => ha l (List.mem_cons_of_mem _ h)
    have hput : ∃ v u la, g.put32 i d w bl a (f a) = { g with v := v, unfenced := u, latch := la } := by
      unfold Group.put32; cases w
      · exact ⟨_, _, _, rfl⟩
      · exact ⟨_, _, _, rfl⟩
    have hpv : ∀ r l, l < 64 → (g.put32 i d w bl a (f a)).vreg r l = if l = a ∧ r = d ∧ w = false then f a else g.vreg r l := by
      intro r l hl
      cases w with
      | true => simp [Group.put32, Group.vreg]
      | false =>
        show SMap.get 0 (SMap.set 0 g.v (64 * d + a) (f a)) (64 * r + l) = _
        rw [SMap.get_set]
        by_cases hh : l = a ∧ r = d
        · obtain ⟨rfl, rfl⟩ := hh; simp
        · have : ¬(64 * r + l = 64 * d + a) := by omega
          have h2 : ¬(l = a ∧ r = d ∧ (false : Bool) = false) := by simpa using hh
          rw [if_neg this, if_neg h2]; rfl
    have hpl : ∀ df b l, l < 64 → SMap.get df (g.put32 i d w bl a (f a)).latch (256 * i + 64 * b + l) =
        if l = a ∧ b = bl then (f a).setWidth 64 else SMap.get df g.latch (256 * i + 64 * b + l) := by
      intro df b l hl
      have e1 : (g.put32 i d w bl a (f a)).latch = SMap.put g.latch (256 * i + 64 * bl + a) ((f a).setWidth 64) := by
        unfold Group.put32; cases w <;> rfl
      rw [e1]
      by_cases hh : l = a ∧ b = bl
      · obtain ⟨rfl, rfl⟩ := hh; simp
      · rw [if_neg hh, SMap.get_put_ne]; omega
    refine ⟨?_, ?_, ?_⟩
    · obtain ⟨v1, u1, la1, e1⟩ := hput
      exact ⟨v, u, la, by rw [List.foldl_cons, e, e1]⟩
    · intro r l hl64
      rw [List.foldl_cons, hv r l hl64, hpv r l hl64]
      by_cases h1 : r = d ∧ w = false
      · by_cases h2 : l ∈ ls
        · simp [h1, h2]
        · by_cases h3 : l = a
          · subst h3; simp [h1, h2]
          · simp [h1, h2, h3]
      · rw [if_neg (fun h => h1 h.2), if_neg (fun h => h1 h.2), if_neg (fun h => h1 h.2)]
    · intro df b l hl64
      rw [List.foldl_cons, hl df b l hl64, hpl df b l hl64]
      by_cases h1 : b = bl
      · by_cases h2 : l ∈ ls
        · simp [h1, h2]
        · by_cases h3 : l = a
          · subst h3; simp [h1, h2]
          · simp [h1, h2, h3]
      · rw [if_neg (fun h => h1 h.2), if_neg (fun h => h1 h.2), if_neg (fun h => h1 h.2)]

theorem put64_fold (i d : Nat) (w : Bool) (bl : Nat) (f : Nat → W64) : ∀ (ls : List Nat) (g : Group), (∀ l ∈ ls, l < 64) →
    let h := ls.foldl (fun g l => g.put64 i d w bl l (f l)) g
    (∃ v u la, h = { g with v := v, unfenced := u, latch := la }) ∧
    (∀ r l, l < 64 → h.vreg r l = if l ∈ ls ∧ w = false ∧ r = d then fld (f l) 0 32
      else if l ∈ ls ∧ w = false ∧ r = d + 1 then fld (f l) 32 32 else g.vreg r l) ∧
    (∀ df b l, l < 64 → SMap.get df h.latch (256 * i + 64 * b + l) =
      if l ∈ ls ∧ b = bl then f l else SMap.get df g.latch (256 * i + 64 * b + l))
  | [], g, _ => ⟨⟨_, _, _, rfl⟩, fun _ _ _ => by simp, fun _ _ _ _ => by simp⟩
  | a :: ls, g, ha => by
    have ha64 : a < 64 := ha a (List.mem_cons_self ..)
    obtain ⟨⟨v, u, la, e⟩, hv, hl⟩ := put64_fold i d w bl f ls (g.put64 i d w bl a (f a)) fun l h => ha l (List.mem_cons_of_mem _ h)
    have hput : ∃ v u la, g.put64 i d w bl a (f a) = { g with v := v, unfenced := u, latch := la } := by
      unfold Group.put64; cases w
      · exact ⟨_, _, _, rfl⟩
      · exact ⟨_, _, _, rfl⟩
    have hpv : ∀ r l, l < 64 → (g.put64 i d w bl a (f a)).vreg r l = if l = a ∧ w = false ∧ r = d then fld (f a) 0 32
        else if l = a ∧ w = false ∧ r = d + 1 then fld (f a) 32 32 else g.vreg r l := by
      intro r l hl
      cases w with
      | true => simp [Group.put64, Group.vreg]
      | false =>
        show SMap.get 0 (SMap.set 0 (SMap.set 0 g.v (64 * d + a) (fld (f a) 0 32)) (64 * (d + 1) + a) (fld (f a) 32 32)) (64 * r + l) = _
        rw [SMap.get_set, SMap.get_set]
        by_cases hla : l = a
        · subst hla
          by_cases h1 : r = d
          · subst h1
            rw [if_neg (by omega), if_pos rfl, if_pos ⟨rfl, rfl, rfl⟩]
          · by_cases h2 : r = d + 1
            · subst h2; simp
            · have n1 : ¬(64 * r + l = 64 * (d + 1) + l) := by omega
              have n2 : ¬(64 * r + l = 64 * d + l) := by omega
              rw [if_neg n1, if_neg n2, if_neg (by simp [h1]), if_neg (by simp [h2])]; rfl
        · have n1 : ¬(64 * r + l = 64 * (d + 1) + a) := by omega
          have n2 : ¬(64 * r + l = 64 * d + a) := by omega
          simp [hla, n1, n2, Group.vreg]
    have hpl : ∀ df b l, l < 64 → SMap.get df (g.put64 i d w bl a (f a)).latch (256 * i + 64 * b + l) =
        if l = a ∧ b = bl then f a else SMap.get df g.latch (256 * i + 64 * b + l) := by
      intro df b l hl
      have e1 : (g.put64 i d w bl a (f a)).latch = SMap.put g.latch (256 * i + 64 * bl + a) (f a) := by
        unfold Group.put64; cases w <;> rfl
      rw [e1]
      by_cases hh : l = a ∧ b = bl
      · obtain ⟨rfl, rfl⟩ := hh; simp
      · rw [if_neg hh, SMap.get_put_ne]; omega
    refine ⟨?_, ?_, ?_⟩
    · obtain ⟨v1, u1, la1, e1⟩ := hput
      exact ⟨v, u, la, by rw [List.foldl_cons, e, e1]⟩
    · intro r l hl64
      rw [List.foldl_cons, hv r l hl64, hpv r l hl64]
      by_cases h2 : l ∈ ls
      · by_cases hw : w = false <;> by_cases h3 : l = a <;> simp [hw, h2, h3] <;> split <;> simp_all
      · by_cases h3 : l = a
        · subst h3; simp [h2]
        · simp [h2, h3]
    · intro df b l hl64
      rw [List.foldl_cons, hl df b l hl64, hpl df b l hl64]
      by_cases h1 : b = bl
      · by_cases h2 : l ∈ ls
        · simp [h1, h2]
        · by_cases h3 : l = a
          · subst h3; simp [h1, h2]
          · simp [h1, h2, h3]
      · rw [if_neg (fun h => h1 h.2), if_neg (fun h => h1 h.2), if_neg (fun h => h1 h.2)]

/-! ### A change of registers of the issuing group -/

/-- The state after a change of v registers and latches of the issuing group. -/
structure VChange (s t : State) : Prop where
  cur : t.cur = s.cur
  tick : t.tick = s.tick
  issuing : s.issuing = true → t.issuing = true
  split : { t.S with old := [] } = ({ s.S with old := [] } : Split)
  outside : SameOutside s t
  special : SameSpecial [0x19] s t
  scalar : SameScalar s t
  pred : SamePred s t

theorem VChange.mask {s t : State} (h : VChange s t) : t.S.mask = s.S.mask := (of_old h.split).2.1
theorem VChange.pc {s t : State} (h : VChange s t) : t.S.pc = s.S.pc := (of_old h.split).2.2.1
theorem VChange.left {s t : State} (h : VChange s t) : t.S.left = s.S.left := (of_old h.split).2.2.2.1
theorem VChange.signed {s t : State} (h : VChange s t) (hs : s.signed = true) : t.signed = true := by
  have h1 := h.left
  obtain ⟨-, -, -, -, h2, h3, h4, -⟩ := of_old h.split
  simpa [State.signed, h1, h2, h3, h4] using hs

/-- A change of the issuing group that touches v registers, latches and kept values alone. -/
theorem VChange.of {s : State} {g : Group → Group} {mo : List MemOp} (hi : s.issuing = true) (hgid : ∀ x, (g x).gid = x.gid)
    (hg : ∃ v u la sp, g s.G = { s.G with v := v, unfenced := u, latch := la, splits := sp } ∧
      sp.map (fun p => { p with old := [] }) = s.G.splits.map fun p => { p with old := [] }) :
    VChange s { s.modG g with mops := mo } := by
  obtain ⟨v, u, la, sp, e, eo⟩ := hg
  have hG : ({ s.modG g with mops := mo } : State).G = g s.G := State.grp_modGroup hgid (State.issuing_group hi)
  have ho : OnlyOld s.G { s.G with splits := sp } := ⟨sp, rfl, eo⟩
  have hsp : { (g s.G).split s.cur.2 with old := [] } = ({ s.S with old := [] } : Split) := by
    rw [e]; exact ho.split s.cur.2
  have hS : ({ s.modG g with mops := mo } : State).S = (g s.G).split s.cur.2 := by
    show (State.G _).split s.cur.2 = _
    rw [hG]
  refine ⟨rfl, rfl, fun _ => ?_, ?_, ?_, ?_, ?_, ?_⟩
  · simp only [State.issuing, Bool.and_eq_true]
    refine ⟨(State.isSome_modGroup hgid).trans (State.issuing_group hi), ?_⟩
    rw [hG, e, any_idx, map_idx_of_old eo, ← any_idx]
    exact State.issuing_split hi
  · rw [hS, hsp]
  · exact ⟨fun l n => State.readLoc_congr (s := s) (t := { s.modG g with mops := mo }) rfl rfl rfl rfl rfl l n, rfl, ⟨rfl, rfl, rfl⟩, rfl, rfl,
      fun h hh => State.grp_modGroup_ne hgid hh⟩
  · intro x hx
    rw [hG, hS]
    refine special_congr x (by simpa using hx) rfl rfl rfl rfl ⟨s.G.wdog, v, _, _, _, la, u, _, sp, _, _, _, e⟩ ?_ ?_ ?_ ?_
    · rw [e]; simpa using congrArg List.length eo
    · exact (of_old hsp).2.1
    · exact (of_old hsp).1
    · exact (of_old hsp).2.2.2.2.2.2.2
  · exact ⟨by rw [hG, e], by rw [hG, e]⟩
  · intro p; rw [hG, e]; rfl

/-- What a latch read depends on. -/
theorem latch_eq {s t : State} (ht : t.tick = s.tick) (hc : t.cur = s.cur) (b l : Nat) :
    t.latch b l = SMap.get (Config.free64 s.tick (64 * b + l)) t.G.latch (256 * s.cur.2 + 64 * b + l) := by
  simp only [State.latch, ht, hc]

theorem State.write32_eq (s : State) (d : BitVec 8) (w : Bool) (bl : BitVec 2) (m : Mask) (f : Nat → W32)
    : ∃ mo, s.write32 d w bl m f = { s.modG (fun g => (lanesOf m).foldl (fun g l => g.put32 s.cur.2 d.toNat w bl.toNat l (f l)) g) with mops := mo } := by
  unfold State.write32
  cases w with
  | true => exact ⟨s.mops, rfl⟩
  | false => exact ⟨(s.collide d.toNat 1 m).mops, rfl⟩

theorem State.write64_eq (s : State) (d : BitVec 8) (w : Bool) (bl : BitVec 2) (m : Mask) (f : Nat → W64)
    : ∃ mo, s.write64 d w bl m f = { s.modG (fun g => (lanesOf m).foldl (fun g l => g.put64 s.cur.2 d.toNat w bl.toNat l (f l)) g) with mops := mo } := by
  unfold State.write64
  cases w with
  | true => exact ⟨s.mops, rfl⟩
  | false => exact ⟨(s.collide d.toNat 2 m).mops, rfl⟩

/-- A 32-bit result before retirement: where it goes, and that nothing else changes. -/
theorem State.write32_spec {s : State} (hi : s.issuing = true) (d : BitVec 8) (w : Bool) (bl : BitVec 2) (m : Mask) (f : Nat → W32) :
    VChange s (s.write32 d w bl m f) ∧
    (∀ r l, l < 64 → (s.write32 d w bl m f).G.vreg r l = if bitAt m l = true ∧ r = d.toNat ∧ w = false then f l else s.G.vreg r l) ∧
    (∀ b l, l < 64 → (s.write32 d w bl m f).latch b l = if bitAt m l = true ∧ b = bl.toNat then (f l).setWidth 64 else s.latch b l) := by
  obtain ⟨mo, e⟩ := s.write32_eq d w bl m f
  rw [e]
  have hgid : ∀ x : Group, ((lanesOf m).foldl (fun g l => g.put32 s.cur.2 d.toNat w bl.toNat l (f l)) x).gid = x.gid := fun x => by
    obtain ⟨⟨v, u, la, e1⟩, _⟩ := put32_fold s.cur.2 d.toNat w bl.toNat f (lanesOf m) x fun l => lanesOf_lt
    rw [e1]
  obtain ⟨⟨v, u, la, e1⟩, hv, hl⟩ := put32_fold s.cur.2 d.toNat w bl.toNat f (lanesOf m) s.G fun l => lanesOf_lt
  have hG := State.grp_modGroup (s := s) (n := s.cur.1) hgid (State.issuing_group hi)
  refine ⟨VChange.of hi hgid ⟨v, u, la, s.G.splits, e1, rfl⟩, fun r l hl64 => ?_, fun b l hl64 => ?_⟩
  · refine (congrArg (fun g : Group => g.vreg r l) hG).trans ?_
    have hv := hv r l hl64
    rw [hv]
    simp only [mem_lanesOf, hl64, true_and]
  · refine (congrArg (fun g : Group => SMap.get (Config.free64 s.tick (64 * b + l)) g.latch (256 * s.cur.2 + 64 * b + l)) hG).trans ?_
    have hl := hl (Config.free64 s.tick (64 * b + l)) b l hl64
    rw [hl]
    simp only [mem_lanesOf, hl64, true_and]
    rfl

/-- A 64-bit result before retirement. -/
theorem State.write64_spec {s : State} (hi : s.issuing = true) (d : BitVec 8) (w : Bool) (bl : BitVec 2) (m : Mask) (f : Nat → W64) :
    VChange s (s.write64 d w bl m f) ∧
    (∀ r l, l < 64 → (s.write64 d w bl m f).G.vreg r l = if bitAt m l = true ∧ w = false ∧ r = d.toNat then fld (f l) 0 32
      else if bitAt m l = true ∧ w = false ∧ r = d.toNat + 1 then fld (f l) 32 32 else s.G.vreg r l) ∧
    (∀ b l, l < 64 → (s.write64 d w bl m f).latch b l = if bitAt m l = true ∧ b = bl.toNat then f l else s.latch b l) := by
  obtain ⟨mo, e⟩ := s.write64_eq d w bl m f
  rw [e]
  have hgid : ∀ x : Group, ((lanesOf m).foldl (fun g l => g.put64 s.cur.2 d.toNat w bl.toNat l (f l)) x).gid = x.gid := fun x => by
    obtain ⟨⟨v, u, la, e1⟩, _⟩ := put64_fold s.cur.2 d.toNat w bl.toNat f (lanesOf m) x fun l => lanesOf_lt
    rw [e1]
  obtain ⟨⟨v, u, la, e1⟩, hv, hl⟩ := put64_fold s.cur.2 d.toNat w bl.toNat f (lanesOf m) s.G fun l => lanesOf_lt
  have hG := State.grp_modGroup (s := s) (n := s.cur.1) hgid (State.issuing_group hi)
  refine ⟨VChange.of hi hgid ⟨v, u, la, s.G.splits, e1, rfl⟩, fun r l hl64 => ?_, fun b l hl64 => ?_⟩
  · refine (congrArg (fun g : Group => g.vreg r l) hG).trans ?_
    have hv := hv r l hl64
    rw [hv]
    simp only [mem_lanesOf, hl64, true_and]
  · refine (congrArg (fun g : Group => SMap.get (Config.free64 s.tick (64 * b + l)) g.latch (256 * s.cur.2 + 64 * b + l)) hG).trans ?_
    have hl := hl (Config.free64 s.tick (64 * b + l)) b l hl64
    rw [hl]
    simp only [mem_lanesOf, hl64, true_and]
    rfl

/-! ### Completion -/

theorem vreg_of_v {g h : Group} (e : h.v = g.v) (r l : Nat) : h.vreg r l = g.vreg r l := by simp [Group.vreg, e]

/-- A frame of a change of registers followed by retirement. -/
theorem VChange.retire {s t : State} (h : VChange s t) (hi : s.issuing = true) (hs : s.signed = true) :
    VectorFrame [] s t.retire ∧ (∀ r l, t.retire.G.vreg r l = t.G.vreg r l) ∧
    (s.midClause → ∀ b l, t.retire.latch b l = t.latch b l) := by
  have rf := State.retire_frame (h.issuing hi) (h.signed hs)
  refine ⟨⟨h.outside.trans rf.untouched.outside h.cur, h.special.trans rf.untouched.special (by simp), h.scalar.trans rf.untouched.scalar,
    h.pred.trans rf.untouched.pred, ⟨rf.word.cur.trans h.cur, ?_, ?_, ?_, ?_⟩⟩, fun r l => vreg_of_v rf.untouched.vector r l, fun hm b l => ?_⟩
  · rw [rf.word.pc, h.pc]
  · rw [rf.word.left, h.left]
  · rw [rf.word.mask, h.mask]
  · obtain ⟨-, -, -, e1, e2, e3, e4, -⟩ := of_old h.split
    rw [rf.word.sigb, e1, e2, e3, e4]
  · have hm' : t.midClause := by simpa [State.midClause, h.left] using hm
    rw [latch_eq (s := t) rf.tick rf.word.cur, latch_eq (s := t) rfl rfl, rf.latch hm']

/-- A 32-bit result and retirement: the whole effect of a vector instruction. -/
theorem State.write32_retire {s : State} (hi : s.issuing = true) (hs : s.signed = true)
    (d : BitVec 8) (w : Bool) (bl : BitVec 2) (m : Mask) (f : Nat → W32) :
    Wrote32 d w bl m (fun l x => x = f l) s (s.write32 d w bl m f).retire ∧ VectorFrame [] s (s.write32 d w bl m f).retire := by
  obtain ⟨hc, hv, hl⟩ := State.write32_spec hi d w bl m f
  obtain ⟨hf, hv2, hl2⟩ := hc.retire hi hs
  refine ⟨⟨fun l hl64 hb => ⟨f l, rfl, fun hw => ?_, fun hm => ?_⟩, fun r l hl64 ho => ?_, fun hm b l hb hl64 ho => ?_⟩, hf⟩
  · rw [hv2, hv _ _ hl64, if_pos ⟨hb, rfl, hw⟩]
  · rw [hl2 hm, hl _ _ hl64, if_pos ⟨hb, rfl⟩]
  · rw [hv2, hv _ _ hl64, if_neg]
    rintro ⟨a, b, c⟩
    rcases ho with ho | ho | ho <;> simp_all
  · rw [hl2 hm, hl _ _ hl64, if_neg]
    rintro ⟨a, b⟩
    rcases ho with ho | ho <;> simp_all

/-- A 64-bit result and retirement. -/
theorem State.write64_retire {s : State} (hi : s.issuing = true) (hs : s.signed = true)
    (d : BitVec 8) (w : Bool) (bl : BitVec 2) (m : Mask) (f : Nat → W64) :
    Wrote64 d w bl m (fun l x => x = f l) s (s.write64 d w bl m f).retire ∧ VectorFrame [] s (s.write64 d w bl m f).retire := by
  obtain ⟨hc, hv, hl⟩ := State.write64_spec hi d w bl m f
  obtain ⟨hf, hv2, hl2⟩ := hc.retire hi hs
  refine ⟨⟨fun l hl64 hb => ⟨f l, rfl, fun hw => ⟨?_, ?_⟩, fun hm => ?_⟩, fun r l hl64 ho => ?_, fun hm b l hb hl64 ho => ?_⟩, hf⟩
  · rw [hv2, hv _ _ hl64, if_pos ⟨hb, hw, rfl⟩]
  · rw [hv2, hv _ _ hl64, if_neg (by omega), if_pos ⟨hb, hw, rfl⟩]
  · rw [hl2 hm, hl _ _ hl64, if_pos ⟨hb, rfl⟩]
  · rw [hv2, hv _ _ hl64, if_neg, if_neg]
    · rintro ⟨a, b, c⟩
      rcases ho with ho | ho | ho <;> simp_all
    · rintro ⟨a, b, c⟩
      rcases ho with ho | ho | ho <;> simp_all
  · rw [hl2 hm, hl _ _ hl64, if_neg]
    rintro ⟨a, b⟩
    rcases ho with ho | ho <;> simp_all

theorem Wrote32.imp {d : BitVec 8} {w : Bool} {bl : BitVec 2} {m : Mask} {P Q : Nat → W32 → Prop} {s t : State}
    (h : Wrote32 d w bl m P s t) (hq : ∀ l x, l < 64 → bitAt m l = true → P l x → Q l x) : Wrote32 d w bl m Q s t :=
  ⟨fun l h1 h2 => let ⟨x, hx, h3⟩ := h.result l h1 h2; ⟨x, hq l x h1 h2 hx, h3⟩, h.others, h.latches⟩

theorem Wrote64.imp {d : BitVec 8} {w : Bool} {bl : BitVec 2} {m : Mask} {P Q : Nat → W64 → Prop} {s t : State}
    (h : Wrote64 d w bl m P s t) (hq : ∀ l x, l < 64 → bitAt m l = true → P l x → Q l x) : Wrote64 d w bl m Q s t :=
  ⟨fun l h1 h2 => let ⟨x, hx, h3⟩ := h.result l h1 h2; ⟨x, hq l x h1 h2 hx, h3⟩, h.others, h.latches⟩

/-- A 32-bit vector meaning completes with its lane function. -/
theorem vec32_completes {i : Instr} {f : VForm} {g : State → Nat → W32} {P : State → Nat → W32 → Prop}
    (he : ∀ s, exec i s = vec32 f s (g s)) (hp : ∀ s l, l < 64 → bitAt (selV f s) l = true → P s l (g s l)) : Completes32 i f P := by
  intro s hi hs
  have h := State.write32_retire hi hs f.d f.w f.bl (selV f s) (g s)
  exact ⟨_, he s, h.1.imp fun l x h1 h2 hx => hx ▸ hp s l h1 h2, h.2⟩

/-- A 64-bit vector meaning completes with its lane function. -/
theorem vec64_completes {i : Instr} {f : VForm} {g : State → Nat → W64} {P : State → Nat → W64 → Prop}
    (he : ∀ s, exec i s = vec64 f s (g s)) (hp : ∀ s l, l < 64 → bitAt (selV f s) l = true → P s l (g s l)) : Completes64 i f P := by
  intro s hi hs
  have h := State.write64_retire hi hs f.d f.w f.bl (selV f s) (g s)
  exact ⟨_, he s, h.1.imp fun l x h1 h2 hx => hx ▸ hp s l h1 h2, h.2⟩

/-! ### Predicates and s registers -/

theorem mem_foldl_or (f : Nat → Bool) (l : Nat) (hl : l < 64) : ∀ (ls : List Nat) (m : Mask), (∀ a ∈ ls, a < 64) →
    bitAt (ls.foldl (fun m a => if f a then m ||| ((1 : Mask) <<< a) else m) m) l = (bitAt m l || (decide (l ∈ ls) && f l))
  | [], m, _ => by simp
  | a :: ls, m, ha => by
    rw [List.foldl_cons, mem_foldl_or f l hl ls _ fun x hx => ha x (List.mem_cons_of_mem _ hx)]
    have ha64 := ha a (List.mem_cons_self ..)
    by_cases hfa : f a = true
    · rw [if_pos hfa]
      by_cases hla : l = a
      · subst hla
        simp [bitAt, hfa, hl]
      · have h1 : (decide (l < 64) && !decide (l < a) && decide (l - a = 0)) = false := by
          by_cases h2 : l < a
          · simp [h2]
          · have : l - a ≠ 0 := by omega
            simp [this]
        simp [bitAt, hla, h1]
    · rw [if_neg hfa]
      by_cases hla : l = a
      · subst hla; simp [(Bool.not_eq_true _).mp hfa]
      · simp [hla]

/-- A lane of a mask made from a function. -/
theorem bitAt_maskOf (f : Nat → Bool) {l : Nat} (hl : l < 64) : bitAt (maskOf f) l = f l := by
  unfold maskOf
  rw [mem_foldl_or f l hl allLanes 0 (by intro a ha; simpa [allLanes, lanes] using ha)]
  have : l ∈ allLanes := by simpa [allLanes, lanes] using hl
  simp [this]

/-- The lanes of a predicate after a write (R62): p0 discards it. -/
theorem Group.pred_setP (g : Group) (r q : Nat) (m val : Mask) (l : Nat) (hl : l < 64) :
    bitAt ((g.setP r m val).pred q) l = if q = r ∧ r ≠ 0 ∧ bitAt m l = true then bitAt val l else bitAt (g.pred q) l := by
  unfold Group.setP
  by_cases hr : r = 0
  · simp [hr]
  · rw [if_neg hr]
    by_cases hq0 : q = 0
    · subst hq0; simp [Group.pred, Ne.symm hr]
    · by_cases hqr : q = r
      · subst hqr
        simp only [Group.pred, hr, if_false, SMap.get_set_self]
        cases hb : bitAt m l <;> simp_all [bitAt]
      · simp [Group.pred, hq0, SMap.get_set_ne _ _ _ hqr, hqr]

/-- The state after a change of registers of the issuing group, of any kind. -/
structure RegChange (s t : State) : Prop where
  cur : t.cur = s.cur
  tick : t.tick = s.tick
  issuing : t.issuing = true
  split : { t.S with old := [] } = ({ s.S with old := [] } : Split)
  outside : SameOutside s t
  special : SameSpecial [0x19] s t

/-- What a change of registers followed by retirement leaves. -/
structure RegRetire (s t : State) : Prop where
  outside : SameOutside s t.retire
  special : SameSpecial [0x19] s t.retire
  word : NextWord s t.retire
  v : t.retire.G.v = t.G.v
  sregs : t.retire.G.s = t.G.s
  bank : t.retire.G.bank = t.G.bank
  p : ∀ q, t.retire.G.pred q = t.G.pred q
  trapm : t.retire.G.trapm = t.G.trapm
  old : s.midClause → t.retire.S.old = t.S.old

theorem RegChange.retire {s t : State} (h : RegChange s t) (hs : s.signed = true) : RegRetire s t := by
  obtain ⟨-, hm, hp, hl, h2, h3, h4, -⟩ := of_old h.split
  have hts : t.signed = true := by simpa [State.signed, hl, h2, h3, h4] using hs
  have rf := State.retire_frame h.issuing hts
  obtain ⟨f, c, he, hr⟩ := State.retire_eq h.issuing hts
  have hG : t.retire.G = f t.G := by rw [he]; exact State.grp_modGroup hr.moves.gid (State.issuing_group h.issuing)
  obtain ⟨w, sp, la, sv, e⟩ := hr.moves.rest t.G
  refine ⟨h.outside.trans rf.untouched.outside h.cur, h.special.trans rf.untouched.special (by simp),
    ⟨rf.word.cur.trans h.cur, by rw [rf.word.pc, hp], by rw [rf.word.left, hl], by rw [rf.word.mask, hm],
      by rw [rf.word.sigb, hl, h2, h3, h4]⟩,
    rf.untouched.vector, rf.untouched.scalar.1, rf.untouched.scalar.2, rf.untouched.pred, by rw [hG, e], fun hmid => ?_⟩
  rw [rf.split, Split.passed, if_neg]
  have : 2 ≤ t.S.left := by simpa [State.midClause, hl] using hmid
  omega

/-- A change of the issuing group that touches registers, latches and kept values alone. -/
theorem RegChange.of {s : State} {g : Group → Group} (hi : s.issuing = true) (hgid : ∀ x, (g x).gid = x.gid)
    (hg : ∃ v sc bk p u la sp, g s.G = { s.G with v := v, s := sc, bank := bk, p := p, unfenced := u, latch := la, splits := sp } ∧
      sp.map (fun p => { p with old := [] }) = s.G.splits.map fun p => { p with old := [] }) :
    RegChange s (s.modG g) := by
  obtain ⟨v, sc, bk, p, u, la, sp, e, eo⟩ := hg
  have hG : (s.modG g).G = g s.G := State.grp_modGroup hgid (State.issuing_group hi)
  have ho : OnlyOld s.G { s.G with splits := sp } := ⟨sp, rfl, eo⟩
  have hsp : { (g s.G).split s.cur.2 with old := [] } = ({ s.S with old := [] } : Split) := by
    rw [e]; exact ho.split s.cur.2
  have hS : (s.modG g).S = (g s.G).split s.cur.2 := by
    show (State.G _).split s.cur.2 = _
    rw [hG]
  refine ⟨rfl, rfl, ?_, ?_, ?_, ?_⟩
  · simp only [State.issuing, Bool.and_eq_true]
    refine ⟨(State.isSome_modGroup hgid).trans (State.issuing_group hi), ?_⟩
    rw [hG, e, any_idx, map_idx_of_old eo, ← any_idx]
    exact State.issuing_split hi
  · rw [hS, hsp]
  · exact ⟨fun l n => State.readLoc_congr (s := s) (t := s.modG g) rfl rfl rfl rfl rfl l n, rfl, ⟨rfl, rfl, rfl⟩, rfl, rfl,
      fun h hh => State.grp_modGroup_ne hgid hh⟩
  · intro x hx
    rw [hG, hS]
    refine special_congr x (by simpa using hx) rfl rfl rfl rfl ⟨s.G.wdog, v, _, _, _, la, u, _, sp, _, _, _, e⟩ ?_ ?_ ?_ ?_
    · rw [e]; simpa using congrArg List.length eo
    · exact (of_old hsp).2.1
    · exact (of_old hsp).1
    · exact (of_old hsp).2.2.2.2.2.2.2

/-- A predicate meaning completes with its lane function. -/
theorem vecP_completes {i : Instr} {f : VForm} {g P : State → Nat → Bool}
    (he : ∀ s, exec i s = vecP f s (g s)) (hp : ∀ s l, l < 64 → bitAt (selV f s) l = true → g s l = P s l) : CompletesPred i f P := by
  intro s hi hs
  have hgid : ∀ x : Group, (x.setP f.d.toNat (selV f s) (maskOf (g s))).gid = x.gid := fun x => by unfold Group.setP; split <;> rfl
  have hc : RegChange s (s.writeP f.d (selV f s) (g s)) := RegChange.of hi hgid (by
    unfold Group.setP; split
    · exact ⟨_, _, _, _, _, _, _, rfl, rfl⟩
    · exact ⟨_, _, _, _, _, _, _, rfl, rfl⟩)
  have hr := hc.retire hs
  have hG : (s.writeP f.d (selV f s) (g s)).G = s.G.setP f.d.toNat (selV f s) (maskOf (g s)) :=
    State.grp_modGroup hgid (State.issuing_group hi)
  have hd : f.d ≠ 0 ↔ f.d.toNat ≠ 0 := by simp [← BitVec.toNat_inj]
  refine ⟨_, he s, fun l h1 h2 h3 => ?_, fun p l h1 h2 => ?_, ?_, ?_, hr.special, hr.outside, hr.word⟩
  · rw [hr.p, hG, Group.pred_setP _ _ _ _ _ _ h1, if_pos ⟨rfl, hd.1 h3, h2⟩, bitAt_maskOf _ h1, hp s l h1 h2]
  · rw [hr.p, hG, Group.pred_setP _ _ _ _ _ _ h1, if_neg]
    rintro ⟨a, b, c⟩
    rcases h2 with h2 | h2 | h2
    · exact h2 a
    · exact hd.2 b h2
    · simp_all
  · refine hr.v.trans ?_
    rw [hG]; unfold Group.setP; split <;> rfl
  · refine ⟨hr.sregs.trans ?_, hr.bank.trans ?_⟩ <;> rw [hG] <;> unfold Group.setP <;> split <;> rfl

theorem Group.split_keep {g : Group} {i k : Nat} {x : W64} (h : g.splits.any (·.idx == i) = true) :
    (g.keep i k x).split i = { g.split i with old := (g.split i).old.erase k } := by
  unfold Group.split Group.keep
  have key : ∀ l : List Split, l.any (·.idx == i) = true →
      ((l.map fun p => if p.idx = i then { p with old := p.old.erase k }
        else if p.left = 0 ∨ p.old.any (·.1 == k) then p else { p with old := p.old.put k x }).find? (·.idx == i)).getD {} =
      { (l.find? (·.idx == i)).getD {} with old := ((l.find? (·.idx == i)).getD {}).old.erase k } := by
    intro l
    induction l with
    | nil => intro h; simp at h
    | cons p l ih =>
      intro h
      by_cases hp : p.idx = i
      · simp [hp]
      · have hb : (p.idx == i) = false := by simpa using hp
        have hrest : l.any (·.idx == i) = true := by simpa [List.any_cons, hb] using h
        have hb2 : ((if p.left = 0 ∨ (p.old.any (·.1 == k)) = true then p else { p with old := p.old.put k x } : Split).idx == i) = false := by
          split <;> exact hb
        simp only [List.map_cons, if_neg hp, List.find?_cons, hb2, hb]
        exact ih hrest
  exact key g.splits h

/-- A write of an s register, and retirement: the whole effect of a scalar result (R145). -/
theorem State.writeS_retire {s : State} (hi : s.issuing = true) (hs : s.signed = true) (d : BitVec 8) (x : W64) :
    (s.midClause → WroteScalar d x s (s.writeS d x).retire) ∧ SameVector s (s.writeS d x).retire ∧ SamePred s (s.writeS d x).retire ∧
      SameSpecial [0x19] s (s.writeS d x).retire ∧ SameOutside s (s.writeS d x).retire ∧ NextWord s (s.writeS d x).retire := by
  have hset : ∀ g : Group, ∃ sc bk sp, g.setS s.cur.2 d.toNat x = { g with s := sc, bank := bk, splits := sp } ∧
      sp.map (fun p => { p with old := [] }) = g.splits.map fun p => { p with old := [] } := fun g => by
    unfold Group.setS; split
    · exact ⟨_, _, _, rfl, rfl⟩
    · obtain ⟨sp, e, eo⟩ := OnlyOld.keep g s.cur.2 d.toNat (SMap.get 0 g.s d.toNat)
      exact ⟨_, _, sp, by rw [e], eo⟩
  have hgid : ∀ g : Group, (g.setS s.cur.2 d.toNat x).gid = g.gid := fun g => by
    obtain ⟨_, _, _, e, _⟩ := hset g; rw [e]
  obtain ⟨sc, bk, sp, e, eo⟩ := hset s.G
  have hc : RegChange s (s.writeS d x) := RegChange.of hi hgid ⟨_, sc, bk, _, _, _, sp, e, eo⟩
  have hr := hc.retire hs
  have hG : (s.writeS d x).G = s.G.setS s.cur.2 d.toNat x := State.grp_modGroup hgid (State.issuing_group hi)
  refine ⟨fun hm => ?_, hr.v.trans (by rw [hG, e]), fun q => (hr.p q).trans (by rw [hG, e]; rfl), hr.special, hr.outside, hr.word⟩
  have hsreg : ∀ r, (s.writeS d x).retire.G.sreg (s.writeS d x).retire.cur.2 r = (s.G.setS s.cur.2 d.toNat x).sreg s.cur.2 r := by
    intro r
    have h1 : (s.writeS d x).retire.cur.2 = s.cur.2 := congrArg Prod.snd hr.word.cur
    have h2 : ((s.writeS d x).retire.G.split s.cur.2).old = ((s.G.setS s.cur.2 d.toNat x).split s.cur.2).old := by
      have := hr.old hm
      rw [show (s.writeS d x).retire.S = (s.writeS d x).retire.G.split s.cur.2 by rw [State.S, h1]] at this
      rw [this]
      show ((s.writeS d x).G.split s.cur.2).old = _
      rw [hG]
    rw [h1]
    simp only [Group.sreg, hr.trapm, hr.bank, hr.sregs, h2, hG]
  refine ⟨(hsreg _).trans ?_, fun r hr' => (hsreg _).trans ?_⟩
  · unfold Group.setS
    by_cases hb : (s.G.trapm && decide (56 ≤ d.toNat)) = true
    · rw [if_pos hb]; simp [Group.sreg, hb]
    · rw [if_neg hb]
      have hk : (({ s.G.keep s.cur.2 d.toNat (SMap.get 0 s.G.s d.toNat) with s := SMap.set 0 s.G.s d.toNat x } : Group).split s.cur.2) =
          { s.S with old := s.S.old.erase d.toNat } := Group.split_keep (State.issuing_split hi)
      simp only [Group.sreg, hk]
      exact (if_neg hb).trans (by simp)
  · unfold Group.setS
    by_cases hb : (s.G.trapm && decide (56 ≤ d.toNat)) = true
    · rw [if_pos hb]; simp only [Group.sreg]; split
      · exact SMap.get_set_ne _ _ _ hr'
      · rfl
    · rw [if_neg hb]
      have hk : (({ s.G.keep s.cur.2 d.toNat (SMap.get 0 s.G.s d.toNat) with s := SMap.set 0 s.G.s d.toNat x } : Group).split s.cur.2) =
          { s.S with old := s.S.old.erase d.toNat } := Group.split_keep (State.issuing_split hi)
      simp only [Group.sreg, hk]
      simp only [Group.keep, SMap.get_set_ne _ _ _ hr', SMap.get_erase_ne _ _ hr']

/-- A scalar meaning completes with its value. -/
theorem scalar_completes {i : Instr} {f : VForm} {g x : State → W64}
    (he : ∀ s, exec i s = scalar f s (g s)) (hx : ∀ s, selV f s ≠ 0 → g s = x s) : CompletesScalar i (selV f) f.d x := by
  intro s hi hs
  by_cases h0 : selV f s = 0
  · have rf := State.retire_frame hi hs
    refine ⟨s.retire, ?_, fun h => absurd h0 h, fun _ => rf.untouched.scalar, rf.untouched.vector, rf.untouched.pred,
      rf.untouched.special, rf.untouched.outside, rf.word⟩
    rw [he, scalar, if_pos h0]
  · obtain ⟨h1, h2, h3, h4, h5, h6⟩ := State.writeS_retire hi hs f.d (g s)
    refine ⟨(s.writeS f.d (g s)).retire, ?_, fun _ hm => hx s h0 ▸ h1 hm, fun h => absurd h h0, h2, h3, h4, h5, h6⟩
    rw [he, scalar, if_neg h0]

end Sys2Proof.Machine
end

