-- ==== Sys2Proof/Tests/Slice0.lean ====
section
/-! SUPPORT. Tests: words that the spec writes out, ill-formed instructions, results of worked examples, and witnesses of the hypotheses of the statements. -/

namespace Sys2Proof.Tests

open Sys2Proof Sys2Proof.Machine Sys2Proof.Claims

set_option maxRecDepth 100000
set_option Elab.async false

/-! ### Words of the spec -/

/-- 06, worked encodings. -/
theorem test_decode_ffma : decode 0x33044001006028C9 = .ok (.ffma { d := 4, bl := 2, a := .v 2, b := .v 3, c := .v 5, md := 0x0C9 }) := rfl
theorem test_decode_iaddi : decode 0x0C08000828000100 = .ok (.iaddi { d := 8, a := .v 8, imm := 0x28000100 }) := rfl
theorem test_decode_cvt : decode 0x4503000100000449 = .ok (.cvt { d := 3, a := .v 2, md := 0x449 }) := rfl
theorem test_decode_lop3 : decode 0x0F040000804018E8 = .ok (.lop3 { d := 4, a := .v 1, b := .v 2, c := .v 3, md := 0xE8 }) := rfl
/-- R116. -/
theorem test_decode_nop : decode 0 = .ok (.nop {}) := rfl
/-- 03, worked encodings. -/
theorem test_decode_fmul : decode 0x3204000100400000 = .ok (.fmul { d := 4, a := .v 2, b := .v 2 }) := rfl
theorem test_decode_ld : decode 0xA002000600040000 = .ok (.ld { d := 2, a := .v 12, sz := 2 }) := rfl
theorem test_decode_sst : decode 0xA40F008700056000 = .ok (.sst { d := 15, a := .s 14, sz := 2, scope := 5, ord := 2 }) := rfl
theorem test_decode_bra : decode 0x8000050000000007 = .ok (.bra { p := 1, hint := 2, off := 7 }) := rfl
/-- 07, worked encodings. -/
theorem test_decode_isetp : decode 0x20010000E000000A = .ok (.isetp { d := 1, a := .v 1, b := .imm 0, md := 0xA }) := rfl
theorem test_decode_shfl : decode 0x6003000160200203 = .ok (.shfl { d := 3, a := .v 2, b := .imm 1, md := 0x203 }) := rfl
theorem test_decode_redx : decode 0x6102000100000010 = .ok (.redx { d := 2, a := .v 2, md := 0x10 }) := rfl
theorem test_decode_bar : decode 0x8800000000000003 = .ok (.bar { md := 3 }) := rfl
theorem test_decode_rbsur : decode 0x8E00018200000000 = .ok (.rbsur { a := .imm 4 }) := rfl
theorem test_decode_exit : decode 0x8600000000000000 = .ok (.exit {}) := rfl
/-- 10, worked encodings. -/
theorem test_decode_lds : decode 0x900A008800049000 = .ok (.lds { d := 10, a := .s 16, sz := 2, scope := 2, ord := 1 }) := rfl
theorem test_decode_atom : decode 0xA214000602C73A10 = .ok (.atom { d := 20, a := .v 12, b := .v 22, sz := 3, scope := 4, ord := 3, off := 0xA10 }) := rfl
theorem test_decode_fence : decode 0xA500000000016000 = .ok (.fence { scope := 5, ord := 2 }) := rfl
theorem test_decode_dfill : decode 0xAB04000660076000 = .ok (.dfill { d := 4, a := .v 12, b := .imm 0, sz := 3, scope := 5, ord := 2 }) := rfl
theorem test_decode_cpy : decode 0xB000008220A83000 = .ok (.cpy { a := .s 4, b := .s 5, c := .s 6 }) := rfl
/-- 11, worked encodings. -/
theorem test_decode_mma : decode 0xC014001022A8B000 = .ok (.mma { d := 0x14, a := .v 32, b := .s 21, c := .s 22 }) := rfl
theorem test_decode_drain : decode 0xC6040082A0C00000 = .ok (.drain { d := 4, a := .s 5, b := .s 6 }) := rfl
theorem test_decode_accz : decode 0xC5A1019064000000 = .ok (.accz { d := 0xA1, a := .imm 32, b := .imm 32 }) := rfl
theorem test_decode_lqstart : decode 0xC700008400000000 = .ok (.lqstart { a := .s 8 }) := rfl
/-- 13, worked encodings. -/
theorem test_decode_tspawn : decode 0xD000008220A00000 = .ok (.tspawn { a := .s 4, b := .s 5 }) := rfl
theorem test_decode_wqry : decode 0xD100008C00000000 = .ok (.wqry { a := .s 24 }) := rfl
theorem test_decode_glaunch : decode 0xD200008300000000 = .ok (.glaunch { a := .s 6 }) := rfl
theorem test_decode_gwait : decode 0xD300008300000000 = .ok (.gwait { a := .s 6 }) := rfl
theorem test_decode_jmpx : decode 0xD400008800001000 = .ok (.jmpx { hint := 1, live := 1, off := 0x1000 }) := rfl
/-- 14 and 15, worked encodings. -/
theorem test_decode_tokqry : decode 0xE200008220A00000 = .ok (.tokqry { a := .s 4, b := .s 5 }) := rfl
theorem test_decode_fqrpl : decode 0xE500008421200000 = .ok (.fqrpl { a := .s 8, b := .s 9 }) := rfl
theorem test_decode_migr : decode 0xE600008521686000 = .ok (.migr { a := .s 10, b := .s 11, c := .s 12 }) := rfl
theorem test_decode_waitc : decode 0x8A00018000000003 = .ok (.waitc { a := .imm 0, md := 3 }) := rfl
theorem test_decode_cntclr : decode 0xE800008320E00000 = .ok (.cntclr { a := .s 6, b := .s 7 }) := rfl
/-- R58, R72: SMOV s1, s2 has opcode 0x70, D 1 and A 0x102; SADD.SAT s1, s2, s3 has opcode 0x72 and MOD 2. -/
theorem test_decode_smov : decode 0x7001008100000000 = .ok (.smov { d := 1, a := .s 2 }) := rfl
theorem test_decode_sadd : decode 0x7201008120600002 = .ok (.sadd { d := 1, a := .s 2, b := .s 3, md := 2 }) := rfl
/-- R72, R74: an unallocated opcode, and a reserved source code. -/
theorem test_decode_unallocated : decode 0xF000000000000000 = .error .unallocated := rfl
theorem test_decode_reserved_source : decode 0x0101_00A0_0000_0000 = .error .reservedSource := rfl
/-- The encoder gives the words back. -/
theorem test_encode_atom : encode (.atom { d := 20, a := .v 12, b := .v 22, sz := 3, scope := 4, ord := 3, off := 0xA10 }) = some 0xA214000602C73A10 := rfl
theorem test_encode_jmpx : encode (.jmpx { hint := 1, live := 1, off := 0x1000 }) = some 0xD400008800001000 := rfl

/-! ### Ill-formed instructions (R61 to R71, R74) -/

theorem test_ill_mod : (Instr.iadd { md := 1 }).check = some .badMod := rfl
theorem test_ill_dest : (Instr.ladd { d := 3 }).check = some .badDest := rfl
theorem test_ill_latch : (Instr.sadd { d := 3, bl := 1, a := .s 0, b := .s 0 }).check = some .badDest := rfl
theorem test_ill_kind : (Instr.sadd { a := .v 1, b := .s 0 }).check = some .badKind := rfl
theorem test_ill_nop : (Instr.nop { d := 1 }).check = some .nonzeroField := rfl
theorem test_ill_mem : (Instr.fence { scope := 0, ord := 2 }).check = some .badMem := rfl
theorem test_ill_order : (Instr.ld { a := .v 2, sz := 2, scope := 0, ord := 1 }).check = some .badMem := rfl
theorem test_ill_special : (Instr.swr { a := .s 1, md := 0x15 }).check = some .badSpecial := rfl
theorem test_ill_unit : (Instr.swapEvent 192).check = some .badEvent := rfl
theorem test_ill_acc : (Instr.mma { d := 0x92, a := .v 0, b := .s 0, c := .s 2 }).check = some .badDest := rfl

/-! ### Results of single instructions -/

/-- One group in mid-clause, with two words left; its lanes are all active. -/
def base : State := (State.reset.withFetchWord 64 0).modS fun p => { p with left := 2 }

/-- The same with values in lane 0 of v1, v2 and v3. -/
def vals (a b c : W32) : State := base.modG fun g => ((g.setV 1 0 a).setV 2 0 b).setV 3 0 c

/-- The same with s1 and s2. -/
def svals (a b : W64) : State := base.modG fun g => { g with s := SMap.set 0 (SMap.set 0 g.s 1 a) 2 b }

/-- The state after an instruction. -/
def after (i : Instr) (s : State) : State := match exec i s with | .next t => t | _ => s

/-- Lane 0 of v4 after an instruction. -/
def v4 (i : Instr) (s : State) : W32 := (after i s).G.vreg 4 0

/-- 06: the bitwise majority of 0xFF, 0xF0F and 0x3333. -/
theorem test_lop3_majority : v4 (.lop3 { d := 4, a := .v 1, b := .v 2, c := .v 3, md := 0xE8 }) (vals 0xFF 0xF0F 0x3333) = 0x33F := by decide
/-- R113: -7 / 2 is -3, with remainder -1; unsigned, 0x7FFFFFFC. -/
theorem test_idiv : v4 (.idiv { d := 4, a := .v 1, b := .v 2, md := 1 }) (vals 0xFFFFFFF9 2 0) = 0xFFFFFFFD := by decide
theorem test_irem : v4 (.irem { d := 4, a := .v 1, b := .v 2, md := 1 }) (vals 0xFFFFFFF9 2 0) = 0xFFFFFFFF := by decide
theorem test_idiv_unsigned : v4 (.idiv { d := 4, a := .v 1, b := .v 2 }) (vals 0xFFFFFFF9 2 0) = 0x7FFFFFFC := by decide
theorem test_idiv_zero : v4 (.idiv { d := 4, a := .v 1, b := .v 2 }) (vals 5 0 0) = 0xFFFFFFFF := by decide
theorem test_irem_most_negative : v4 (.irem { d := 4, a := .v 1, b := .v 2, md := 1 }) (vals 0x80000000 0xFFFFFFFF 0) = 0 := by decide
/-- R112: a sum saturates, and wraps without SAT. -/
theorem test_iadd_sat : v4 (.iadd { d := 4, a := .v 1, b := .v 2, md := 2 }) (vals 0x7FFFFFFF 1 0) = 0x7FFFFFFF := by decide
theorem test_iadd_wraps : v4 (.iadd { d := 4, a := .v 1, b := .v 2 }) (vals 0x7FFFFFFF 1 0) = 0x80000000 := by decide
/-- R117, R118: a shift by the width modulo the width; the field of length 0; a signed field. -/
theorem test_shl_width : v4 (.shl { d := 4, a := .v 1, b := .v 2 }) (vals 3 33 0) = 6 := by decide
theorem test_bfe_empty : v4 (.bfe { d := 4, a := .v 1, b := .v 2, md := 1 }) (vals 0xFFFF 4 0) = 0 := by decide
theorem test_bfe_signed : v4 (.bfe { d := 4, a := .v 1, b := .v 2, md := 1 }) (vals 0xF0 0x0404 0) = 0xFFFFFFFF := by decide
/-- R119, R120: 1.0 + 1.0 is 2.0. -/
theorem test_fadd : v4 (.fadd { d := 4, a := .v 1, b := .v 2 }) (vals 0x3F800000 0x3F800000 0) = 0x40000000 := by decide
/-- R119: x + (-x) is +0, and -0 toward minus infinity. -/
theorem test_fadd_cancel : v4 (.fadd { d := 4, a := .v 1, b := .v 2, md := 3 }) (vals 0x3F800000 0xBF800000 0) = 0x80000000 := by decide
/-- R121: a NaN gives way to a number, and -0 lies below +0. -/
theorem test_fmin_nan : v4 (.fmin { d := 4, a := .v 1, b := .v 2 }) (vals 0x7FC00000 0x40000000 0) = 0x40000000 := by decide
theorem test_fmin_zeros : v4 (.fmin { d := 4, a := .v 1, b := .v 2 }) (vals 0 0x80000000 0) = 0x80000000 := by decide
/-- R122. -/
theorem test_frcp_zero : v4 (.frcp { d := 4, a := .v 1 }) (vals 0x80000000 0 0) = 0xFF800000 := by decide
/-- R123: FRND.RN of -0.3 is -0; FEXPT of 2^-149 is -149. -/
theorem test_frnd : v4 (.frnd { d := 4, a := .v 1 }) (vals 0xBE99999A 0 0) = 0x80000000 := by decide
theorem test_fexpt_subnormal : v4 (.fexpt { d := 4, a := .v 1 }) (vals 1 0 0) = 0xFFFFFF6B := by decide
/-- R120, R122: the root of 4.0, and of -0. -/
theorem test_fsqrt : v4 (.fsqrt { d := 4, a := .v 1 }) (vals 0x40800000 0 0) = 0x40000000 := by decide
theorem test_fsqrt_minus_zero : v4 (.fsqrt { d := 4, a := .v 1 }) (vals 0x80000000 0 0) = 0x80000000 := by decide
/-- R126: a NaN converts to 0, an overflow saturates. -/
theorem test_cvt_nan : v4 (.cvt { d := 4, a := .v 1, md := 0x420 }) (vals 0x7FC00000 0 0) = 0 := by decide
theorem test_cvt_saturates : v4 (.cvt { d := 4, a := .v 1, md := 0x420 }) (vals 0x7F800000 0 0) = 0x7FFFFFFF := by decide
/-- R138: bit 3 of a selector replicates the sign of the byte. -/
theorem test_prmt : v4 (.prmt { d := 4, a := .v 1, b := .v 2, c := .v 3 }) (vals 0x44332281 0x88776655 0x0478) = 0x815588FF := by decide
/-- R142: the mask of lane 0. -/
theorem test_ballot : (after (.ballot { d := 4, a := .v 1 }) (vals 7 0 0)).G.vreg 4 0 = 1 := by decide
/-- R145: a sum of 64 bits wraps; SMOVH keeps the low word. -/
theorem test_sadd_wraps : (after (.sadd { d := 3, a := .s 1, b := .s 2 }) (svals 0xFFFFFFFFFFFFFFFF 2)).G.sreg 0 3 = 1 := by decide
theorem test_smovh : (after (.smovh { d := 1, imm := 0xABCD }) (svals 0x1122334455667788 0)).G.sreg 0 1 = 0x0000ABCD55667788 := by decide
/-- R62: p0 discards a write. -/
theorem test_isetp_p0 : (after (.isetp { d := 0, a := .v 1, b := .v 2, md := 1 }) (vals 1 1 0)).G.pred 0 = BitVec.allOnes 64 := by decide
theorem test_isetp : bitAt ((after (.isetp { d := 1, a := .v 1, b := .v 2, md := 0xA }) (vals 0xFFFFFFFF 0 0)).G.pred 1) 0 = true := by decide
/-- 03: the signature of the block that holds FMUL v4, v2, v2. -/
theorem test_signature : sigEnter 0xFFFF 0x3204000100400000 = 0x89A0 := by decide

/-- R160: the worked example of SIGP. -/
theorem test_sigp_taken : sigpStep 0 0x00000000FFFFFFFF 3 = 0xFFFFFFFC := by decide
theorem test_sigp_merge : sigpStep 0xFFFFFF7D 0xFFFFFFFFFFFFFFFF 5 = 0xFFFFEFBA := by decide

/-! ### Witnesses of the hypotheses of the statements -/

/-- A state that can take a trap: a vector, and a frame in the mapped page. -/
def trapping : State := base.modG fun g => { g with tvec := 0x400, tframe := 0x800 }

/-- A split issues whose word ends no signed block: the hypotheses of every completion of a register instruction. -/
theorem witness_issues : base.issuing = true ∧ base.signed = true ∧ base.midClause ∧ selV {} base ≠ 0 := by decide

/-- A split can trap at once. -/
theorem witness_traps : trapping.canTrap = true ∧ selV {} trapping ≠ 0 := by decide

theorem witness_IntegerArithmetic : (∃ R, intRule (.iadd {}) = some ({}, R)) ∧ (∃ R, longRule (.lea {}) = some ({}, R)) ∧ base.issuing = true ∧ base.signed = true :=
  ⟨⟨_, rfl⟩, ⟨_, rfl⟩, by decide, by decide⟩

theorem witness_LogicAndShifts : (∃ R, logicRule 32 (.shl {}) = some ({}, R)) ∧ (∃ R, logicRule 64 (.shl { md := 4 }) = some ({ md := 4 }, R)) ∧
    (∃ R, countRule 32 (.clz {}) = some ({}, R)) ∧ (∃ R, countRule 64 (.clz { md := 4 }) = some ({ md := 4 }, R)) ∧
    ({} : VForm).d64 = false ∧ ({ md := 4 } : VForm).d64 = true ∧ fldN (1 : W64) 56 8 = 0 ∧ (1 : W64) ≠ 0 :=
  ⟨⟨_, rfl⟩, ⟨_, rfl⟩, ⟨_, rfl⟩, ⟨_, rfl⟩, by decide, by decide, by decide, by decide⟩

theorem witness_OperandReads : (base.G.split base.cur.2).old = [] ∧ 63 < 64 := by decide

theorem witness_OperandReads_float : ((5 : W32).toNat = (vals 5 0 0).srcF (.v 1) 0) ∧ ((0x40000000 : W32).toNat = base.srcF (.imm 2) 0) := by decide

theorem witness_FloatArithmetic : (∃ r e, arithRule (.fadd { md := 3 }) = some ({ md := 3 }, r, e)) ∧ fldN (3 : BitVec 11) 0 3 ≤ 3 ∧ base.issuing = true :=
  ⟨⟨_, _, rfl⟩, by decide, by decide⟩

theorem witness_FloatRootsAndSelections : fldN ({ md := 3 } : VForm).md 0 3 ≤ 3 ∧ base.issuing = true ∧ base.signed = true := by decide

theorem witness_PackedAndPlanes : (∃ e, packedRule (.hfma2 {}) = some ({}, e)) ∧ base.issuing = true ∧ base.signed = true := ⟨⟨_, rfl⟩, by decide, by decide⟩

theorem witness_ConversionAndQuantisation_cvt : fldN ({ md := 0x434 } : VForm).md 0 3 ≤ 4 ∧ ({ md := 0x434 } : VForm).cvtDst = 6 ∧ base.issuing = true ∧ base.signed = true := by decide

theorem witness_ConversionAndQuantisation_blocks : fldN ({ md := 0x24 } : VForm).md 0 3 ≤ 4 ∧ fldN ({ md := 0x24 } : VForm).md 3 4 ∈ [0, 1, 2, 3, 4, 7, 8, 9, 10, 11, 12, 13, 14] ∧
    base.issuing = true ∧ base.signed = true := by decide

theorem witness_SpecialFunctions : (∃ g, functionOf (.fexp2 {}) = some ({}, g)) ∧ (1 : Nat) ≠ 0 ∧ (127 : Nat) ≤ 127 ∧ 0 < (149 : Nat) ∧ (149 : Nat) ≤ 149 := ⟨⟨_, rfl⟩, by decide⟩

theorem witness_ActivationEvaluates : (0x40000000 : W32).toNat = fA { a := .imm 2 } base 0 ∧ base.issuing = true ∧ base.signed = true := by decide

theorem witness_PredicateResults : fldN ({ md := 13 } : VForm).md 0 4 ≤ 13 ∧ bitAt ({ md := 1 } : VForm).md 0 = true ∧ bitAt ({} : VForm).md 0 = false ∧
    fldN ({ md := 2 } : VForm).md 0 2 ≤ 2 ∧ base.issuing = true ∧ base.signed = true := by decide

theorem witness_SelectionsAndBytes : bitAt ({} : VForm).md 0 = false ∧ base.issuing = true ∧ base.signed = true := by decide

theorem witness_LaneShuffle : bitAt ({ md := 4 } : VForm).md 2 = true ∧ bitAt ({} : VForm).md 2 = false ∧ base.issuing = true ∧ base.signed = true := by decide

theorem witness_Reductions : (5 : Nat) ≤ 5 ∧ fldN ({ md := 0x35, c := .s 3 } : VForm).md 0 3 ≤ 5 ∧ fldN ({ md := 0x35, c := .s 3 } : VForm).md 3 2 ≤ 2 ∧
    bitAt ({ md := 0x35, c := .s 3 } : VForm).md 5 = true ∧ selV {} base ≠ 0 ∧ base.midClause ∧ base.issuing = true ∧ base.signed = true := by decide

theorem witness_MasksAndLanes : base.issuing = true ∧ base.signed = true ∧ selV {} base ≠ 0 ∧ base.midClause := by decide

theorem witness_ScalarArithmetic : (∃ x, scalarRule (.sadd {}) = some ({}, x)) ∧ base.issuing = true ∧ base.signed = true ∧ selV {} base ≠ 0 ∧ base.midClause :=
  ⟨⟨_, rfl⟩, by decide, by decide, by decide, by decide⟩

theorem witness_SpecialRegisters : base.S.mask ≠ 0 ∧ bitAt base.S.mask 5 = true ∧ base.peer = none ∧ ({ base with peer := some 5 } : State).peer = some 5 ∧
    (∀ x ∈ [Path.scr, .glb, .rmt, .cpy, .mtx, .qry], base.G.count x < 64) ∧
    SMap.get (0, 0) ({ base with segid := [(0, (4, 7))] } : State).segid base.G.core = (3 + 1, 7) ∧ SMap.get (0, 0) base.segid base.G.core = (0, 0) := by decide
/-- An operand at which the series of every function decides the rounding. -/
theorem witness_SpecialFunctionsRounded : fp32.value 0x3F000000 = .fin false 0x800000 (-24) ∧ int32 0x3F000000 < 128 * 2 ^ 149 ∧ (precisions.head?.map fun p =>
    [((exp2Approx false 0x800000 (-24) p).settle false).isSome, ((log2Approx 0xC00000 (-22) p).settle (log2Neg 0xC00000 (-22))).isSome,
      ((trigApprox false false 0x800000 (-24) p).settle (trigNeg false false 0x800000 (-24))).isSome, ((trigApprox true false 0x800000 (-24) p).settle (trigNeg true false 0x800000 (-24))).isSome,
      ((tanhApprox 0x800000 (-24) p).settle false).isSome, ((sigmApprox false 0x800000 (-24) p).settle false).isSome, ((erfApprox 0x800000 (-24) p).settle false).isSome]) =
    some (List.replicate 7 true) := by decide +kernel

/-- SWR of SR_WDLIM by a service group, of SR_DPLACE with 2, and the refusals. -/
theorem witness_SpecialAccesses : fldN ({ md := 0x2A } : VForm).md 0 8 ∈ writable ∧ base.G.svc = true ∧ (aUni { a := .imm 2 } base).toNat < 3 ∧
    fldN ({ md := 0x15 } : VForm).md 0 8 ≠ 0x1B ∧ trapping.canTrap = true ∧ 3 ≤ (aUni { a := .imm 3 } trapping).toNat := by decide
theorem witness_SpecialAccesses_failure : (trapping.modG fun g => { g with rflt := 1, svc := false }).canTrap = true ∧
    bitAt (trapping.modG fun g => { g with rflt := 1, svc := false }).G.rflt 0 = true ∧ (trapping.modG fun g => { g with svc := false }).G.svc = false := by decide

/-- A branch taken by some lanes, by all, and by none, with and without divergence. -/
def diverging : State := { base.modG fun g => { g with p := [(1, 0xFFFF)] } with fcons := 0 }
theorem witness_Branches : transferOf (.bra { p := 1, off := 7 }) diverging = some (0, 0xFFFF, diverging.S.pc + 56) ∧
    diverging.issuing = true ∧ diverging.signed = true ∧ diverging.outsideSegment diverging.G (diverging.S.pc + 56) = false ∧
    (0xFFFF : Mask) ≠ diverging.S.mask ∧ diverging.divides diverging.G 0 = true ∧ diverging.divides diverging.G 3 = false ∧ diverging.G.stack.length < 32 := by decide
theorem witness_Branches_all : transferOf (.call { d := 60 }) base = some (0, base.S.mask, base.S.pc) ∧ base.outsideSegment base.G base.S.pc = false := by decide

/-- A split that joins: alone, as the last of two, and with a path deferred. -/
def joining (m : Mask) (es : List StackEntry) (ps : List Split) : State :=
  base.modG fun g => { g with stack := es, splits := (g.splits.map fun p => { p with mask := m }) ++ ps }
theorem witness_Joins_waits : (joining 0xFF [.joinRec 0 0xFFFF 0 0 [] 0 []] []).issuing = true ∧ (joining 0xFF [.joinRec 0 0xFFFF 0 0 [] 0 []] []).signed = true ∧
    selC {} (joining 0xFF [.joinRec 0 0xFFFF 0 0 [] 0 []] []) ≠ 0 ∧ 0 ||| (joining 0xFF [] []).S.mask ≠ 0xFFFF := by decide
theorem witness_Joins_merges : (∀ j ∈ [1], (joining 0xFF [] [{ idx := 1, mask := 0xFF00 }]).G.splits.any (·.idx == j) = true) ∧
    (0xFF00 : Mask) ||| (joining 0xFF [] [{ idx := 1, mask := 0xFF00 }]).S.mask = 0xFFFF ∧ (joining 0xFF [] [{ idx := 1, mask := 0xFF00 }]).cur.2 < 4 := by decide
theorem witness_Joins_resumes : (joining 0xFF [.deferred 0x300 0xFF00 0 0, .joinRec 0 0xFFFF 0 0 [] 0 []] []).issuing = true ∧
    (joining 0xFF [.deferred 0x300 0xFF00 0 0, .joinRec 0 0xFFFF 0 0 [] 0 []] []).signed = true ∧
    (joining 0xFF [.deferred 0x300 0xFF00 0 0, .joinRec 0 0xFFFF 0 0 [] 0 []] []).G.stack = [.deferred 0x300 0xFF00 0 base.cur.2, .joinRec 0 0xFFFF 0 0 [] 0 []] := by decide

/-- A second group of the workgroup has no split at the barrier. -/
def barred : State := { base with groups := { fetchGroup with gid := 2, splits := [] } :: base.groups }
theorem witness_YieldBarrierRegion_waits (w n : Nat) :
    ((barred.modS fun p => { p with bars := p.bars.filter (· != fldN ({} : VForm).md 0 4) ++ [fldN ({} : VForm).md 0 4] }).retire).barrierDone w n = false := by
  have h : ((barred.modS fun p => { p with bars := p.bars.filter (· != fldN ({} : VForm).md 0 4) ++ [fldN ({} : VForm).md 0 4] }).retire).groups =
    { fetchGroup with gid := 2, splits := [] } :: ((barred.modS fun p => { p with bars := p.bars.filter (· != fldN ({} : VForm).md 0 4) ++ [fldN ({} : VForm).md 0 4] }).retire).groups.tail := by
    decide +kernel
  unfold State.barrierDone
  rw [h, List.filter_cons]
  by_cases e : w = 1
  · subst e; rfl
  · have hs : ∀ g ∈ ((barred.modS fun p => { p with bars := p.bars.filter (· != fldN ({} : VForm).md 0 4) ++ [fldN ({} : VForm).md 0 4] }).retire).groups.tail, g.wg = 1 := by decide +kernel
    have hf : (((barred.modS fun p => { p with bars := p.bars.filter (· != fldN ({} : VForm).md 0 4) ++ [fldN ({} : VForm).md 0 4] }).retire).groups.tail.filter fun g => g.wg == w && !g.ended) = [] := by
      apply List.filter_eq_nil_iff.mpr
      intro g hg
      rw [hs g hg]
      simp [Ne.symm e]
    rw [hf]
    simp [fetchGroup, Ne.symm e]

theorem witness_EndingLanes : Alone base ∧ selC {} base ≠ 0 ∧ base.S.mask &&& ~~~selC {} base = 0 ∧ Alone diverging ∧
    diverging.S.mask &&& ~~~selC { p := 1 } diverging ≠ 0 := by unfold Alone; decide

theorem witness_YieldBarrierRegion : base.groups = [base.G] ∧ base.G.gid = base.cur.1 ∧ base.G.ended = false ∧ base.G.splits.length = 1 ∧ base.G.quiet [.scr, .glb] = true ∧
    aUni { a := .imm 1 } base = 1 ∧ aUni { a := .imm 0 } base = 0 := by decide

theorem witness_SoftwareTrapsAndReturns : trapping.canTrap = true ∧ trapping.sel 0 false ≠ 0 ∧ selC {} trapping ≠ 0 ∧ selV {} trapping ≠ 0 := by decide

theorem witness_RegisterBlocks : 1 ≤ (aUni { a := .imm 15 } base).toInt ∧ (aUni { a := .imm 15 } base).toInt < base.G.nblk ∧ (aUni { a := .imm 15 } base).toInt ≤ 16 ∧
    0 < (aUni { a := .imm 1 } (base.modG fun g => { g with nblk := 15 })).toInt ∧ (base.modG fun g => { g with nblk := 15 }).G.nblk + 1 ≤ 16 ∧
    base.wgs.any (·.id == base.G.wg) = true ∧ trapping.canTrap = true ∧ (aUni { a := .imm 0 } trapping).toInt < 1 ∧ (aUni { a := .imm 127 } trapping).toInt < 0 := by decide

/-- A group in trap mode with a good frame: its split trapped in mid-clause at 0x108. -/
def returning : State :=
  { trapping.modG fun g => { g with trapm := true, tpc := 0x108, tmask := 0xF, saved := some { splits := base.G.splits, trapper := 0 } } with
    mem := trapping.mem.setNum 0xBFC 4 3057765858 }
theorem witness_SoftwareTrapsAndReturns_return : returning.issuing = true ∧ returning.signed = true ∧ selV {} returning ≠ 0 ∧ returning.G.strip = false ∧
    returning.G.pending = [] ∧ returning.G.restarting = false ∧ returning.mops = [] ∧
    (∃ o q, returning.G.saved = some o ∧ o.trapper = returning.cur.2 ∧ o.splits = [q] ∧ q.idx = returning.cur.2 ∧ o.stack = []) :=
  ⟨by decide, by decide, by decide, by decide, by decide, by decide, by decide, _, _, rfl, by decide, rfl, by decide, by decide⟩
theorem witness_SoftwareTrapsAndReturns_frame : (match returning.translate returning.G.core returning.G.ctx returning.G.tframe .load 0 with
    | (u, .ok (.mem a) _) => a == 0x800 && natOfBytes (u.mem.readN (a + 0x3FC) 4) == (crc32c (u.mem.readN a 0x3FC)).toNat &&
        u.clauseAt 1 { base.S with sigp := 0 } 0x108 == some (0x100, 0xF000000000000000) && decide ((0x108 : W64) ≠ 0x100)
    | _ => false) = true := by decide +kernel

/-- Under SKP a word of the clause is left after the trapped one. -/
theorem witness_SoftwareTrapsAndReturns_skip : returning.clauseAt 1 { base.S with hdr := 0xF100000000000000 } 0x108 =
    some (0x100, 0xF100000000000000) ∧ 2 ≤ (((0x100 : W64) + BitVec.ofNat 64 (8 * (fldN (0xF100000000000000 : W64) 56 4 + 2))) - 0x108).toNat / 8 := by decide +kernel

/-- Two groups of a context on cores 0 and 1: group 2 waits in XSHUF for group 1. -/
def meeting : State :=
  { base with
    groups := base.groups ++ [{ fetchGroup with gid := 2, core := 1, splits := [{ mask := 0xFF, pc := 0x108, hdrPc := 0x100, hdr := 0xF000000000000000, left := 2
                                                                                  ir := vWord 0x69 { d := 4, a := .v 2, b := .s 22 }, wait := .xshuf 0 0 0 }] }] }
theorem witness_Rendezvous : meeting.issuing = true ∧ meeting.signed = true ∧ selV { b := .imm 1 } meeting ≠ 0 ∧ (bUni { b := .imm 1 } meeting).toNat < 2 ^ 13 ∧
    meeting.partner meeting.G (fldN (bUni { b := .imm 1 } meeting) 0 8) (fldN (bUni { b := .imm 1 } meeting) 8 5) = some (2, 0) ∧ 2 ≠ meeting.cur.1 ∧
    (at' 2 0 meeting).issuing = true ∧ (at' 2 0 meeting).signed = true := by decide
theorem witness_Rendezvous_other : decode (at' 2 0 meeting).S.ir = .ok (.xshuf { d := 4, a := .v 2, b := .s 22 }) := rfl
theorem witness_Rendezvous_alone : base.partner base.G (fldN (bUni { b := .imm 1 } base) 0 8) (fldN (bUni { b := .imm 1 } base) 8 5) = none := by decide
theorem witness_Rendezvous_late : (at' 1 0 { trapping.modS fun p => { p with wait := .xshuf 1 0 5 } with clk := 65541 }).canTrap = true ∧
    (5 : W64).toNat + 65536 ≤ (65541 : W64).toNat := by decide

/-- A load of v4 from the address in v2, whose one lane names a mapped word. -/
def loading : State := (base.modS fun p => { p with mask := 1 }).modG fun g => g.setV 2 0 0x8000
theorem witness_MemoryInstructions : loading.passing (.group loading.cur.1 loading.cur.2) = false ∧ trapping.passing (.group trapping.cur.1 trapping.cur.2) = false ∧ loading.issuing = true ∧ loading.signed = true ∧ selM { d := 4, a := .v 2, sz := 2 } loading ≠ 0 ∧ loading.S.acqs = [] ∧
    loading.tokOps = [] ∧ (∀ p ∈ [Path.scr, .glb, .rmt, .cpy, .mtx, .qry], loading.G.count p < 63) ∧
    (laneElems { d := 4, a := .v 2, sz := 2 } loading (glbAddr { d := 4, a := .v 2, sz := 2 } loading) false).map (fun e => (e.lane, e.va)) = [(0, 0x8000)] ∧
    loading.txFull { loading.newOp { d := 4, a := .v 2, sz := 2 } 0xA0 .load with elems := [{ lane := 0, va := 0x8000, loc := .mem 0x8000 }] } = false := by decide
theorem witness_MemoryInstructions_placed : ∃ u xs, PlacedAll (loading.newOp { d := 4, a := .v 2, sz := 2 } 0xA0 .load) loading
    (laneElems { d := 4, a := .v 2, sz := 2 } loading (glbAddr { d := 4, a := .v 2, sz := 2 } loading) false) u xs ∧
    ∀ x ∈ xs, (loading.newOp { d := 4, a := .v 2, sz := 2 } 0xA0 .load).passed x = true := by
  refine ⟨_, [_], ⟨_, ⟨_, _, ?_, ?_, ?_, rfl, ?_, ?_, rfl⟩, rfl, rfl⟩, ?_⟩ <;> decide
theorem witness_MemoryInstructions_range : trapping.canTrap = true ∧ selM { a := .imm 0, sz := 2 } trapping ≠ 0 ∧ trapping.S.acqs = [] ∧ trapping.tokOps = [] ∧
    outOfRange true 0x00800000 ∧ outOfRange false 0x1000000000000000 := by unfold outOfRange; decide
theorem witness_MemoryInstructions_lanes : ∀ l < 64, bitAt (selM { a := .s 1, sz := 2 } (trapping.modG fun g => { g with s := [(1, 0x800000)] })) l = true →
    outOfRange true (scrAddr { a := .s 1, sz := 2 } (trapping.modG fun g => { g with s := [(1, 0x800000)] }) l) := by unfold outOfRange; decide

/-- One element of a load, a store or an atomic of the issuing group at local address 0x8000. -/
def atHome (k : AccKind) (win : Nat) : State :=
  { base with mops := [{ id := 9, owner := .group 1 0, kind := k, ctx := 1, elems := [{ loc := .mem 0x8000, win := win }] }] }
theorem witness_HomeAccesses : ∀ k ∈ [AccKind.load, .store, .atomic 0, .atomic 9, .atomic 10], ∀ w ∈ [0, 2, 4, 10, 11, 12],
    (((atHome k w).mop? 9).map fun o => ((o.elems.filter fun x => x.req == 0 && (atHome k w).performable o x) == o.elems && !o.hold)) = some true ∧
    ((atHome k w).mop? 9).map (fun o => (o.faults, o.elems.map (·.size), o.elems.map (·.dpage))) = some ([], [4], [false]) ∧ (atHome k w).poisoned (.mem 0x8000) 4 = false ∧ (atHome k w).l1Find 0 (.mem 0x8000) = none ∧ ((atHome k w).grp 1).shadow = false := by decide
theorem witness_HomeAccesses_values : atomicWindow 0 = some 2 ∧ (atHome .load 12).waiterFull (.mem 0x8000) = false ∧ (atHome .load 12).num (.mem 0x8000) 4 = 0 ∧ ({ atHome .load 12 with mem := [(0x8000, 1)] } : State).num (.mem 0x8000) 4 ≠ 0 := by decide

/-- A load that has been performed and may land. -/
def landing (toS : Bool) : State :=
  { base with mops := [{ id := 9, owner := .group 1 0, ctx := 1, d := 4, toS := toS, elems := [{ loc := .mem 0x8000, stage := .performed 7 }] }] }
theorem witness_Landings : ∀ b ∈ [false, true], ((landing b).mop? 9).map (fun o => (o.elems.filter fun y => y.req == 0 && bitAt (1 : Mask) y.lane) == o.elems) = some true ∧
    (((landing b).mop? 9).map fun o => (o.owner == .group 1 0 && !o.hold && o.faults.isEmpty && o.kind == .load && o.ord == 0 && decide (o.d < 64) &&
      o.elems.all fun e => e.stage == .performed 7 && !e.drop && e.dropRegs.isEmpty && decide (e.lane < 64))) = some true ∧
    ((landing b).grp 1).late = false ∧ ((landing b).group? 1).isSome = true ∧ ((landing b).mop? 9).map (fun o => (landing b).replyBehind o 0) = some false := by decide

theorem witness_FencesAndWaits : selM { scope := 5, ord := 3 } base ≠ 0 ∧ base.S.acqs = [] ∧ base.G.cpyFault = none ∧ bitAt base.G.rflt 0 = false ∧
    base.G.quiet (scopePaths 5) = true ∧ (base.modG fun g => g.raise 9 .glb).G.quiet (scopePaths 5) = false ∧ base.mops = [] ∧
    base.G.count (pathOf 3) ≤ (aUni { a := .imm 0 } base).toNat ∧ (aUni { a := .imm 0 } (base.modG fun g => g.raise 9 .cpy)).toNat < (base.modG fun g => g.raise 9 .cpy).G.count (pathOf 3) := by decide
/-- A store of the split that has not left, in its past. -/
theorem witness_FencesAndWaits_past : ∃ o ∈ ((atHome .store 0).modS fun p => { p with past := [9] }).mops, o.id = 9 ∧ o.pendingStore = true ∧
    ((atHome .store 0).modS fun p => { p with past := [9] }).S.past.contains o.id = true := ⟨_, List.mem_cons_self, by decide, by decide, by decide⟩
/-- The same store waits for an entry; no acquire, serialise request or scratchpad store is in its way. -/
def unsent' : State := { base with mops := [{ id := 9, owner := .group 1 0, kind := .store, opc := 0xA1, elems := [{ loc := .mem 0x8000 }] }] }.modS fun p => { p with past := [9] }
theorem witness_FencesAndWaits_fencel : (∃ o ∈ unsent'.mops, unsent'.buffered o = true) ∧ (∀ o ∈ (landing false).mops, (landing false).buffered o = false ∧ (landing false).serialises 5 o = false) ∧
    (∀ o ∈ unsent'.mops, o.scratch = false) ∧ 0 < base.nextId := by decide
theorem witness_FencesAndWaits_faults : (trapping.modG fun g => { g with mtxFault := some (.mxflt, 8, false) }).canTrap = true ∧ (trapping.modG fun g => { g with mtxFault := some (.mxflt, 8, false) }).G.count .mtx ≤ (aUni { a := .imm 0 } base).toNat ∧
    (trapping.modG fun g => { g with cpyFault := some (.perm, 8) }).canTrap = true ∧ (trapping.modG fun g => { g with rflt := 1 }).canTrap = true ∧
    bitAt (trapping.modG fun g => { g with rflt := 1 }).G.rflt 0 = true := by decide

theorem witness_CopyInstructions : copyOf (.cpy {}) base = some ({}, .cpy) ∧ selV {} base ≠ 0 ∧ base.G.count .cpy < 63 ∧
    63 ≤ (base.modG fun g => { g with inflight := (List.range 63).map fun i => { id := i, path := .cpy } }).G.count .cpy := by decide

/-- An operation of the copy engine of core 0, whose sources and destinations lie in the allotment of its workgroup. -/
def engine (op : CopyOp) (spm : Memory) : State := { base with copies := [op], nextId := 10, spm := spm }
/-- Two words from offset 0 to offset 0x100. -/
def copyTwo : CopyOp := { id := 9, gid := 1, ctx := 1, wg := 1, a := 0x8000000008000100, b := 0x8000000008000000, c := 8 }
/-- One of them alone. -/
def copyOne : CopyOp := { copyTwo with c := 4 }
theorem witness_CopyEngine_fresh : Fresh copyTwo (engine copyTwo [(0, 5)]) ∧ Fresh copyOne (engine copyOne [(0, 5)]) :=
  ⟨⟨by decide, by decide, by decide, by decide⟩, ⟨by decide, by decide, by decide, by decide⟩⟩
def twoMoves : List Move := (List.range (fldN copyTwo.c 0 32 / 4)).map fun i =>
  { from' := some (copyTwo.b + BitVec.ofNat 64 (4 * i)), toward := copyTwo.a + BitVec.ofNat 64 (4 * i) }
theorem twoMoves_eq : twoMoves = [{ from' := some 0x8000000008000000, toward := 0x8000000008000100 }, { from' := some 0x8000000008000004, toward := 0x8000000008000104 }] := rfl
theorem witness_CopyEngine : OwnMoves (engine copyTwo [(0, 5)]) copyTwo twoMoves ∧ copyTwo.kind = .cpy ∧ fldN copyTwo.c 32 32 = 0 ∧ fldN copyTwo.c 0 32 % 4 = 0 ∧
    copyTwo.a.toNat % 4 = 0 ∧ copyTwo.b.toNat % 4 = 0 := by
  refine ⟨⟨?_, ?_, ?_, ?_, ?_, ?_⟩, by decide, by decide, by decide, by decide, by decide⟩ <;> rw [twoMoves_eq]
  · decide
  · unfold OwnBytes; decide
  · intro m hm a ha
    simp only [List.mem_cons, List.not_mem_nil, or_false] at hm
    rcases hm with rfl | rfl <;> (injection ha with ha; subst ha; unfold OwnBytes; decide)
  · decide
  · unfold ownKey; decide
  · intro m hm m' hm' a ha
    simp only [List.mem_cons, List.not_mem_nil, or_false] at hm hm'
    rcases hm with rfl | rfl <;> rcases hm' with rfl | rfl <;> (injection ha with ha; subst ha; unfold ownKey; decide)

theorem witness_CopyEngine_one : OwnMoves (engine copyOne [(0, 5)]) copyOne [{ from' := some 0x8000000008000000, toward := 0x8000000008000100 }] := by
  refine ⟨?_, ?_, ?_, ?_, ?_, ?_⟩
  · decide
  · unfold OwnBytes; decide
  · intro m hm a ha
    simp only [List.mem_cons, List.not_mem_nil, or_false] at hm
    subst hm; injection ha with ha; subst ha; unfold OwnBytes; decide
  · decide
  · unfold ownKey; decide
  · intro m hm m' hm' a ha
    simp only [List.mem_cons, List.not_mem_nil, or_false] at hm hm'
    subst hm; subst hm'; injection ha with ha; subst ha; unfold ownKey; decide
/-- The copy of two words with one read, and with one written. -/
def reading : CopyOp := { copyTwo with moves := some twoMoves, got := [{ toward := 0x8000000008000100, data := [5, 0, 0, 0] }] }
def writing : CopyOp := { copyTwo with made := 1, puts := some [{ toward := 0x8000000008000100, data := [5, 0, 0, 0] }, { toward := 0x8000000008000104, data := [6, 0, 0, 0] }] }
theorem witness_CopyEngine_underway : Underway reading (engine reading [(0, 5)]) ∧ engineEvent reading = some (.copyOpComplete 9) ∧ reading.puts = none ∧ reading.made = 0 ∧
    (written' reading.got).map (·.1) = (twoMoves.take 1).map (·.toward) ∧ (∀ p ∈ reading.got, ∀ m ∈ twoMoves, m.toward = p.toward → p.data.length = m.n ∧ p.release = false) :=
  ⟨⟨by decide, by decide, by decide, by decide⟩, by decide, by decide, by decide, by decide, by decide⟩
theorem witness_CopyEngine_writes : Underway writing (engine writing []) ∧ engineEvent writing = some (.copyOpComplete 9) ∧ (∀ p ∈ writing.puts.getD [], p.release = false) ∧
    OwnWrites (engine writing []) writing (written' (writing.puts.getD [])) :=
  ⟨⟨by decide, by decide, by decide, by decide⟩, by decide, by decide, ⟨by decide, by unfold OwnBytes; decide, by unfold ownKey; decide⟩⟩

/-- A chain whose first entry has a code and a value; its source, destination and count are those of the copy above. -/
def chainOf (op : Nat) (value : W64) : CopyOp × Memory :=
  ({ copyTwo with kind := .chain, a := 0x8000000008000400 },
    Memory.setNum (Memory.setNum (Memory.setNum (Memory.setNum (Memory.setNum [] 0x400 8 0x8000000008000000) 0x408 8 0x8000000008000100) 0x410 4 8) 0x414 4 op) 0x418 8 value.toNat)
theorem witness_CopyEngine_entry : ∀ op ∈ [0, 1, 2, 4, 5], (engine (chainOf op 7).1 (chainOf op 7).2).chainEntry (chainOf op 7).1 =
    (engine (chainOf op 7).1 (chainOf op 7).2, .ok ⟨0x8000000008000000, 0x8000000008000100, 8, op, 7⟩) := by
  intro op h
  simp only [List.mem_cons, List.not_mem_nil, or_false] at h
  rcases h with rfl | rfl | rfl | rfl | rfl <;> rfl
theorem witness_CopyEngine_at (op : Nat) (h : op ∈ [0, 1, 2, 4, 5]) : AtEntry (chainOf op 7).1 ⟨0x8000000008000000, 0x8000000008000100, 8, op, 7⟩ (engine (chainOf op 7).1 (chainOf op 7).2) :=
  ⟨by simp only [List.mem_cons, List.not_mem_nil, or_false] at h
      rcases h with rfl | rfl | rfl | rfl | rfl <;> exact ⟨by decide, by decide, by decide, by decide⟩,
    ⟨rfl, by show 0 < 8; decide⟩, witness_CopyEngine_entry op h⟩
theorem witness_CopyEngine_word : OwnBytes (engine copyTwo []) copyTwo 4 0x8000000008000100 ∧ countGood ⟨0x8000000008000000, 0x8000000008000100, 8, 1, 7⟩ ∧
    Unmarked (engine copyTwo []) copyTwo 4 0x8000000008000100 ∧
    countGood ⟨0x8000000008000000, 0x8000000008000100, 8, 2, 7⟩ ∧ (∃ ms, chainMoves base copyTwo ⟨0, 0, 8, 2, 7⟩ = some (.chainFill 9, ms)) :=
  ⟨by unfold OwnBytes; decide, ⟨by decide, by decide, by decide⟩, by unfold Unmarked; decide, ⟨by decide, by decide⟩, _, rfl⟩

/-- An NRSET of one contribution of one element, with its record at offset 0; and an NRED into it. -/
def opening : State := engine { copyTwo with kind := .nrset, a := 0x8000000008000000 } (Memory.setNum (Memory.setNum [] 0 8 0x8000) 16 8 0x0005000100000001)
theorem witness_NetworkReductions_set : Fresh { copyTwo with kind := .nrset, a := 0x8000000008000000 } opening ∧
    (opening.engineRecord { copyTwo with kind := .nrset, a := 0x8000000008000000 } 0x8000000008000000 32 32 false =
      (opening, .ok (0x8000 + 2 ^ 128 * 0x0005000100000001))) ∧ recN (0x8000 + 2 ^ 128 * 0x0005000100000001) 184 72 = 0 ∧
    recN (0x8000 + 2 ^ 128 * 0x0005000100000001) 128 32 = 1 ∧ recN (0x8000 + 2 ^ 128 * 0x0005000100000001) 160 16 = 1 ∧
    copyWin (BitVec.ofNat 64 (recN (0x8000 + 2 ^ 128 * 0x0005000100000001) 0 64)) = 0 ∧ opening.reductions = [] :=
  ⟨⟨by decide, by decide, by decide, by decide⟩, rfl, by decide, by decide, by decide, by decide, by decide⟩
def contributing : State := { engine { copyTwo with kind := .nred, a := 5 } [] with reductions := [{ id := 5, ctx := 1, core := 0, wg := 1, result := 0x8000, doneAt := 0, ncont := 1, nelem := 1, sums := [(0, false, false, false)] }] }
theorem witness_NetworkReductions_contribution : Fresh { copyTwo with kind := .nred, a := 5 } contributing ∧ fldN (5 : W64) 8 56 = 0 ∧
    (contributing.reductions.filter fun x => x.id == fldN (5 : W64) 0 8).length = 1 ∧
    (∀ i < 1, OwnBytes contributing { copyTwo with kind := .nred, a := 5 } 4 (copyTwo.b + BitVec.ofNat 64 (4 * i)) ∧
      Unmarked contributing { copyTwo with kind := .nred, a := 5 } 4 (copyTwo.b + BitVec.ofNat 64 (4 * i))) :=
  ⟨⟨by decide, by decide, by decide, by decide⟩, by decide, by decide, by unfold OwnBytes Unmarked; decide⟩

/-- An MMA of one row block: N 16, K 32, B at 0 with pitch 32, dense E4M3 (R236, R237). -/
def multiplying : State := base.modG fun g => { g with s := [(20, 0x40000), (21, 16 * 2 ^ 20 + 32 * 2 ^ 29 + 32 * 2 ^ 40), (22, 0x100)] }
theorem witness_TeamInstructions : teamOf (.mma { d := 0x14, a := .v 32, b := .s 21, c := .s 22 }) = some ({ d := 0x14, a := .v 32, b := .s 21, c := .s 22 }, .mma) ∧
    multiplying.issuing = true ∧ multiplying.signed = true ∧ multiplying.lathe = [] ∧ multiplying.rings = [] ∧ multiplying.G.teamIdx = 0 ∧
    multiplying.mmaCheck .mma 32 (accWordOf { d := 0x14, a := .v 32, b := .s 21, c := .s 22 } multiplying) (bUni { d := 0x14, a := .v 32, b := .s 21, c := .s 22 } multiplying)
      (multiplying.G.sreg 0 22) (multiplying.G.sreg 0 23) = none := by decide
theorem witness_LatheOpen : LatheOpen base ∧ LatheOpen trapping := by unfold LatheOpen; decide
theorem witness_TeamInstructions_bad : fldN ((trapping.modG fun g => { g with s := [(22, 0xF)] }).G.sreg 0 22) 0 4 = 15 ∧ (trapping.modG fun g => { g with s := [(22, 0xF)] }).canTrap = true ∧
    fmtBad false 0x200 = false ∧ fldN (bUni { b := .imm 0 } trapping) 29 11 = 0 := by decide

theorem witness_AccumulatorMoves : moveOf (.accld { d := 0x80, a := .v 8, b := .imm 8 }) = some ({ d := 0x80, a := .v 8, b := .imm 8 }, .accld) ∧
    (bUni { b := .imm 8 } base).toInt = (8 : Nat) ∧ aBase { a := .v 8 } % 8 = 0 ∧ aBase { a := .v 8 } + 8 ≤ 16 * base.G.nblk ∧ fldN (accWordOf { d := 0x80 } base) 18 46 = 0 ∧
    RegionFree base (accRow (accWordOf { d := 0x80 } base)) 64 (accCol (accWordOf { d := 0x80 } base)) 8 := by unfold RegionFree; decide
theorem witness_AccumulatorMoves_port : ∀ k ∈ [LatheKind.accld, .accst, .accz],
    PortTurn { id := 9, kind := k, gid := 1, wg := 1, ctx := 1, n1 := 8, n2 := 8, mask := 3 } { base with lathe := [{ id := 9, kind := k, gid := 1, wg := 1, ctx := 1, n1 := 8, n2 := 8, mask := 3 }] } := by
  intro k h
  simp only [List.mem_cons, List.not_mem_nil, or_false] at h
  rcases h with rfl | rfl | rfl <;> exact ⟨rfl, by decide, by decide, rfl⟩
theorem witness_AccumulatorMoves_blocks : 8 + 8 ≤ 16 * base.G.nblk ∧ 8 + 8 ≤ ({ n1 := 8, n2 := 8 } : LatheOp).cut := by decide

/-- A drain of one element as FP32 to offset 0x140, with its descriptor at offset 0x400, before and after its start. -/
def drainDesc : Nat := 0x8000000008000140 + 2 ^ 320 + 2 ^ 336
def drainOp (started : Bool) : LatheOp :=
  { id := 9, kind := .drain, gid := 1, wg := 1, ctx := 1, order := some 0, fmt := 0x1E00, bdesc := 0x08000400, started := started
    desc := if started then drainDesc else 0, n1 := 1, n2 := 1 }
def drainState (started : Bool) : State := { base with lathe := [drainOp started], spm := Memory.setNum [] 0x400 64 drainDesc }
theorem witness_DrainBanksStrip_start : (drainState false).latheOp? 9 = some (drainOp false) ∧ (drainState false).mayStart (drainOp false) = true ∧
    (drainState false).ownRecord 0 1 1 0x08000400 = some drainDesc ∧ (drainState false).unmarked = true ∧
    (drainState false).drainCheck { drainOp false with desc := drainDesc, bank := (drainState false).activeBank 0, n1 := recN drainDesc 320 16, n2 := recN drainDesc 336 16 }.job = none ∧
    ((drainState false).group? 1).isSome = true := by decide +kernel
theorem witness_DrainBanksStrip_complete : (drainState true).latheOp? 9 = some (drainOp true) ∧ (drainOp true).started = true ∧ (drainState true).behind (drainOp true) = false ∧
    (drainOp true).spoiled = false ∧ (drainOp true).out = none ∧ (drainOp true).failed = none ∧ (drainOp true).park = none ∧ (drainState true).unmarked = true ∧ cwBad 0x1E00 = false ∧
    ((drainState true).grp 1).screened = false ∧ ((drainState true).grp 1).shadow = false ∧ (drainState true).engineWaits = [] := by decide +kernel
theorem witness_DrainBanksStrip_fits : DrainFits (drainState true) (drainOp true).job [] :=
  ⟨rfl, by unfold OwnRange OwnBytes ownKey; decide, by unfold OwnRange OwnBytes ownKey; decide, by decide, by decide⟩

theorem witness_DrainBanksStrip : fldN (accWordOf { d := 0x80 } base) 19 45 = 0 ∧ cwBad (aUni { a := .s 1 } (svals 0x1F 0)) = false ∧ cwBad (aUni { a := .imm 0 } trapping) = true ∧
    base.reach base.G.core base.G.wg base.G.ctx (aUni { a := .s 1 } (svals 0x8000000 0)).toNat 4096 64 = some (0, 0) ∧
    trapping.reach trapping.G.core trapping.G.wg trapping.G.ctx (aUni { a := .imm 8 } trapping).toNat 4096 64 = none ∧ base.lathe = [] ∧ base.activeBank 0 ≤ 1 := by decide

/-- A group in trap mode, without and with the handler strip. -/
def handling (strip : Bool) : State := base.modG fun g => { g with trapm := true, strip := strip, mxsave := 0x20000 }
/-- The same, translated by a unit that holds no TLB, so that no choice of a TLB enters. -/
def untabled (strip : Bool) : State := (handling strip).modG fun g => { g with core := 240 }
theorem witness_DrainBanksStrip_strip : ∀ b ∈ [false, true], (handling b).issuing = true ∧ (handling b).G.trapm = true ∧ (handling b).G.strip = b ∧ (handling b).G.count .mtx = 0 ∧
    (handling b).G.mxsave.toNat % 128 = 0 := by decide

theorem witness_DrainBanksStrip_save : (∀ g ∈ (untabled false).groups, g.core = (untabled false).G.core → g.strip = false) ∧
    (match (untabled false).area (untabled false).G .store (stripRows (untabled false).G) with
      | (_, .ok ls) => ls == (List.range 256).map (fun r => .mem (0x20000 + 128 * r)) | _ => false) = true ∧ (untabled false).G.shadow = false ∧
    (match (untabled true).area (untabled true).G .load (stripRows (untabled true).G) with
      | (u, .ok ls) => ls == (List.range 256).map (fun r => .mem (0x20000 + 128 * r)) && ls.all (fun l => !u.poisoned l 128) | _ => false) = true := by decide +kernel

/-- An MMA of one row, one column and one chunk of 16, ready to start; and started. -/
def mmaOp (started : Bool) : LatheOp :=
  { id := 9, gid := 1, wg := 1, ctx := 1, order := some 0, bdesc := 2 ^ 20 + 16 * 2 ^ 29 + 16 * 2 ^ 40, started := started
    members := [{ gid := 1, mask := 1, areg := 32 }] }
/-- A source of sixteen ones in A and in B. -/
def ones : MatSrc :=
  { f := fmtOf 0, k := 16, aBlock := fun _ _ => 0, aScale := fun _ _ => 127, meta' := fun _ _ => 0, bElt := fun _ _ => 0, bScale := fun _ _ => 127 }
theorem witness_MatrixResults : (∀ b ∈ [false, true], ({ base with lathe := [mmaOp b] } : State).latheOp? 9 = some (mmaOp b)) ∧
    ({ base with lathe := [mmaOp false] } : State).mayStart (mmaOp false) = true ∧ (mmaOp false).kind.team = true ∧
    ({ base with lathe := [mmaOp true] } : State).behind (mmaOp true) = false ∧ ({ base with lathe := [mmaOp true] } : State).badMeta (mmaOp true) = none ∧
    (mmaOp true).rows = [0].map (·, true) ∧ (∀ r ∈ [0], accRow (mmaOp true).acc + r < 256) ∧ ((mmaOp true).members.map (·.idx)).Nodup ∧
    (∀ a ∈ (mmaOp true).members, a.old = [] ∧ a.oldSpm = [] ∧ bitAt a.mask 0 = true) ∧ base.mops = [] ∧ (mmaOp false).reuse = false ∧
    fldN (mmaOp true).bdesc 29 11 / (fmtOf (mmaOp true).fmt).len * (((fmtOf (mmaOp true).fmt).aBytes + 3) / 4) ≠ 0 ∧ accCol (mmaOp true).acc + bN (mmaOp true).bdesc ≤ 1024 := by decide
theorem witness_MatrixResults_chunk : finite fp32 0x3F800000 = true ∧ ones.aScale 0 0 ≠ 0xFF ∧ ones.bScale 0 0 ≠ 0xFF ∧
    (ones.positions 0 0).all (fun p => match mulFp (eltValue ones.f.afmt (blockElt (eltWidth ones.f.afmt) ones.f.aElts p.1 (ones.aBlock 0 0)))
      (eltValue ones.f.bfmt (ones.bElt 0 p.2)) with | .fin _ _ e => decide (-2000 ≤ e) | _ => false) = true := by decide

/-- A ring of the group with its commands at offset 0x400, and PROD at 0x80. -/
def ring0 : Ring := { core := 0, owner := 1, wg := 1, ctx := 1, rbase := 0x08000400, prod := 0x08000080, stat := 0x080000C0 }
def ringing (r : Ring) (spm : Memory) : State := { base with rings := [r], spm := spm }
/-- A ring that has fetched a command. -/
def holding (c : BitVec 512) : Ring := { ring0 with cmd := some c }
def header0 : Memory := Memory.setNum (Memory.setNum (Memory.setNum [] 0x200 4 0x08000400) 0x208 4 0x08000080) 0x20C 4 0x080000C0
theorem witness_Rings_start : LatheOpen base ∧ ({ base with spm := header0 } : State).ringHeader (aUni { a := .s 1 } (svals 0x08000200 0)) =
    .ok (0x08000400 + 2 ^ 64 * 0x08000080 + 2 ^ 96 * 0x080000C0) := ⟨by unfold LatheOpen; decide, rfl⟩
theorem witness_Rings_stop : LatheOpen (ringing ring0 []) ∧ ring0.core = (ringing ring0 []).G.core ∧ ring0.owner = (ringing ring0 []).cur.1 ∧ ring0.out = none := by
  unfold LatheOpen; decide
theorem witness_Rings_fetch : 1 ≤ ((ringing ring0 [(0x80, 1)]).ringWord ring0 ring0.prod.toNat).getD 0 ∧
    (ringing ring0 [(0x80, 1)]).reach 0 1 1 (ring0.rbase.toNat + 64 * (ring0.num.toNat % 2 ^ ring0.logn)) 64 64 = some (0, 0x400) ∧
    ((ringing ring0 []).ringWord ring0 ring0.prod.toNat).getD 0 < ring0.num.toNat + 1 := by decide
/-- WAITCNT, SIGNAL and STOP on the word at offset 0x100. -/
def simple (op v : Nat) : BitVec 512 := BitVec.ofNat 512 (op + 2 ^ 32 * 0x08000100 + 2 ^ 64 * v)
theorem witness_Rings_hand : (∀ op ∈ [4, 5], InHand 0 (holding (simple op 1)) (simple op 1) op (ringing (holding (simple op 1)) [])) ∧
    InHand 0 (holding 6) 6 6 (ringing (holding 6) []) := by
  refine ⟨?_, ⟨⟨rfl, rfl⟩, ⟨rfl, rfl, rfl, rfl, rfl⟩, by decide⟩⟩
  intro op h
  simp only [List.mem_cons, List.not_mem_nil, or_false] at h
  rcases h with rfl | rfl <;> exact ⟨⟨rfl, rfl⟩, ⟨rfl, rfl, rfl, rfl, rfl⟩, by decide⟩
theorem witness_Rings_words : (ringing (holding (simple 4 1)) [(0x100, 2)]).ringWord (holding (simple 4 1)) (fldN (simple 4 1) 32 32 % 2 ^ 28) = some 2 ∧
    (ringing (holding (simple 4 1)) []).ringWord (holding (simple 4 1)) (fldN (simple 4 1) 32 32 % 2 ^ 28) = some 0 ∧ fldN (simple 4 1) 64 32 = 1 ∧
    base.reach 0 1 1 (fldN (simple 5 1) 32 32 % 2 ^ 28) 4 4 = some (0, 0x100) ∧ base.reach 0 1 1 ring0.stat.toNat 64 64 = some (0, 0xC0) ∧
    spmKey 0 0xC0 + 64 ≤ spmKey 0 0x100 ∧ (base.group? ring0.owner).isSome = true := by decide

/-- A ring MMA of one row, one column and one chunk of 16, with one loop of bound 1; an SMMA of one group of 48; an MMA of reduction length 0. -/
def mmaCmd (op fw k : Nat) : BitVec 512 :=
  BitVec.ofNat 512 (op + 2 ^ 8 + 2 ^ 16 * fw + 2 ^ 84 * (48 * 16) + 2 ^ 148 * (48 * 16) + 2 ^ 172 * k + 2 ^ 204 * 0x800 + 2 ^ 224)
def sparseMem : Memory := Memory.setNum [] 0x800 8 0xFFFF
theorem witness_RingIterations_next : nextIter (mmaCmd 1 0 16) 0 = some 1 ∧ nextIter (mmaCmd 1 0 16) 1 = none := by decide
theorem witness_RingIterations_hand : InHand 0 (holding (mmaCmd 1 0 16)) (mmaCmd 1 0 16) 1 (ringing (holding (mmaCmd 1 0 16)) []) ∧
    InHand 0 (holding (mmaCmd 2 0xA00 48)) (mmaCmd 2 0xA00 48) 2 (ringing (holding (mmaCmd 2 0xA00 48)) sparseMem) ∧
    InHand 0 (holding (mmaCmd 1 0 0)) (mmaCmd 1 0 0) 1 (ringing (holding (mmaCmd 1 0 0)) []) := by
  refine ⟨?_, ?_, ?_⟩ <;> exact ⟨⟨rfl, rfl⟩, ⟨rfl, rfl, rfl, rfl, rfl⟩, by decide⟩
theorem witness_RingIterations : ∀ x ∈ [(1, 0, 16), (2, 0xA00, 48)],
    let c := mmaCmd x.1 x.2.1 x.2.2
    let s := { ringing (holding c) sparseMem with bands := [(0, 1)] }
    s.ringMmaCheck (holding c) (x.1 == 2) (ringMma c 0) (BitVec.ofNat 64 (fldN c 16 14)) = none ∧ s.lathe = [] ∧ s.ringBadMeta (holding c) (ringMma c 0) = none ∧
      (∀ b ∈ bandsOf (ringMma c 0).col.toNat (ringMma c 0).n, SMap.get 0 s.bands (32 * 0 + b) = 1) := by decide +kernel
theorem witness_RingIterations_fault : (ringing (holding (mmaCmd 1 0 0)) []).ringMmaCheck (holding (mmaCmd 1 0 0)) false (ringMma (mmaCmd 1 0 0) 0) 0 = some (mx .shape) ∧
    (base.group? 1).isSome = true ∧ (base.grp 1).mtxFault = none := by decide
/-- A ring DRAIN of one element as FP32 to offset 0x140, with its descriptor at offset 0x400. -/
def drainCmd : BitVec 512 := BitVec.ofNat 512 (3 + 2 ^ 64 * 0x1E00 + 2 ^ 128 * 0x08000400)
def draining : State := ringing (holding drainCmd) (Memory.setNum [] 0x400 64 drainDesc)
theorem witness_RingIterations_drain : InHand 0 (holding drainCmd) drainCmd 3 draining ∧ draining.ownRecord 0 1 1 (fldN drainCmd 128 32) = some drainDesc ∧
    draining.drainCheck { ringJob (draining.grp 1).unfencedSpm (holding drainCmd) drainCmd drainDesc with bank := draining.activeBank 0 } = none ∧ cwBad 0x1E00 = false ∧ cwRnd 0x1E00 ≠ 4 :=
  ⟨⟨⟨rfl, rfl⟩, ⟨rfl, rfl, rfl, rfl, rfl⟩, by decide⟩, by decide, by decide, by decide, by decide⟩
/-- The job of that drain; the STAT record lies at offset 0xC0. -/
def drainJob : Job := { ringJob (draining.grp 1).unfencedSpm (holding drainCmd) drainCmd drainDesc with bank := draining.activeBank 0 }
theorem witness_RingIterations_fits : draining.reach 0 1 1 (holding drainCmd).stat.toNat 64 64 = some (0, 0xC0) ∧ DrainFits draining drainJob [(spmKey 0 0xC0, 64)] :=
  ⟨by decide, ⟨by decide, by unfold OwnRange OwnBytes ownKey; decide, by unfold OwnRange OwnBytes ownKey; decide, by decide, by decide⟩⟩
theorem witness_RingIterations_free : draining.lathe = [] ∧ (draining.grp 1).screened = false ∧ (draining.grp 1).shadow = false ∧ draining.engineWaits = [] ∧
    (∀ b ∈ bandsOf drainJob.col.toNat drainJob.cols, SMap.get 0 ({ draining with bands := [(0, 1)] } : State).bands (32 * 0 + b) = 1) := by decide


/-- The task queues of the context at its local addresses from 0 on: that of cluster 0 and priority 0 has 2^2 elements of 8 bytes at 0x8000. -/
def queued (m : Memory) : State :=
  { base with mem := Memory.setNum (Memory.setNum (Memory.setNum (Memory.setNum (Memory.setNum m 0x17F8 8 (pointerTo 0x4000)) 0x4FF0 8 (pointerTo 0x5000)) 0x5000 8 0x400FFFF0F) 0 8 0x8000) 8 2 0x802 }
/-- The same, with a task of one block at 0x9000 at its head. -/
def tasked : State := queued (Memory.setNum (Memory.setNum (Memory.setNum base.mem 0x18 8 1) 0x8000 8 0x9000) 0x901C 4 4)
theorem witness_SpindleInstructions_spawn : selectorBad (bUni { b := .imm 0 } (queued base.mem)) = false ∧ (queued base.mem).taskQueueLoc 1 0 0 = some (.mem 0) ∧
    (queued base.mem).header (.mem 0) 8 = some ⟨0x8000, 2, 8, false, 0, 0⟩ ∧ (queued base.mem).element 1 (.mem 0) ⟨0x8000, 2, 8, false, 0, 0⟩ 0 = some (.mem 0x8000) ∧
    (Loc.mem 0x8000).overlaps 8 (.mem 0) 64 = false ∧ aUni { a := .s 1 } (svals 0x9000 0) = 0x9000 := by decide +kernel
theorem witness_Released : Released 5 base ∧ Released 4 base ∧ base.G.shadow = false := by unfold Released; decide
theorem witness_SpindleInstructions_bad : trapping.canTrap = true ∧ selectorBad (bUni { b := .imm 4 } trapping) = true ∧ aUni { a := .imm 0 } trapping = 0 := by decide
theorem witness_SpindleInstructions_query : (aUni { a := .s 1 } (svals 0x8000008 0)).toNat = 2 ^ 27 + 8 ∧ 8 % 8 = 0 ∧ 8 < (base.wgOf base.G.wg).size ∧ base.G.count .qry < 63 := by decide
/-- A grid of 2 by 1 by 1 workgroups of one group, whose tile space is as wide. -/
def grid7 (d : Desc) : Grid := { id := 7, ctx := 1, va := 0x9000, desc := { d with gx := 2, gy := 1, gz := 1, g := 1, t := 1, nblk := 1, tx := 2, ty := 1, tz := 1 } }
theorem witness_SpindleInstructions_answer : (({ base with grids := [grid7 {}] }.modG fun g => { g with grid := 7 }).grid? ((base.modG fun g => { g with grid := 7 }).grp 1).grid) =
    some (grid7 {}) ∧ 0 < (grid7 {}).desc.tx ∧ 0 < (grid7 {}).desc.ty ∧ (base.grp 1).screened = false := by decide
/-- A launch descriptor of one workgroup at 0x9000: GX, GY, GZ, G, T and NBLK are 1. -/
def desc1 : Nat := 2 ^ 128 + 2 ^ 144 + 2 ^ 160 + 2 ^ 176 + 2 ^ 184 + 2 ^ 192
def described (d : Nat) : State := { base with mem := base.mem.setNum 0x9000 128 d }
theorem witness_SpindleInstructions_launch : (aUni { a := .s 1 } (svals 0x9000 0)) = 0x9000 ∧ base.G.teamIdx = 0 ∧ base.G.depth ≠ 10 ∧ base.launches = [] ∧
    (described desc1).descStatus 1 (descOf desc1) = none ∧ (descOf desc1).drift = false ∧ (descOf desc1).svc = false := by decide +kernel
theorem witness_SpindleInstructions_read : (match (described desc1).translate 0 1 0x9000 .load 0 with
    | (u, .ok l _) => l == .mem 0x9000 && !u.poisoned l 128 && natOfBytes (u.readLoc l 128) == desc1
    | _ => false) = true := by decide +kernel
/-- GWAIT on a grid of the group's own, with STATE 0, 1 and 2; and on a descriptor that no grid names any more. -/
def awaiting (st : Nat) : State := { described (2 ^ 512 * 7 + 2 ^ 584 * st) with grids := [grid7 {}] }
theorem witness_SpindleInstructions_wait : ∀ st ∈ [0, 1, 2], (match (awaiting st).translate 0 1 0x9000 .load 0 with
    | (u, .ok l _) => ((awaiting st).grid? (u.num (l.add 64) 4) == some (grid7 {})) && (grid7 {}).ctx == 1 && (grid7 {}).parent == 0 && u.num (l.add 73) 1 % 4 == st
    | _ => false) = true := by decide +kernel
theorem witness_SpindleInstructions_unnamed : (match (described 0).translate 0 1 0x9000 .load 0 with
    | (u, .ok l _) => ((described 0).grid? (u.num (l.add 64) 4)).isNone && u.num (l.add 68) 4 == base.G.grid
    | _ => false) = true := by decide +kernel

theorem witness_Dispatch_accept : ∀ q ∈ [none, some (1, 0)],
    let l : Launch := { ctx := 1, prio := 0, va := 0x9000, issuer := q }
    let s := { described desc1 with launches := [l] }
    s.launchHead 1 0 = some l ∧ s.dispatches 1 = true ∧ s.openGrids.length < 1024 ∧ s.deviceRead 1 l.va 128 = some desc1 ∧ (descOf desc1).coop = false ∧
      s.descStatus 1 (descOf desc1) = none ∧ (at' 1 0 s).signed = true ∧ (at' 1 0 s).issuing = true ∧ (s.group? 1).isSome = true := by decide +kernel
theorem witness_Dispatch_coop :
    let l : Launch := { ctx := 1, prio := 0, va := 0x9000, coop := true }
    let s := { described desc1 with launches := [l] }
    s.launchHead 1 0 = some l ∧ s.dispatches 1 = true ∧ s.openGrids.length < 1024 ∧ s.deviceRead 1 l.va 128 = some desc1 ∧ l.issuer = none ∧
      s.descStatus 1 { descOf desc1 with coop := true } = none := by decide +kernel
theorem witness_Dispatch_refuse : ({ described 0 with launches := [{ ctx := 1, va := 0x9000 }] } : State).deviceRead 1 0x9000 128 = some 0 ∧
    ({ described 0 with launches := [{ ctx := 1, va := 0x9000 }] } : State).descStatus 1 (descOf 0) = some 4 := by decide +kernel
theorem witness_Dispatch_workgroup : ({ base with grids := [grid7 {}] } : State).candidates (1 / 8) = [(.grid 7 0, 10)] ∧
    ({ base with grids := [grid7 {}] } : State).fits ((grid7 {}).placing 0) 1 = true ∧ (grid7 {}).desc.screen = false := by decide +kernel
theorem witness_Dispatch_task : tasked.candidates (1 / 8) = [(.task 1 0 0, 6)] ∧ tasked.taskQueueLoc 1 (1 / 8) 0 = some (.mem 0) ∧ tasked.taskNext 1 (1 / 8) 0 = some (0, 0x9000) ∧
    tasked.header (.mem 0) 8 = some ⟨0x8000, 2, 8, false, 0, 1⟩ ∧ tasked.recordFault 1 0x9000 = none ∧
    tasked.element 1 (.mem 0) ⟨0x8000, 2, 8, false, 0, 1⟩ 0 = some (.mem 0x8000) ∧ ((tasked.taskPlace 1 0x9000).map fun p => (p.nblk, tasked.fits p 1)) = some (1, true) := by decide +kernel
theorem witness_Dispatch_child : ({ described desc1 with launches := [{ ctx := 1, va := 0x9000 }] } : State).childBad { ctx := 1, va := 0x9000, issuer := some (1, 0) } (descOf desc1) = false := by decide +kernel
theorem witness_Dispatch_abandon : ({ base with shadowReqs := [{ id := 3 }], clk := 65536 } : State).shadowReqs.find? (·.id == 3) = some { id := 3 } ∧
    65536 ≤ ((65536 : W64) - 0).toNat := by decide

/-- A drifting group of a grid with one segment at address 0 on a core. -/
def drifting (core : Nat) : State :=
  { base with grids := [{ grid7 {} with segs := [{ base := 0, len := 256, reps := [core] }] }] }.modG fun g => { g with drift := true, grid := 7 }
theorem witness_Drift_jmpx : ∀ c ∈ [0, 1], (drifting c).issuing = true ∧ (drifting c).signed = true ∧ selC {} (drifting c) ≠ 0 ∧ selC {} (drifting c) = (drifting c).S.mask ∧
    (drifting c).G.splits.length = 1 ∧ ((drifting c).grid? (drifting c).G.grid).isSome = true ∧
    (((drifting c).grid? 7).map fun g => g.segs.find? fun z => inSegment z ((drifting c).S.pc + ((-2 : BitVec 24).signExtend 64 <<< 3))) = some (some { base := 0, len := 256, reps := [c] }) ∧
    (0 : BitVec 4).toNat < (drifting c).G.nblk ∧ (drifting c).leavesBehind 1 = false ∧ (drifting c).G.restarting = false ∧ (drifting c).G.shadow = false ∧
    (drifting c).G.cpyFault = none := by decide
/-- A shadow of such a group, whose segment holds its pc or not. -/
def shadowing (len : Nat) : State :=
  { base with grids := [{ grid7 {} with segs := [{ base := 0, len := len, reps := [1] }] }] }.modG fun g => { g with drift := true, grid := 7, shadow := true }
theorem witness_Drift_shadow : ∀ n ∈ [256, 512], (shadowing n).issuing = true ∧ (shadowing n).signed = true ∧ selC {} (shadowing n) = (shadowing n).S.mask ∧ (shadowing n).G.shadow = true ∧
    (((shadowing n).grid? 7).map fun g => g.segs.find? fun z => inSegment z ((shadowing n).S.pc + ((-2 : BitVec 24).signExtend 64 <<< 3))) = some (some { base := 0, len := n, reps := [1] }) ∧
    inSegment { base := 0, len := n, reps := [1] } (shadowing n).S.pc = decide (n = 512) ∧ (shadowing n).leavesBehind 1 = false := by decide
theorem witness_Drift_outside : trapping.canTrap = true ∧ trapping.G.drift = false := by decide
theorem witness_Drift_creation : ((drifting 1).grid? 7).map (fun g => (decide (g.next < g.total), (drifting 1).dispatches g.ctx, (drifting 1).arrivals 1)) = some (true, true, []) := by decide
/-- A group on its way to core 1, and what becomes of its transfer. -/
def travelling (x : Xfer) (clk : W64) : State := { drifting 1 with xfers := [x], clk := clk }
theorem witness_Drift_arrival : (travelling { id := 1, toward := 1 } 0).xfers.find? (·.id == 1) = some { id := 1, toward := 1 } ∧
    ((travelling { id := 1, toward := 1 } 0).arrivals 1).length < 16 := by decide
theorem witness_Drift_admission : (travelling { id := 1, toward := 1, stage := .arrival } 0).nextAdmission 1 = some { id := 1, toward := 1, stage := .arrival } ∧
    ((travelling { id := 1, toward := 1, stage := .arrival } 0).groups.find? (·.gid == 1)).isSome = true ∧
    ((travelling { id := 1, toward := 1, stage := .arrival } 0).freeSlots 1).isEmpty = false ∧ (travelling { id := 1, toward := 1, stage := .arrival } 0).blocksUsed 1 + 1 ≤ 128 ∧
    (base.grp 1).wdog < (base.grp 1).limit ∧ (base.grp 1).gid = 1 := by decide
theorem witness_Drift_spill : 4096 ≤ ((4096 : W64) - 0).toNat ∧
    ({ travelling { id := 1, toward := 1 } 4096 with overflowCap := [(1, 1)] } : State).ringImages 1 = [] := by decide
theorem witness_Drift_room : HasRoom { id := 1, toward := 1 } (travelling { id := 1, toward := 1 } 4096) := by unfold HasRoom; decide +kernel
/-- Firmware has grown the ring of core 1 by one image. -/
theorem witness_Drift_spill_room : ([] : List Xfer).length < ({ travelling { id := 1, toward := 1 } 4096 with overflowCap := [(1, 1)] } : State).overflowRoom 1 :=
  Nat.lt_of_lt_of_le (by decide) (Nat.le_add_left 1 _)
theorem witness_Drift_grow : ((travelling { id := 1, toward := 1, overflow := true } 0).xfers.filter fun y => y.toward == 1 && y.overflow && y.stage != .ring) =
    [{ id := 1, toward := 1, overflow := true }] := by decide

/-- The context's page at 0 lies at the peer 5. -/
def abroad : State := { base with mem := base.mem.setNum 0x3000 8 (0x400FFFF0F + 2 * 2 ^ 6 + 5 * 2 ^ 24), peers := [(5, .run)] }
theorem witness_Tokens_here : NamesRegion base (aUni { a := .imm 0 } base) 0 ∧ base.token? 0 = none ∧ base.tokOps = [] ∧ base.G.count .rmt = 0 :=
  ⟨⟨by decide, 0x400FFFF0F, 0x3000, by decide, .inl ⟨0, by decide, by decide, by decide⟩⟩, by decide, by decide, by decide⟩
theorem witness_Tokens_there : NamesRegion abroad (aUni { a := .imm 0 } abroad) (6 * 2 ^ 48) ∧ abroad.token? (6 * 2 ^ 48) = none ∧
    SMap.get .absent abroad.peers (6 * 2 ^ 48 / 2 ^ 48 - 1) = .run ∧ (2 : Nat) ^ 48 ≤ 6 * 2 ^ 48 :=
  ⟨⟨by decide, 0x405FFFF8F, 0x3000, by decide, .inr ⟨5, 0, by decide, by decide, by decide, by decide⟩⟩, by decide, by decide, by decide⟩
/-- The device holds the token of the peer's region; a TOKACQ waits for it; a TOKQRY has asked. -/
theorem witness_Tokens_held : Released 5 abroad ∧ ({ abroad with tokens := [{ region := 6 * 2 ^ 48 }] } : State).token? (6 * 2 ^ 48) = some { region := 6 * 2 ^ 48 } ∧
    ({ abroad with tokens := [{ region := 6 * 2 ^ 48 }] } : State).storesTo (6 * 2 ^ 48) = false := by unfold Released; decide
theorem witness_Tokens_buffer : ScratchBuffer base (bUni { b := .s 2 } (svals 0 0x8000000008000010)) 8 16 := ⟨by decide, by decide, by decide⟩
theorem witness_Tokens_request : 0 < 2 ^ 48 ∧ (base.tokens.filter fun t => regionHere t.region).length < 16384 ∧ base.storesTo 0 = false := by decide
theorem witness_Tokens_grant : ({ abroad with tokOps := [{ id := 9, gid := 1, split := 0, kind := 0, region := 6 * 2 ^ 48 }] } : State).token? (6 * 2 ^ 48) = none ∧
    (2 : Nat) ^ 48 ≤ 6 * 2 ^ 48 := by decide
/-- A token of region 0 that the peer 5 holds, with requests that wait. -/
def lent (moves : List W64) (ws : List (Option Nat)) : Token := { region := 0, holder := some 5, lastMove := 1, moves := moves, waiting := ws }
theorem witness_Tokens_return : ∀ m ∈ [[], [1, 2, 3, 4, 5, 6, 7]], ({ base with tokens := [lent m [some 3]], clk := 9 } : State).token? 0 = some (lent m [some 3]) ∧
    (lent m [some 3]).pinned = false ∧ ((lent m [some 3]).moves.filter fun k => decide (((9 : W64) - k).toNat < 700000)).length = m.length := by decide
theorem witness_Tokens_answer : ({ base with tokOps := [{ id := 9, gid := 1, split := 0, kind := 2, region := 0 }], mops := [{ id := 9, elems := [{ size := 8 }] }] } : State).mop? 9 =
    some { id := 9, elems := [{ size := 8 }] } := by decide
theorem witness_Tokens_hold : (lent [] [some 3]).lastMove ≠ 0 ∧ ((2 : W64) - 1).toNat < 14000 ∧ 14000 ≤ ((14001 : W64) - 1).toNat ∧ (lent [] [some 3]).recalled = false := by decide
theorem witness_Tokens_expiry : ({ base with tokens := [{ region := 0, moves := [1] }] } : State).token? 0 = some { region := 0, moves := [1] } ∧
    ((2 : W64) - 1).toNat < 700000 ∧ 700000 ≤ ((700001 : W64) - 1).toNat ∧ base.tokWait = [] := by decide

theorem witness_Services_priv : serviceOf (.tlbinv {}) = some {} ∧ (trapping.modG fun g => { g with svc := false }).canTrap = true := by decide
theorem witness_Serves : Serves {} base ∧ NoneHeld base := ⟨⟨by decide, by decide, by decide, by decide⟩, fun o h => absurd h List.not_mem_nil⟩
theorem witness_Services_tlbinv : ∀ k < 3, ∀ z < 3, (bUni { b := .s 2 } (svals 0 (BitVec.ofNat 64 (k + 4 * z + 2 ^ 16)))).toNat = k + 4 * z + 2 ^ 16 * 1 ∧
    (1 : Nat) = base.G.ctx ∧ base.unsettled (coverOf k z 1 0) = false ∧ base.engineUnsettled (coverOf k z 1 0) = false := by decide
theorem witness_Services_range : trapping.G.svc = true ∧ fldN (bUni { b := .imm 3 } trapping) 0 2 = 3 ∧ fldN (bUni { b := .imm (-1) } trapping) 17 47 ≠ 0 := by decide
/-- A fault queue of 2^4 entries whose header stands at 0xA000 and whose entries stand from 0xB000 on, with one entry. -/
def faulted (va : Nat) : State :=
  { base with mem := Memory.setNum (Memory.setNum (Memory.setNum (Memory.setNum (Memory.setNum base.mem 0xA000 8 0xB000) 0xA008 1 4) 0xA018 8 1) 0xB000 8 va) 0xB008 2 1
              fq := { header := some 0xA000 } }
theorem witness_Services_buffer : ScratchBuffer base (aUni { a := .s 1 } (svals 0x8000000008000020 0)) 32 32 ∧ base.fq.waiting = [] ∧ base.fqEmpty = true ∧
    FqOldest 0xA000 0xB000 (faulted 0x123) ∧ (faulted 0x123).fq.waiting = [] ∧ NoWaiters base :=
  ⟨⟨by decide, by decide, by decide⟩, by decide, by decide, ⟨rfl, by decide, by decide⟩, rfl, fun o h => absurd h List.not_mem_nil⟩
theorem witness_Services_entry : ({ ctx := 65535, atype := 15, win := 15, src := 3, core := 255, slot := 31, dup := 65535 } : FqEntry).ctx < 2 ^ 16 := by decide
theorem witness_Services_reply : NothingParked 1 0 base ∧ NoFetchParked 1 0 base ∧ (bUni { b := .s 2 } (svals 0 1)).toNat = 1 + 2 ^ 16 * false.toNat := by
  refine ⟨⟨?_, ?_, ?_, ?_⟩, ?_, by decide⟩
  · exact fun o h => absurd h List.not_mem_nil
  · exact fun o h => absurd h List.not_mem_nil
  · exact fun o h => absurd h List.not_mem_nil
  · exact fun o h => absurd h List.not_mem_nil
  · intro g hg _ p hp va h
    have w : ∀ g ∈ base.groups, ∀ p ∈ g.splits, p.wait = .none := by decide
    rw [w g hg p hp] at h
    cases h
/-- A second group whose fetch is parked on a page. -/
def parked2 : Group := { fetchGroup with gid := 2, splits := [{ pc := 0x108, wait := .fetch 0x108 }] }
theorem witness_Services_parked : ({ base with groups := base.groups ++ [parked2] } : State).grp 2 = parked2 ∧ parked2.split 0 = { pc := 0x108, wait := .fetch 0x108 } ∧
    parked2.pending = [] ∧ inPage ((aUni { a := .imm 0 } base).toNat % 2 ^ 56 / 0x10000) 0x108 = true := by decide

theorem witness_MigrationAndCounters_migr : cUni { c := .imm 1 } base = BitVec.ofNat 64 base.G.ctx ∧ base.G.count .cpy < 63 ∧
    base.walk base.G.ctx (BitVec.ofNat 64 ((aUni { a := .imm 0 } base).toNat % 2 ^ 56)) = .leaf 0x400FFFF0F 0x3000 ∧
    bitAt (bUni { b := .s 2 } (svals 0 0x10000400FFFF0F)) 0 = true ∧ fldN (bUni { b := .s 2 } (svals 0 0x10000400FFFF0F)) 33 2 = fldN (0x400FFFF0F : W64) 33 2 ∧
    bitAt (0x10000400FFFF0F : W64) 4 = false ∧ fldN (cUni { c := .imm (-1) } trapping) 16 48 ≠ 0 := by decide
/-- A migration of the page at 0 to the frame at 1 GiB. -/
def moving : CopyOp := { id := 9, gid := 1, kind := .migr, b := 0x10000400FFFF0F, c := 1 }
theorem witness_MigrationAndCounters_done : MayMove moving 0x400FFFF0F 0x3000 0 0x40000000 { base with copies := [moving] } :=
  ⟨⟨rfl, rfl, rfl, rfl, rfl, rfl⟩, ⟨fun o h => absurd h List.not_mem_nil, fun o h => absurd h List.not_mem_nil⟩, by decide, by decide,
    ⟨by decide, by decide, by decide, by decide⟩, by decide⟩
/-- A fault at the head of the queue, on a page that is mapped, on one that is not, and on one in a demand region. -/
def faulting (va : W64) (demand : List (Nat × Nat × W64 × Bool)) : State :=
  { faulted va.toNat with ctxs := base.ctxs.map fun x => { x with demand := demand } }
theorem witness_MigrationAndCounters_fault : FqOldest 0xA000 0xB000 (faulting 0 []) ∧ (faulting 0 []).mem.num 0xB000 8 = 0 ∧
    (faulting 0x40000000 []).mem.num 0xB000 8 = 0x40000000 ∧ (faulting 0 []).popFault.mapped 1 0 = true ∧ (faulting 0x40000000 []).popFault.mapped 1 0x40000000 = false ∧
    (∃ x, (faulting 0x40000000 []).ctx? ((faulting 0x40000000 []).mem.num 0xB008 2) = some x ∧ x.service = none ∧ x.demand = []) :=
  ⟨⟨rfl, by decide, by decide⟩, by decide, by decide, by decide +kernel, by decide +kernel, _, rfl, rfl, rfl⟩
/-- A demand page cannot be mapped where a bad leaf stands in its way. -/
def blocked : State :=
  { faulting 0x40000000 [(0x40000000, 0x40000000, 0xFFFF0F, false)] with mem := (faulted 0x40000000).mem.setNum 0x3008 8 0x4400FFFF0F }
theorem witness_MigrationAndCounters_demand : blocked.popFault.mapped 1 0x40000000 = false ∧
    blocked.popFault.mapPage 1 (0x40000000 / pteBytes 0xFFFF0F * pteBytes 0xFFFF0F) 0xFFFF0F false = none := by decide +kernel
theorem witness_MigrationAndCounters_read : selectorGood (aUni { a := .imm 0x10 } base) = true ∧
    ScratchBuffer base (bUni { b := .s 2 } (svals 0 0x8000000008000010)) 8 16 := ⟨by decide, ⟨by decide, by decide, by decide⟩⟩
theorem witness_MigrationAndCounters_clear : selectorGood (aUni { a := .s 1 } (svals 0x60 1)) = true ∧ bUni { b := .imm 0 } base = 0 ∧ base.G.svc = true ∧
    fldN (aUni { a := .s 1 } (svals 0x60 1)) 0 8 = 0x60 ∧ fldN (aUni { a := .s 1 } (svals 0x60 1)) 8 12 / 16 = base.G.core ∧ selectorGood (aUni { a := .imm (-1) } trapping) = false := by decide
/-- A patrol that weights history, with a listed row that has its turn. -/
def weighted : State := { base with history := [{ slice := 0, row := patrolRow 0 5 }], scrubWeighted := true, patrol := [(0, patrolRows)] }
theorem witness_MigrationAndCounters_row : NextRow 63 (patrolRow 63 0) base ∧ base.history = [] ∧ base.scrubWeighted = false ∧ NextRow 0 (patrolRow 0 5) weighted :=
  ⟨.inr ⟨fun h d => absurd d.1 List.not_mem_nil, rfl⟩, rfl, rfl, .inl ⟨_, ⟨List.mem_cons_self, rfl, rfl, by decide⟩, rfl⟩⟩
theorem witness_MigrationAndCounters_scrub : (base.counter 0x10 63).toNat + 1 < 2 ^ 48 ∧ base.events.length < 4096 := by decide

/-- The split at the boundary of its clause, whose header is h. -/
def boundaryAt (h : Nat) (s : State) : State :=
  { s.modG fun g => g.mapSplits fun p => { p with left := 0, pc := 0x100 } with mem := s.mem.setNum 0x100 8 h }
theorem atClause (h : Nat) (s : State) (x : Group) (hg : (boundaryAt h s).groups.find? (·.gid == 1) = some x) (hm : (boundaryAt h s).mayClause x (x.split 0) = true)
    (hc : x.badTask = false ∧ (boundaryAt h s).outsideSegment x (x.split 0).pc = false ∧ x.lateDue = none)
    (hf : ((at' 1 0 (boundaryAt h s)).fetchLoc x (x.split 0).pc).2 = .ok (.mem 0x100))
    (hp : ((at' 1 0 (boundaryAt h s)).fetchLoc x (x.split 0).pc).1.poisoned (.mem 0x100)
      (8 * (fldN (((at' 1 0 (boundaryAt h s)).fetchLoc x (x.split 0).pc).1.codeBlock x (x.split 0).pc (.mem 0x100) ((x.split 0).pc.toNat % 256)) 56 4 + 2)) = false) :
    AtClause 1 0 x (boundaryAt h s) ((at' 1 0 (boundaryAt h s)).fetchLoc x (x.split 0).pc).1
      (((at' 1 0 (boundaryAt h s)).fetchLoc x (x.split 0).pc).1.codeBlock x (x.split 0).pc (.mem 0x100)) :=
  ⟨hg, hm, hc, .mem 0x100, Prod.ext rfl hf, rfl, (fun d h => by cases h), hp⟩
/-- Good headers, without path waits and with a wait on GLB that is met, or not; its word is NOP. -/
theorem witness_ClausesAndSwaps : ∀ h ∈ [0xF000000000000000, 0xF008000000000000], ∀ n ∈ [0, 1],
    let s := boundaryAt h (base.modG fun g => if n = 1 then g.raise 9 .glb else g)
    let x := s.G
    let u := ((at' 1 0 s).fetchLoc x (x.split 0).pc).1
    s.groups.find? (·.gid == 1) = some x ∧ s.mayClause x (x.split 0) = true ∧ x.badTask = false ∧ s.outsideSegment x (x.split 0).pc = false ∧ x.lateDue = none ∧
      ((at' 1 0 s).fetchLoc x (x.split 0).pc).2 = .ok (.mem 0x100) ∧
      u.poisoned (.mem 0x100) (8 * (fldN (u.codeBlock x (x.split 0).pc (.mem 0x100) ((x.split 0).pc.toNat % 256)) 56 4 + 2)) = false ∧
      clauseBad (u.codeBlock x (x.split 0).pc (.mem 0x100)) 0 = false ∧ x.count .glb = n ∧ x.cpyFault = none ∧ x.mtxFault = none := by decide +kernel
/-- A bad header; the frame lies in a second page, of which no TLB holds the entry. -/
def warm : State :=
  boundaryAt 0xF000000000000001 { trapping.modG fun g => { g with tframe := 0x40000800 } with mem := trapping.mem.setNum 0x3008 8 0x400FFFF0F }
theorem witness_ClausesAndSwaps_warm : ((at' 1 0 warm).fetchLoc warm.G 0x100).2 = .ok (.mem 0x100) ∧ (warm.S.pc, warm.mayClause warm.G warm.S) = (0x100, true) := by decide +kernel
theorem witness_ClausesAndSwaps_bad : ((at' 1 0 warm).fetchLoc warm.G 0x100).1.canTrap = true ∧
    fldN (((at' 1 0 warm).fetchLoc warm.G 0x100).1.codeBlock warm.G 0x100 (.mem 0x100) 0) 0 28 ≠ 0 := by decide +kernel
/-- Eight active groups of core 0 at clause boundaries, and one that is ready. -/
def swapping : State :=
  { base with clk := 256, tick := 10, groups := (List.range 9).map fun i => { fetchGroup with gid := i + 1, slot := i, order := i, active := decide (i < 8), readyAt := if i < 8 then none else some 1, splits := [{ pc := 0x100 }] } }
theorem witness_ClausesAndSwaps_swap : SwapDue 0 swapping := ⟨by decide, by decide, by decide, by decide, by decide⟩

/-- A group whose split stalls, at its watchdog's limit. -/
def late : State := (trapping.modS fun p => { p with wait := .stall }).modG fun g => { g with wdog := 100, wdlim := 100 }
theorem witness_WatchdogsAndEnds_expiry : late.groups.find? (·.gid == 1) = some late.G ∧ late.G.ended = false ∧ late.G.limit ≤ late.G.wdog ∧
    (sortOn (·.idx) (late.G.splits.filter (late.waits late.G))).head? = some late.S ∧ late.S.wait = .stall ∧ late.G.split late.S.idx = late.S ∧
    (at' 1 late.S.idx late).canTrap = true ∧ late.mops = [] ∧ (late.counter 0x51 0).toNat + 1 < 2 ^ 32 ∧ base.G.wdog < base.G.limit := by decide +kernel
/-- A group that has ended, in a workgroup with so many groups left, of a grid of which so many workgroups have ended. -/
def over' (live n : Nat) : State :=
  { base.modG fun g => { g with ended := true, splits := [] } with
    wgs := [{ id := 1, grid := 7, ctx := 1, size := 0x100000, live := live }], grids := [{ grid7 {} with parent := 3, next := 2, ended := n }] }
theorem witness_WatchdogsAndEnds_end : ∀ k ∈ [1, 2], PlainEnd (over' k 0).G { id := 1, grid := 7, ctx := 1, size := 0x100000, live := k } (over' k 0) := by
  intro k h
  simp only [List.mem_cons, List.not_mem_nil, or_false] at h
  rcases h with rfl | rfl <;> exact ⟨by decide, by decide, by decide, by decide⟩
theorem witness_WatchdogsAndEnds_grid : ∀ n ∈ [0, 1], (over' 1 n).grids = [{ grid7 {} with parent := 3, next := 2, ended := n }] ∧ (grid7 {}).total = 2 ∧
    (over' 1 n).deviceLoc 1 (0x9000 + 73) = some (.mem 0x9049, 0x400FFFF0F) := by decide +kernel
theorem witness_WatchdogsAndEnds_waits : base.groups.find? (·.gid == base.G.gid) = some base.G ∧ base.G.ended = false := by decide

theorem witness_BringUp : ∀ d ∈ [DevState.boot, .test, .waitpatch, .link], ({ State.reset with dev := d } : State).dev = d ∧ State.reset.events.length < 4096 ∧
    700000000 ≤ ((700000000 : W64) - State.reset.devAt).toNat ∧ (0 : Nat) < State.reset.ports.length ∧ bitAt (1 : W64) 0 = true ∧ bitAt (2 : W64) 0 = false ∧
    bitAt (2 : W64) 1 = true := by decide

/-- The context's aperture is bound at address 0. -/
def bound : State := { base with ctxs := base.ctxs.map fun x => { x with aperture := some 0 } }
theorem witness_HostAccesses : (∃ x, bound.ctxs.find? (·.aperture.isSome) = some x ∧ x.aperture = some 0 ∧ x.id = 1) ∧ HostSize {} ∧ bound.mops = [] :=
  ⟨⟨_, rfl, rfl, rfl⟩, .inr (.inr (.inr (.inl rfl))), rfl⟩
theorem witness_HostAccesses_page : ∀ w ∈ [false, true], (match bound.translate 240 1 0x8000 (if w then .store else .load) 0 with
    | (u, .ok (.mem a) p) => a == 0x8000 && !bitAt p 4 && !u.poisoned (.mem a) 8
    | _ => false) = true := by decide +kernel
/-- Reads of 8 bytes through the windows 0, 13 and 15; the bytes that a store brings to RESET and PATCHGO; a store of 16 bytes that reaches RESET. -/
theorem witness_HostAccesses_window : ∀ w ∈ [0, 13, 15], 0x18 < 2 ^ 20 ∧ 0x18 % ({ off := 0x1000000 + 0x100000 * w + 0x18 } : HostAccess).size = 0 ∧
    ({ off := 0x1000000 + 0x100000 * w + 0x18 } : HostAccess).write = false := by decide
theorem witness_HostAccesses_reaches : reaches 0x28 1 0x28 % 2 = 1 ∧ (reaches 0x20 1 0x28 % 2 = 0 ∧ reaches 0x20 1 0x20 % 2 = 1) ∧ (reaches 0x20 2 0x28 % 2 = 0 ∧ reaches 0x20 2 0x20 % 4 = 2) ∧
    (reaches 0x40 7 0x28 % 2 = 0 ∧ reaches 0x40 7 0x20 % 4 = 0) ∧ fldN ((BitVec.ofNat 256 (2 ^ 64)).extractLsb' (8 * (0x28 - 0x20)) 64) 0 1 = 1 := by decide
theorem witness_HostAccesses_sent : ({ base with mops := [{ id := 9, owner := .host 2, elems := [{ stage := .sent 3, size := 8 }] }] } : State).mop? 9 =
    some { id := 9, owner := .host 2, elems := [{ stage := .sent 3, size := 8 }] } := by decide
theorem witness_HostAccesses_unbound : ∀ x ∈ base.ctxs, x.aperture = none := by decide
/-- READY, with one command at 0x10000 in the queue. -/
def commanded : State := { base with cmdMem := Memory.setNum (Memory.setNum resetCmdMem 24 8 1) 0x1000 8 0x10000 }
theorem witness_HostAccesses_command : commanded.dev = .ready ∧ commanded.cmd = none ∧ commanded.cmdRewritten = [] ∧ (commanded.header (.cmd 0) 8).map (fun h => (h.head, h.tail)) = some (0, 1) ∧
    (commanded.header (.cmd 0) 8).bind (fun h => (commanded.element 0 (.cmd 0) h h.head).map fun x => commanded.num x 8) = some 0x10000 := by decide +kernel
/-- A host load that is parked. -/
def hostLoad (win : Nat) (clk : W64) : State := { base with mops := [{ id := 9, owner := .host 2, elems := [{ stage := .waiting 3, win := win, size := 8 }] }], clk := clk }
theorem witness_HostAccesses_limit : ∀ w ∈ [10, 12], (hostLoad w 0).mop? 9 = some { id := 9, owner := .host 2, elems := [{ stage := .waiting 3, win := w, size := 8 }] } ∧
    700 * base.hostWait ≤ (BitVec.ofNat 64 (700 * base.hostWait)).toNat ∧ ((0 : W64) - 0).toNat < 700 * base.hostWait ∧ base.events.length < 4096 := by decide

/-- A command of a context. -/
def cmd1 (a0 a1 a2 a3 : W64) : CmdBlock := { slot := 0x10000, ctx := 1, arg0 := a0, arg1 := a1, arg2 := a2, arg3 := a3 }
/-- A device that has negotiated a version, whose context maps one page of 64 KiB at address 0. -/
def ruling : State :=
  { base with version := some 3, mem := Memory.setNum (Memory.setNum (Memory.setNum base.mem 0x3000 8 (pointerTo 0x6000)) 0x6000 8 (pointerTo 0x7000)) 0x7000 8 0xFFFF0F }
theorem witness_Runs (a0 a1 a2 a3 : W64) : Runs (cmd1 a0 a1 a2 a3) ruling := ⟨by decide, rfl⟩
theorem witness_Names (a0 a1 a2 a3 : W64) : Names (cmd1 a0 a1 a2 a3) { id := 1, root := 0x1000, feats := 0x1F } ruling := ⟨rfl, rfl⟩
theorem witness_NoneHeld : NoneHeld ruling := fun o h => absurd h List.not_mem_nil
theorem witness_NoneLost (a0 a1 a2 a3 : W64) : NoneLost (cmd1 a0 a1 a2 a3) ruling := by
  intro x h
  have : ruling.ctx? 1 = some { id := 1, root := 0x1000, feats := 0x1F } := rfl
  rw [show (cmd1 a0 a1 a2 a3).ctx.toNat = 1 from rfl, this] at h
  cases h
  rfl
theorem witness_ContextCommands_refused : blockOf (.map (cmd1 0 0 0 0)) = some (cmd1 0 0 0 0) ∧ base.version = none ∧ (cmd1 0 0 0 0).opc ≠ 1 ∧ ({ cmd1 0 0 0 0 with bad := true } : CmdBlock).bad = true := by decide
/-- NEGOTIATE of versions 1 and 2, without contexts, and of none. -/
theorem witness_ContextCommands_negotiate : bitAt (6 : W64) 2 = true ∧ (∀ w : Nat, 2 < w → w ≤ 3 → bitAt (6 : W64) w = false) ∧ State.reset.ctxs = [] ∧ base.ctxs ≠ [] ∧
    (∀ w : Nat, 1 ≤ w → w ≤ 3 → bitAt (0 : W64) w = false) := by
  refine ⟨by decide, ?_, by decide, by decide, ?_⟩
  · intro w a b
    obtain rfl : w = 3 := by omega
    rfl
  · intro w a b
    obtain rfl | rfl | rfl : w = 1 ∨ w = 2 ∨ w = 3 := by omega
    all_goals rfl
theorem witness_ContextCommands_create : bitAt (0x1F : W64) 0 = true ∧ 8 ≤ (8 : W64).toNat ∧ (0x8000 : W64).toNat % 4096 = 0 ∧ (0x8000 : W64).toNat + 4096 ≤ Config.hbmBytes ∧
    (1 : W64).toNat % 2 ^ 40 ≤ 1 ∧ (∀ y ∈ ruling.ctxs, y.aperture = none) ∧ ∃ id, ruling.freeCtx = some id := by
  refine ⟨by decide, by decide, by decide, by decide, by decide, by decide, ?_⟩
  unfold State.freeCtx
  simp only
  split
  · exact ⟨2, by decide⟩
  · exact ⟨_, rfl⟩
theorem witness_ContextCommands_destroy : (∃ g ∈ ruling.groups, g.ctx = 1) ∧ ({ ruling with groups := [] } : State).residents 1 = false ∧ ruling.grids = [] ∧ ruling.launches = [] :=
  ⟨⟨ruling.G, by decide, by decide⟩, by decide, by decide, by decide⟩
theorem witness_ContextCommands_map : mapGood (cmd1 0x10000 0x20000 0xFFFF0F 1) = true ∧ mapGood (cmd1 0x10000 0x20000 0xFFFF0F 2) = true ∧ pteTier 0xFFFF0F ≤ 1 ∧
    bitAt (0xFFFF0F : W64) 4 = false ∧ (0x20000 : W64).toNat = 2 * pteBytes 0xFFFF0F := by decide
/-- An access that has used the page is not yet performed. -/
def using' : State := { ruling with mops := [{ id := 9, owner := .group 1 0, ctx := 1, elems := [{ va := 0x100 }] }] }
theorem witness_ContextCommands_unmap : ruling.rangeGood (cmd1 0 0x10000 0 0) = true ∧ ruling.leavesIn 1 0 0x10000 = [(0, 0xFFFF0F, 0x7000)] ∧
    ruling.unsettled (.page 1 0 (pteBytes 0xFFFF0F)) = false ∧ using'.rangeGood (cmd1 0 0x10000 0 0) = true ∧
    (∃ l ∈ using'.leavesIn 1 0 0x10000, using'.unsettled (.page 1 l.1 (pteBytes l.2.1)) = true) ∧ ruling.engineUnsettled (.page 1 0 (pteBytes 0xFFFF0F)) = false := by decide +kernel
theorem witness_ContextCommands_migrate : (0x10000000000000 : W64) &&& ~~~(0xFFFFFFC0000000C0 : W64) = 0 ∧ ruling.walk 1 0 = .leaf 0xFFFF0F 0x7000 ∧
    leafGood (fldN (0x10000000FFFF0F : W64) 33 2) 0x10000000FFFF0F = true ∧
    (0xFFFF0F &&& ~~~(0xFFFFFFC0000000E0 : W64)) ||| ((0x10000000000000 : W64) &&& 0xFFFFFFC0000000C0) = 0x10000000FFFF0F ∧
    fldN (0x10000000000000 : W64) 38 26 + (0x10000 : W64).toNat / 0x10000 ≤ 2 ^ 26 ∧ (ruling.takeFrames [0x10000000FFFF0F]).isSome = true := by decide +kernel

theorem witness_LaunchAndPreempt_launch : ∀ d ∈ [desc1, 0], ({ ruling with mem := ruling.mem.setNum 0x9000 128 d } : State).deviceRead 1 0x9000 128 = some d := by decide +kernel
theorem witness_LaunchAndPreempt_status : ruling.descStatus 1 { descOf desc1 with coop := false } = none ∧ ruling.descStatus 1 { descOf desc1 with coop := true } = none ∧
    ruling.descStatus 1 { descOf 0 with coop := true } = some 4 ∧ ruling.deviceRead 1 0x10000 128 = none ∧
    64 ≤ (((List.range 64).map fun _ => ({ ctx := 1 } : Launch)).filter fun l => l.ctx == 1 && l.prio == (descOf desc1).prio).length := by decide +kernel
theorem witness_LaunchAndPreempt_preempt : (∀ y ∈ ruling.ctxs, y.deadline = none) ∧ (ruling.ctxs.map (·.id)).Nodup ∧ ruling.residents 1 = true ∧
    ({ ruling with groups := [] } : State).residents 1 = false ∧ 0x10000 ≤ (cmd1 0 0 0 0).slot ∧ (cmd1 0 0 0 0).slot % 64 = 0 := by decide
/-- A context under PREEMPT, before and after its deadline. -/
def preempted (clk : W64) : State := { ruling with ctxs := ruling.ctxs.map fun x => { x with preempt := true, deadline := some (50, (0x10000, 0, false)) }, clk := clk }
theorem witness_LaunchAndPreempt_deadline : ((preempted 49).ctx? 1).map (·.deadline) = some (some (50, (0x10000, 0, false))) ∧ (preempted 49).clk.toNat < (50 : W64).toNat ∧
    (50 : W64).toNat ≤ (preempted 50).clk.toNat ∧ NoCommands 1 (preempted 50) := by unfold NoCommands; decide

theorem witness_SettingCommands_query : ruling.patched = false ∧ ruling.dev = .ready ∧ ({ ruling with peer := some 3 } : State).peer = some 3 ∧ (3 : Nat) ≠ (4 : W64).toNat ∧
    (4 : W64).toNat ≤ 511 ∧ (ruling.ctx? 1).isSome = true ∧ bitAt (0xFFFF0F : W64) 2 = true ∧ bitAt (0xFFFF0F : W64) 8 = true := by decide
theorem num_same (m k : Memory) (a : Nat) (h : ∀ x, a ≤ x → x < a + 8 → m.read x = k.read x) : m.num a 8 = k.num a 8 := by
  have e : m.readN a 8 = k.readN a 8 := by
    unfold Memory.readN
    exact List.map_congr_left fun i hi => h _ (Nat.le_add_right _ _) (by have := List.mem_range.mp hi; omega)
  unfold Memory.num
  rw [e]
/-- The tables of the page lie apart from what the query writes at 0x8000. -/
theorem witness_SettingCommands_queues (m : Memory) (h : ∀ x, (x < 0x8000 ∨ 0x8000 + 768 ≤ x) → m.read x = ruling.mem.read x) (k : Nat) (hk : k < 96) :
    State.deviceLoc { ruling with mem := m } 1 (0x8000 + BitVec.ofNat 64 (8 * k)) = some (.mem (0x8000 + 8 * k), 0xFFFF0F) := by
  have hv : ((0x8000 : W64) + BitVec.ofNat 64 (8 * k)).toNat = 0x8000 + 8 * k := by
    rw [BitVec.toNat_add, BitVec.toNat_ofNat]; show (0x8000 + 8 * k % 2 ^ 64) % 2 ^ 64 = _; omega
  have n (a : Nat) (ha : a + 8 ≤ 0x8000) : m.num a 8 = ruling.mem.num a 8 := num_same _ _ _ fun x _ hx => h x (.inl (by omega))
  have hw : walkFrom m (BitVec.ofNat 64 (0x8000 + 8 * k)) walkLevels 0x1000 = .leaf 0xFFFF0F 0x7000 := by
    have hv' : (BitVec.ofNat 64 (0x8000 + 8 * k)).toNat = 0x8000 + 8 * k := by rw [BitVec.toNat_ofNat]; omega
    have i4 : (0x8000 + 8 * k) / 2 ^ 48 % 2 ^ 8 = 0 := by omega
    have i3 : (0x8000 + 8 * k) / 2 ^ 39 % 2 ^ 9 = 0 := by omega
    have i2 : (0x8000 + 8 * k) / 2 ^ 30 % 2 ^ 9 = 0 := by omega
    have i1 : (0x8000 + 8 * k) / 2 ^ 21 % 2 ^ 9 = 0 := by omega
    have i0 : (0x8000 + 8 * k) / 2 ^ 16 % 2 ^ 5 = 0 := by omega
    have v4 : BitVec.ofNat 64 (m.num 0x1000 8) = (BitVec.ofNat 64 (pointerTo 0x2000) : W64) := by rw [n _ (by decide)]; decide +kernel
    have v3 : BitVec.ofNat 64 (m.num 0x2000 8) = (BitVec.ofNat 64 (pointerTo 0x3000) : W64) := by rw [n _ (by decide)]; decide +kernel
    have v2 : BitVec.ofNat 64 (m.num 0x3000 8) = (BitVec.ofNat 64 (pointerTo 0x6000) : W64) := by rw [n _ (by decide)]; decide +kernel
    have v1 : BitVec.ofNat 64 (m.num 0x6000 8) = (BitVec.ofNat 64 (pointerTo 0x7000) : W64) := by rw [n _ (by decide)]; decide +kernel
    have v0 : BitVec.ofNat 64 (m.num 0x7000 8) = (0xFFFF0F : W64) := by rw [n _ (by decide)]; decide +kernel
    have f (a : Nat) (ha : a ∈ [0x2000, 0x3000, 0x6000, 0x7000]) : fldN (BitVec.ofNat 64 (pointerTo a) : W64) 38 26 * 0x10000 + fldN (BitVec.ofNat 64 (pointerTo a) : W64) 8 4 * 0x1000 = a ∧
        bitAt (BitVec.ofNat 64 (pointerTo a) : W64) 0 = true ∧ fldN (BitVec.ofNat 64 (pointerTo a) : W64) 33 2 = 0 ∧
        (BitVec.ofNat 64 (pointerTo a) : W64) &&& ~~~(0xFFFFFFC000000F01 : W64) = 0 ∧ a < Config.hbmBytes := by
      simp only [List.mem_cons, List.not_mem_nil, or_false] at ha
      rcases ha with rfl | rfl | rfl | rfl <;> decide
    obtain ⟨a2, b2, c2, d2, e2⟩ := f 0x2000 (by decide)
    obtain ⟨a3, b3, c3, d3, e3⟩ := f 0x3000 (by decide)
    obtain ⟨a6, b6, c6, d6, e6⟩ := f 0x6000 (by decide)
    obtain ⟨a7, b7, c7, d7, e7⟩ := f 0x7000 (by decide)
    have g : leafGood 0 0xFFFF0F = true ∧ bitAt (0xFFFF0F : W64) 0 = true := by decide
    simp only [walkLevels, walkFrom, hv', i4, i3, i2, i1, i0, Nat.mul_zero, Nat.add_zero, v4, v3, v2, v1, v0, a2, b2, c2, d2, e2, a3, b3, c3, d3, e3, a6, b6, c6, d6, e6,
      a7, b7, c7, d7, e7, g.1, g.2, Bool.not_true, Bool.false_eq_true, if_false, if_true, ne_eq, not_true_eq_false, and_false, or_false, reduceCtorEq, true_or, Nat.reduceLeDiff, true_and]
  have ht : (0x8000 + 8 * k) % 2 ^ 56 = 0x8000 + 8 * k := by omega
  have hl : leafLoc 0xFFFF0F (0x8000 + 8 * k) = .mem (0x8000 + 8 * k) := by
    have z : (0x8000 + 8 * k) % 0x10000 = 0x8000 + 8 * k := by omega
    show Loc.mem (0 * 0x10000 + (0x8000 + 8 * k) % 0x10000) = _
    rw [z, Nat.zero_mul, Nat.zero_add]
  unfold State.deviceLoc
  rw [hv, if_neg (by omega), ht]
  unfold State.walk
  show (match walkFrom m (BitVec.ofNat 64 (0x8000 + 8 * k)) walkLevels 0x1000 with | .leaf p _ => _ | _ => none) = _
  rw [hw]
  show (if pteTier 0xFFFF0F = 3 then none else _) = _
  rw [if_neg (by decide), hl]
/-- The page of the query's buffer lies in host memory. -/
def hosted : State := { ruling with mem := base.mem.setNum 0x3000 8 0x400FFFFCF }
theorem witness_SettingCommands_host : ∀ k < 96, (match hosted.walk 1 (0x8000 + BitVec.ofNat 64 (8 * k)) with
    | .leaf p _ => pteTier p == 3 && bitAt p 2 && bitAt p 8
    | _ => false) = true := by decide +kernel
theorem witness_SettingCommands_device : ∀ c ∈ [cmd1 0 3 0 0, cmd1 1 0 0xFF 0, cmd1 1 0 191 0, cmd1 5 1000 0 0, cmd1 6 60 0 0, cmd1 7 0 0 0, cmd1 8 0 0x200000 0],
    Runs { c with ctx := 0 } { ruling with peer := some 3 } ∧ ({ c with ctx := 0 } : CmdBlock).ctx = 0 ∧ ({ ruling with peer := some 3 } : State).ctx? 0 = none := by
  intro c h
  simp only [List.mem_cons, List.not_mem_nil, or_false] at h
  rcases h with rfl | rfl | rfl | rfl | rfl | rfl | rfl <;> exact ⟨⟨by decide, rfl⟩, rfl, rfl⟩
theorem witness_SettingCommands_context : (2 : W64).toNat < 2 ^ 40 ∧ (4 : W64) = 4 ∧ (50 + 2 ^ 8 * 21 : W64).toNat = 50 + 2 ^ 8 * 21 ∧ (2 ^ 16 : W64).toNat = 2 ^ 16 ∧ 1 ≤ (1 : W64).toNat := by decide
theorem witness_SettingCommands_attach : ({ ruling with mem := ruling.mem.setNum 0x9000 128 (desc1 + 2 ^ 251) } : State).deviceRead 1 0x9000 128 = some (desc1 + 2 ^ 251) ∧
    (descOf (desc1 + 2 ^ 251)).svc = true ∧ (descOf desc1).svc = false := by decide +kernel
theorem witness_SettingCommands_lock : ∀ l ∈ [LockState.unlocked, .locked, .run, .error], ({ ruling with ports := [{ lock := l, spdm := .session, version := 2 }] } : State).port 0 =
    { lock := l, spdm := .session, version := 2 } := by decide

/-- A device with one port. -/
def porting (p : Port) : State := { base with ports := [p] }
theorem witness_Links_spdm : (∀ i ∈ [Instr.negotiateAlgorithms 0 true, .negotiateAlgorithms 0 false, .getDigests 0, .getCertificate 0, .challenge 0, .keyExchange 0],
    ∃ b a, spdmOf i = some (0, b, a) ∧ ∃ d ∈ b, (porting { spdm := d }).port 0 = { spdm := d }) ∧ (porting {}).ports.length = 1 := by
  refine ⟨?_, rfl⟩
  intro i h
  simp only [List.mem_cons, List.not_mem_nil, or_false] at h
  rcases h with rfl | rfl | rfl | rfl | rfl | rfl <;> exact ⟨_, _, rfl, _, List.mem_cons_self, rfl⟩
theorem witness_Links_states : ∀ l ∈ [LockState.unlocked, .locked, .run, .error], ∀ d ∈ [Spdm.idle, .version, .exchanged, .session], ∀ k ∈ [0, 1],
    ((porting { lock := l, spdm := d, tagFails := k, iv := 0x100000000 }).port 0).lock = l ∧ ((porting { lock := l, spdm := d, tagFails := k, iv := 0x100000000 }).port 0).spdm = d ∧
    ((porting { lock := l, spdm := d, tagFails := k, iv := 0x100000000 }).port 0).tagFails = k ∧ 2 ^ 32 ≤ ((0x100000000 : BitVec 96)).toNat := by decide
/-- A port in whose frame stands one encrypted payload; a flit of a number and a payload; the payload of the tag flit that ends the frame. -/
def framed (w : BitVec 256) (fails : Nat) : Port := { up := true, lock := .run, rxSeq := 1, frame := [w ^^^ Config.keystream 0 0 0], tagFails := fails }
def flitOf (w : BitVec 256) (tag : Bool) : Flit := { sq := 1, payload := w, crc := crc32c (bytesOf 32 w ++ [1]), tag := tag }
def tagWord (p : Port) : BitVec 256 := BitVec.ofNat 256 ((Config.tagOf p.rxKey p.rxIv p.frame).toNat + p.frame.length * 2 ^ 128)
/-- A flit that is expected, one that is not; a tag flit that ends its frame, and one that does not. -/
theorem witness_Links_flits (w : BitVec 256) (k : Nat) : Expected 0 (flitOf w false) (porting (framed w k)) ∧ ¬ Expected 0 { sq := 4 } (porting (framed w k)) ∧
    Expected 0 (flitOf (tagWord (framed w k)) true) (porting (framed w k)) ∧ EndsFrame (framed w k) (flitOf (tagWord (framed w k)) true) ∧
    Expected 0 (flitOf (tagWord (framed w k) + 1) true) (porting (framed w k)) ∧ ¬ EndsFrame (framed w k) (flitOf (tagWord (framed w k) + 1) true) :=
  ⟨⟨rfl, rfl, rfl⟩, fun h => absurd h.next (by decide : (4 : Byte) ≠ 1), ⟨rfl, rfl, rfl⟩, rfl, ⟨rfl, rfl, rfl⟩, fun h => by
    have e : tagWord (framed w k) + 1 = tagWord (framed w k) := h
    have z := congrArg (· - tagWord (framed w k)) e
    simp [BitVec.add_comm, BitVec.add_sub_cancel] at z⟩
/-- The payload as it was; a header that is a whole packet, and one that is not. -/
theorem witness_Links_plain (w : BitVec 256) (k : Nat) : plainOf (framed w k) = [w] ∧ (framed w k).accepted = [] := by
  refine ⟨?_, rfl⟩
  show [(w ^^^ Config.keystream 0 0 0) ^^^ Config.keystream 0 0 0] = [w]
  rw [BitVec.xor_assoc, BitVec.xor_self, BitVec.xor_zero]
theorem witness_Links_packets : ((parsePacket 0 [0x21]).map (·.2)) = some [] ∧ (parsePacket 0 []).isNone = true ∧ (parsePacket 0 [0x41]).isNone = true := by decide
theorem witness_Links_runs : RunsOn { width := 1, lane := 1, lane0 := true, lane1 := true } := ⟨rfl, .inr rfl, rfl⟩
theorem witness_Links_replay : ((porting { replay := [{ sq := 4 }, { sq := 5 }, { sq := 6 }] }).port 0).replay = [{ sq := 4 }] ++ { sq := 5 } :: [{ sq := 6 }] ∧
    (∀ x ∈ [({ sq := 4 } : Flit)], x.sq ≠ ({ sq := 5 } : Flit).sq) ∧ ((porting { replay := [{ sq := 4 }] }).port 0).outq = [] := by decide
theorem witness_Links_lanes : ((porting { lane0 := true, lane1 := true }).port 0).width = 2 ∧ ((porting { lane0 := true }).port 0).lane1 = false ∧
    70000000 ≤ ((70000000 : W64) - 0).toNat ∧ ((7 : W64) - 0).toNat < 70000000 ∧ 7000 ≤ ((7000 : W64) - 0).toNat ∧ ({ porting {} with point := .bal } : State).point = .bal ∧
    base.point ≠ .bal ∧ base.sent = [] := by decide

/-- A request of a peer for a word at offset 8 of the line at 0x8000, whose bytes are exported. -/
def asking (t : BitVec 6) : Packet := { type := t, src := 5, ctx := 1, sz := 2, line := 0x100, be := enables 8 4, data := List.replicate 128 1 }
def exporting : State := { base with ctxs := base.ctxs.map fun x => { x with exports := [(0x8000, 0x80)] } }
theorem witness_Packets_asked : ∀ t ∈ [1, 2, 3, 0x10, 0x19, 0x1C], OneAsked (asking t) 8 exporting ∧ exporting.exported (asking t).ctx.toNat (128 * (asking t).line.toNat + 8) (2 ^ (asking t).sz.toNat) = true ∧
    (asking t).win.toNat ≤ 1 ∧ exporting.poisoned (.mem (128 * (asking t).line.toNat + 8)) (2 ^ (asking t).sz.toNat) = false := by
  intro t h
  simp only [List.mem_cons, List.not_mem_nil, or_false] at h
  rcases h with rfl | rfl | rfl | rfl | rfl | rfl <;> exact ⟨⟨by decide, ⟨rfl, by decide, rfl, rfl⟩, by decide, by decide⟩, by decide, by decide, by decide⟩
theorem witness_Packets_windows : ∀ a ∈ [0, 2, 3, 4, 5, 6, 7, 8], (atomicWindow a).isSome = true ∧ ((asking (BitVec.ofNat 6 (0x10 + a))).type.toNat = 0x10 + a) := by decide
theorem witness_Packets_stranger : OneAsked { asking 1 with ctx := 2 } 8 base ∧ base.ctx? ({ asking 1 with ctx := 2 } : Packet).ctx.toNat = none :=
  ⟨⟨by decide, ⟨rfl, by decide, rfl, rfl⟩, by decide, by decide⟩, by decide⟩
theorem witness_Packets_multicast : (match exporting.translate 240 1 (BitVec.ofNat 64 (0x8008 + 13 * 2 ^ 56)) .store 13 with
    | (_, .ok (.mem a) pte) => a == 0x8008 && !bitAt pte 4 && decide (pteTier pte ≤ 1)
    | _ => false) = true := by decide +kernel
/-- An access to the peer 5 whose packet is unanswered, and one that waits for the peer. -/
def remoteOp (k : AccKind) (st : Stage) : MemOp :=
  { id := 9, owner := .group 1 0, kind := k, ctx := 1, elems := [{ loc := .peer 5 0x8008, va := 0x8008, stage := st }] }
def remote (k : AccKind) (st : Stage) (sent : List Packet) (clk : W64) : State := { base with mops := [remoteOp k st], sent := sent, clk := clk }
theorem witness_Packets_answer : ∀ k ∈ [AccKind.load, .store], InPacket (remoteOp k (.sent 0)) ((remoteOp k (.sent 0)).elems.headD {}) (asking 1) (remote k (.sent 0) [asking 1] 0) ∧
    ((remote k (.sent 0) [asking 1] 0).group? 1).isSome = true ∧ bitAt ((remote k (.sent 0) [asking 1] 0).grp 1).rflt 0 = false := by
  intro k h
  simp only [List.mem_cons, List.not_mem_nil, or_false] at h
  rcases h with rfl | rfl <;> exact ⟨⟨⟨rfl, rfl⟩, ⟨rfl, rfl, rfl, rfl, rfl, by decide⟩, ⟨rfl, rfl, rfl, rfl⟩, ⟨1, 0, rfl⟩, rfl⟩, by decide, by decide⟩
theorem noFetchWaits : NoFetchWaits base := by
  intro g hg p hp d c h
  have w : ∀ g ∈ base.groups, ∀ p ∈ g.splits, p.wait = .none := by decide
  rw [w g hg p hp] at h
  cases h
theorem witness_Packets_waits : Waits (remoteOp .load .remoteWait) ((remoteOp .load .remoteWait).elems.headD {}) 5 1 (remote .load .remoteWait [] 0) ∧ base.tokOps = [] ∧
    ((0 : W64) - 0).toNat < 700000000 * base.recovery ∧ 700000000 * base.recovery ≤ ((BitVec.ofNat 64 (700000000 * base.recovery) : W64) - 0).toNat ∧ base.events.length < 4096 :=
  ⟨⟨⟨rfl, rfl, rfl, rfl, by decide, by decide, rfl⟩, ⟨fun c h => absurd h List.not_mem_nil, noFetchWaits⟩, ⟨_, rfl⟩, ⟨_, rfl⟩, by decide, by decide⟩, by decide, by decide, by decide, by decide⟩

/-- No poison mark stands in the way of a Lathe operation, a ring or a load of a bank. -/
theorem witness_unmarked : base.unmarked = true ∧ multiplying.unmarked = true ∧ draining.unmarked = true ∧ (ringing ring0 []).unmarked = true ∧
    ({ base with lathe := [mmaOp true] } : State).unmarked = true ∧ (mmaOp true).spoiled = false ∧ ring0.rewritten = [] ∧ base.poisoned (.spm 0 0) 4096 = false ∧ base.rings = [] := by decide
theorem witness_Packets_refused : ∀ d ∈ [PeerState.recovering, .fenced], ({ base with domain := d } : State).domain = d := by decide
theorem witness_Packets_pstate : base.mops = [] ∧ base.sent = [] ∧ base.tokOps = [] ∧ base.copies = [] ∧ ({ base with peer := some 5 } : State).peer = some 5 ∧ base.peer ≠ some 5 := by decide
/-- A context is made where frames are free, and none where all are taken. -/
theorem witness_ContextCommands_context : ({ ruling with mem := [], ctxs := [] } : State).newContext { id := 2, root := 0x8000, feats := 0x1F, logq := 8 } ≠ none ∧
    ({ ruling with frames := [(0, 2 ^ 26)] } : State).newContext { id := 2, root := 0x8000, feats := 0x1F, logq := 8 } = none := by decide +kernel

/-- The forms of every clause at hand: a branch by all lanes and by none, a barrier alone, waits, blocks, traps, a rendezvous that is late. -/
theorem witness_RegisterFormsComplete : base.issuing = true ∧ base.signed = true ∧ (fldN ({ md := 0x1B } : VForm).md 0 8 = 0x1B ∧ bitAt (base.srd 0x1B) 0 = false) ∧
    transferOf (.bra { off := 7 }) base = some (0, base.S.mask, base.S.pc + 56) ∧ transferOf (.bra { pn := true, off := 7 }) base = some (0, 0, base.S.pc + 56) ∧
    base.outsideSegment base.G (base.S.pc + 56) = false ∧ base.G.stack.length < 32 ∧ Alone base ∧ base.G.cpyFault = none ∧ base.G.mtxFault = none ∧ bitAt base.G.rflt 0 = false ∧
    base.G.count (pathOf 3) ≤ (aUni { a := .imm 0 } base).toNat ∧ trapping.issuing = true ∧ trapping.signed = true ∧ trapping.canTrap = true := by unfold Alone; decide
theorem witness_RegisterFormsComplete_late : ({ trapping.modS fun p => { p with wait := .xshuf 1 0 5, ir := vWord 0x69 { d := 4, a := .v 2, b := .s 22 } } with clk := 65541 } : State).canTrap = true ∧
    decode (({ trapping.modS fun p => { p with wait := .xshuf 1 0 5, ir := vWord 0x69 { d := 4, a := .v 2, b := .s 22 } } with clk := 65541 } : State).S.ir) =
      .ok (.xshuf { d := 4, a := .v 2, b := .s 22 }) := ⟨by decide, rfl⟩
theorem witness_EngineFormsComplete : base.issuing = true ∧ base.signed = true ∧ selM { scope := 5, ord := 3 } base ≠ 0 ∧ base.S.acqs = [] ∧ base.tokOps = [] ∧ Released 5 base ∧
    (∀ p ∈ [Path.scr, .glb, .rmt, .cpy, .mtx, .qry], base.G.count p < 63) ∧ base.G.quiet (scopePaths 5) = true ∧ base.mops = [] ∧ LatheOpen base ∧ base.lathe = [] ∧ base.rings = [] ∧
    base.G.teamIdx = 0 ∧ clearRefused base.G (aUni { a := .imm 0x10 } base) (bUni { b := .imm 0 } base) = false := by unfold Released LatheOpen; decide

/-- A load of a bank of activation tables, at the head of its queue; a reduction whose contribution's words can be read. -/
def bankLoad : LatheOp := { id := 9, kind := .atload, gid := 1, wg := 1, ctx := 1, n1 := 0, n2 := 0x1000 }
theorem witness_EngineFormsComplete_events : ({ base with lathe := [bankLoad] } : State).latheOp? 9 = some bankLoad ∧ ({ base with lathe := [bankLoad] } : State).bankQueue 0 9 = [] ∧
    ({ base with lathe := [bankLoad] } : State).bankBusy 0 (1 - ({ base with lathe := [bankLoad] } : State).activeBank 0) = false ∧
    ({ base with lathe := [bankLoad] } : State).poisoned (.spm 0 0x1000) 4096 = false ∧
    ({ base with lathe := [mmaOp false] } : State).latheOp? (mmaOp false).id = some (mmaOp false) ∧ ({ base with lathe := [mmaOp false] } : State).mayStart (mmaOp false) = true ∧
    (∀ k ∈ [LatheKind.accld, .accst, .accz], ({ base with lathe := [{ id := 9, kind := k, gid := 1, wg := 1, ctx := 1, n1 := 8, n2 := 8, mask := 3 }] } : State).unmarked = true) ∧
    contributing.copy? 9 = some { copyTwo with kind := .nred, a := 5 } ∧ 9 < contributing.nextId ∧ (contributing.grp 1).shadow = false := by decide +kernel
theorem witness_EngineFormsComplete_nred : (match contributing.engineReads { copyTwo with kind := .nred, a := 5 } ((List.range 1).map fun i => (copyTwo.b + BitVec.ofNat 64 (4 * i), 4)) with
    | (_, .ok xs) => xs.all fun x => !x.2
    | _ => false) = true := by decide +kernel
theorem witness_EngineFormsComplete_passing : base.passing (.group base.cur.1 base.cur.2) = false ∧ (∀ o ∈ base.mops, base.buffered o = false) ∧ (drifting 0).G.restarting = false ∧
    (drifting 0).G.shadow = false ∧ NoneHeld base := ⟨rfl, fun o h => absurd h List.not_mem_nil, rfl, rfl, fun o h => absurd h List.not_mem_nil⟩
theorem witness_DecodeEncode : (Instr.nop {}).wf = true ∧ encode (.nop {}) = some 0 ∧ (Instr.mma { d := 0x14, a := .v 32, b := .s 21, c := .s 22 }).wf = true ∧
    encode (.mma { d := 0x14, a := .v 32, b := .s 21, c := .s 22 }) = some 0xC014001022A8B000 := ⟨rfl, rfl, rfl, rfl⟩
/-- A group at a word; its trap frame lies in a second page. -/
def wordAt (w : Nat) (nblk : Nat) : State :=
  { trapping.modG fun g => { g with nblk := nblk, tframe := 0x40000800 } with mem := Memory.setNum (trapping.mem.setNum 0x3008 8 0x400FFFF0F) 0x108 8 w }
/-- The state after its fetch. -/
def fetched (w nblk : Nat) : State := ((wordAt w nblk).fetchLoc (wordAt w nblk).G (wordAt w nblk).S.pc).1
theorem fetches_of (s : State) (l : Loc) (hp : s.power = true) (h : s.sources = [.word]) (hi : s.outsideSegment s.G s.S.pc = false)
    (hf : (s.fetchLoc s.G s.S.pc).2 = .ok l) : Fetches s (s.fetchLoc s.G s.S.pc).1 l :=
  ⟨hp, by unfold State.next; rw [h], hi, Prod.ext rfl hf⟩
/-- A NOP, a word that decodes to nothing, and an instruction on v16 in a group of one block. -/
theorem witness_StepRunsDecoded : Fetches (wordAt 0 16) (fetched 0 16) (.mem 0x108) ∧ Fetches (wordAt 0xFE00000000000000 16) (fetched 0xFE00000000000000 16) (.mem 0x108) ∧
    Fetches (wordAt 0x3204000100400000 0) (fetched 0x3204000100400000 0) (.mem 0x108) := by
  refine ⟨?_, ?_, ?_⟩ <;> exact fetches_of _ _ rfl (by decide +kernel) (by decide +kernel) (by decide +kernel)
theorem witness_StepRunsDecoded_words : decode 0 = .ok (.nop {}) ∧ unowned 16 (regsOf (.nop {})) = none ∧ (∃ e, decode 0xFE00000000000000 = .error e) ∧
    decode 0x3204000100400000 = .ok (.fmul { d := 4, a := .v 2, b := .v 2 }) ∧ (unowned 0 (regsOf (.fmul { d := 4, a := .v 2, b := .v 2 }))).isSome = true ∧
    (fetched 0 16).istore = [] := ⟨rfl, by decide, ⟨_, rfl⟩, rfl, by decide, by decide +kernel⟩
/-- The split has passed a load; the NOP at its pc waits, a load may run. -/
def passed' : State := { wordAt 0 16 with mops := [{ id := 9, owner := .group 1 0, passing := true }] }
theorem witness_StepRunsDecoded_passing : passed'.passing (.group passed'.cur.1 passed'.cur.2) = true ∧ mayFollow (.nop {}) = false ∧ mayFollow (.ld {}) = true ∧
    (wordAt 0 16).passing (.group 1 0) = false := by decide
theorem witness_StepRunsDecoded_passed : Fetches passed' (passed'.fetchLoc passed'.G passed'.S.pc).1 (.mem 0x108) :=
  fetches_of _ _ rfl (by decide +kernel) (by decide +kernel) (by decide +kernel)
theorem witness_StepRunsDecoded_traps : (issued 0xFE00000000000000 (fetched 0xFE00000000000000 16)).canTrap = true ∧
    (issued 0x3204000100400000 (fetched 0x3204000100400000 0)).canTrap = true := by decide +kernel
/-- A drifting group that stands outside its segment. -/
def strayed : State :=
  { trapping.modG fun g => { g with drift := true, grid := 7 } with
    grids := [{ id := 7, ctx := 1, segs := [{ base := 0x40000, len := 256, reps := [0] }] }], segid := [(0, (1, 7))] }
theorem witness_StepRunsDecoded_outside : strayed.power = true ∧ strayed.next = some .word ∧ strayed.outsideSegment strayed.G strayed.S.pc = true ∧ strayed.canTrap = true := by
  refine ⟨by decide +kernel, ?_, by decide +kernel, by decide +kernel⟩
  have h : strayed.sources = [.word] := by decide +kernel
  unfold State.next
  rw [h]
theorem witness_StepRunsDecoded_sources : base.power = true ∧ base.inputs = [] ∧ base.arrived = [] ∧ base.cmd = none ∧ base.events = [] ∧ base.moves = [] ∧ base.G.issues base.S = true ∧
    ({ base with power := false } : State).power = false := by decide +kernel
/-- A sound state whose step answers a next state. -/
theorem witness_StepKeepsMemory : Sound (State.reset.withFetchWord 64 0) ∧ ∃ t, step (State.reset.withFetchWord 64 0) = .next t :=
  ⟨by unfold Sound; decide, _, rfl⟩
end Sys2Proof.Tests
end

section
namespace Sys2Proof.Machine
open Sys2Proof Sys2Proof.Claims

/-! ### Forms of completion -/

/-- A format I vector meaning completes with its lane function (R59, R114). -/
theorem imm32_completes {i : Instr} {f : IForm} {g : State → Nat → W32} {P : State → Nat → W32 → Prop}
    (he : ∀ s, exec i s = imm32 f s (g s)) (hp : ∀ s l, P s l (g s l)) : CompletesImm i f P := by
  intro s hi hs
  obtain ⟨hw, hf⟩ := State.write32_retire hi hs f.d f.w f.bl (s.sel f.p false) (g s)
  exact ⟨_, he s, hw.imp fun l x _ _ hx => hx ▸ hp s l, hf⟩

/-! ### Saturation and wrapping (R112) -/

theorem toNat_ofInt_eq_emod (n : Nat) (x : Int) : ((BitVec.ofInt n x).toNat : Int) = x % 2 ^ n := by
  rw [BitVec.toNat_ofInt, Int.toNat_of_nonneg (Int.emod_nonneg _ (by positivity))]
  norm_cast

theorem toInt_ofInt_of_range {n : Nat} (hn : 0 < n) {x : Int} (h1 : -2 ^ (n - 1) ≤ x) (h2 : x < 2 ^ (n - 1)) :
    (BitVec.ofInt n x).toInt = x :=
  BitVec.toInt_ofInt_eq_self hn h1 h2

/-- Saturation gives the exact value cut to the signed range. -/
theorem toInt_satS {n : Nat} (hn : 0 < n) (x : Int) : (satS n x).toInt = clamp n x := by
  have hpos : (0 : Int) < 2 ^ (n - 1) := by positivity
  unfold satS clamp
  split
  · rw [toInt_ofInt_of_range hn] <;> omega
  · split <;> rw [toInt_ofInt_of_range hn] <;> omega

/-- A result that wraps is the exact value modulo the width; one that saturates is its cut to the signed range. -/
theorem satRule_satOr {n : Nat} (hn : 0 < n) (sat : Bool) {exact : Int} {wrapped : BitVec n} (h : wrapped = BitVec.ofInt n exact) :
    satRule sat exact (satOr sat exact wrapped) := by
  cases sat with
  | true => exact toInt_satS hn exact
  | false => exact h ▸ toNat_ofInt_eq_emod n exact

theorem add_eq_ofInt {n : Nat} (a b : BitVec n) : a + b = BitVec.ofInt n (a.toInt + b.toInt) := by
  rw [BitVec.ofInt_add, BitVec.ofInt_toInt, BitVec.ofInt_toInt]

theorem mul_eq_ofInt {n : Nat} (a b : BitVec n) : a * b = BitVec.ofInt n (a.toInt * b.toInt) := by
  rw [BitVec.ofInt_mul, BitVec.ofInt_toInt, BitVec.ofInt_toInt]

theorem sub_eq_ofInt {n : Nat} (a b : BitVec n) : a - b = BitVec.ofInt n (a.toInt - b.toInt) := by
  rw [Int.sub_eq_add_neg, BitVec.ofInt_add, BitVec.ofInt_neg, BitVec.ofInt_toInt, BitVec.ofInt_toInt, BitVec.sub_eq_add_neg]

theorem mul_add_eq_ofInt {n : Nat} (a b c : BitVec n) : a * b + c = BitVec.ofInt n (a.toInt * b.toInt + c.toInt) := by
  rw [BitVec.ofInt_add, ← mul_eq_ofInt, BitVec.ofInt_toInt]

/-! ### The other results of R112 and R113 -/

theorem mulHigh_signed (a b : W32) : (mulHigh true a b).toInt = a.toInt * b.toInt / 2 ^ 32 := by
  have ha := a.le_toInt; have ha' := a.toInt_lt
  have hb := b.le_toInt; have hb' := b.toInt_lt
  have hab : |a.toInt * b.toInt| ≤ 2 ^ 31 * 2 ^ 31 := by
    rw [abs_mul]
    exact mul_le_mul (abs_le.2 ⟨ha, by omega⟩) (abs_le.2 ⟨hb, by omega⟩) (abs_nonneg _) (by positivity)
  obtain ⟨h1, h2⟩ := abs_le.1 hab
  exact toInt_ofInt_of_range (by decide) (by omega) (by omega)

theorem mulHigh_unsigned (a b : W32) : (mulHigh false a b).toNat = a.toNat * b.toNat / 2 ^ 32 := by
  have h : a.toNat * b.toNat < 2 ^ 32 * 2 ^ 32 := Nat.mul_lt_mul'' a.isLt b.isLt
  exact (BitVec.toNat_ofNat _ _).trans (Nat.mod_eq_of_lt (Nat.div_lt_of_lt_mul h))

theorem mulHigh_rule (sg : Bool) (a b : W32) :
    if sg then (mulHigh sg a b).toInt = a.toInt * b.toInt / 2 ^ 32 else (mulHigh sg a b).toNat = a.toNat * b.toNat / 2 ^ 32 := by
  cases sg with
  | true => exact mulHigh_signed a b
  | false => exact mulHigh_unsigned a b

/-- Condition 3 of R68 is "at most", in the order of the signedness. -/
theorem cmpInt_three {n : Nat} (sg : Bool) (a b : BitVec n) :
    cmpInt 3 sg a b = if sg then decide (a.toInt ≤ b.toInt) else decide (a.toNat ≤ b.toNat) := by
  cases sg with
  | true =>
    show (a.slt b || a == b) = decide (a.toInt ≤ b.toInt)
    simp only [beq_eq_decide, BitVec.slt, ← Bool.decide_or, ← BitVec.toInt_inj, le_iff_lt_or_eq]
  | false =>
    show (a.ult b || a == b) = decide (a.toNat ≤ b.toNat)
    simp only [beq_eq_decide, BitVec.ult, ← Bool.decide_or, ← BitVec.toNat_inj, le_iff_lt_or_eq]

theorem minInt_rule (sg : Bool) (a b : W32) :
    if sg then (minInt sg a b).toInt = min a.toInt b.toInt else (minInt sg a b).toNat = min a.toNat b.toNat := by
  cases sg <;> simp only [minInt, cmpInt_three, Bool.false_eq_true, if_false, if_true, min_def, decide_eq_true_eq] <;> split <;> rfl

theorem maxInt_rule (sg : Bool) (a b : W32) :
    if sg then (maxInt sg a b).toInt = max a.toInt b.toInt else (maxInt sg a b).toNat = max a.toNat b.toNat := by
  cases sg <;> simp only [maxInt, cmpInt_three, Bool.false_eq_true, if_false, if_true, max_def, decide_eq_true_eq] <;> split <;> rfl

theorem toNat_abs_eq_natAbs (a : W32) : (if a.msb then 0 - a else a).toNat = a.toInt.natAbs := by
  have hlt := a.isLt
  rw [BitVec.toInt_eq_msb_cond]
  cases h : a.msb with
  | true =>
    have : 2 ^ 31 ≤ a.toNat := by simpa [BitVec.msb_eq_decide] using h
    simp only [if_true, BitVec.toNat_sub, BitVec.ofNat_eq_ofNat, BitVec.toNat_ofNat]
    omega
  | false => simp

theorem toNat_neg_eq_emod (a : W32) : ((0 - a).toNat : Int) = (0 - a.toInt) % 2 ^ 32 :=
  (sub_eq_ofInt 0 a) ▸ toNat_ofInt_eq_emod 32 _

theorem divInt_unsigned {a b : W32} (hb : b ≠ 0) : (divInt false a b).toNat = a.toNat / b.toNat := by
  rw [divInt, if_neg hb, if_neg (by decide), BitVec.toNat_ofNat, Nat.mod_eq_of_lt ((Nat.div_le_self _ _).trans_lt a.isLt)]

theorem divInt_signed {a b : W32} (hb : b ≠ 0) : divInt true a b = BitVec.ofInt 32 (a.toInt.tdiv b.toInt) := by
  rw [divInt, if_neg hb, if_pos rfl]

/-- The signed quotient fits 32 bits but for -2^31 by -1 (R113). -/
theorem toInt_divInt_signed {a b : W32} (hb : b ≠ 0) (h : ¬(a = 0x80000000 ∧ b = 0xFFFFFFFF)) :
    (divInt true a b).toInt = a.toInt.tdiv b.toInt := by
  rw [divInt_signed hb, BitVec.toInt_ofInt, ← BitVec.toInt_sdiv]
  exact BitVec.toInt_sdiv_of_ne_or_ne a b (not_and_or.1 h)

theorem divInt_rule (sg : Bool) (a b : W32) :
    if b = 0 then divInt sg a b = 0xFFFFFFFF
    else if sg then
      if a = 0x80000000 ∧ b = 0xFFFFFFFF then divInt sg a b = 0x80000000 else (divInt sg a b).toInt = a.toInt.tdiv b.toInt
    else (divInt sg a b).toNat = a.toNat / b.toNat := by
  split
  case isTrue hb => rw [divInt, if_pos hb]
  case isFalse hb =>
    cases sg with
    | false => exact divInt_unsigned hb
    | true =>
      rw [if_pos rfl]
      split
      case isTrue h => obtain ⟨rfl, rfl⟩ := h; decide
      case isFalse h => exact toInt_divInt_signed hb h

/-- The signed remainder, also where the quotient overflows: the remainder itself always fits. -/
theorem toInt_remInt_signed {a b : W32} (hb : b ≠ 0) : (remInt true a b).toInt = a.toInt.tmod b.toInt := by
  have he : remInt true a b = BitVec.ofInt 32 (a.toInt.tmod b.toInt) := by
    rw [remInt, if_neg hb, divInt_signed hb, Int.tmod_def, Int.sub_eq_add_neg, BitVec.ofInt_add, BitVec.ofInt_neg, BitVec.ofInt_mul,
      BitVec.ofInt_toInt, BitVec.ofInt_toInt, BitVec.sub_eq_add_neg]
  rw [he, ← BitVec.toInt_srem, BitVec.ofInt_toInt]

theorem toNat_remInt_unsigned {a b : W32} (hb : b ≠ 0) : (remInt false a b).toNat = a.toNat % b.toNat := by
  have h := Nat.div_add_mod a.toNat b.toNat
  have hlt := a.isLt
  rw [remInt, if_neg hb, BitVec.toNat_sub_of_le, BitVec.toNat_mul, divInt_unsigned hb, Nat.mod_eq_of_lt]
  · omega
  · omega
  · rw [BitVec.le_def, BitVec.toNat_mul, divInt_unsigned hb, Nat.mod_eq_of_lt] <;> omega

theorem remInt_rule (sg : Bool) (a b : W32) :
    if b = 0 then remInt sg a b = a
    else if sg then (remInt sg a b).toInt = a.toInt.tmod b.toInt
    else (remInt sg a b).toNat = a.toNat % b.toNat := by
  split
  case isTrue hb => rw [remInt, if_pos hb]
  case isFalse hb =>
    cases sg with
    | false => exact toNat_remInt_unsigned hb
    | true => exact toInt_remInt_signed hb

/-- LEA adds the sign-extended operand, shifted, modulo 2^64 (R112). -/
theorem toNat_lea (a : W64) (b : W32) (k : Nat) :
    ((a + (b.signExtend 64 <<< k)).toNat : Int) = (a.toNat + b.toInt * 2 ^ k) % 2 ^ 64 := by
  have hb : ((b.signExtend 64).toNat : Int) = b.toInt % 2 ^ 64 := toNat_ofInt_eq_emod 64 b.toInt
  rw [BitVec.toNat_add, BitVec.toNat_shiftLeft, Nat.shiftLeft_eq]
  push_cast
  simp only [hb, Int.add_emod_emod, Int.reducePow]
  exact Int.ModEq.add_left _ ((Int.mod_modEq _ _).mul_right _)

/-! ### The claims -/

theorem intRule_completes {i : Instr} {f : VForm} {R : W32 → W32 → W32 → W32 → Prop} (h : intRule i = some (f, R)) :
    Completes32 i f fun s l r => R (aOf f s l) (bOf f s l) (cOf f s l) r := by
  have h32 : 0 < 32 := by decide
  unfold intRule at h
  split at h <;> cases h
  · exact vec32_completes (fun _ => rfl) fun s l _ _ => satRule_satOr h32 _ (add_eq_ofInt _ _)
  · exact vec32_completes (fun _ => rfl) fun s l _ _ => satRule_satOr h32 _ (sub_eq_ofInt _ _)
  · exact vec32_completes (fun _ => rfl) fun s l _ _ => satRule_satOr h32 _ (mul_eq_ofInt _ _)
  · exact vec32_completes (fun _ => rfl) fun s l _ _ => satRule_satOr h32 _ (mul_add_eq_ofInt _ _ _)
  · exact vec32_completes (fun _ => rfl) fun s l _ _ => mulHigh_rule _ _ _
  · exact vec32_completes (fun _ => rfl) fun s l _ _ => minInt_rule _ _ _
  · exact vec32_completes (fun _ => rfl) fun s l _ _ => maxInt_rule _ _ _
  · exact vec32_completes (fun _ => rfl) fun s l _ _ => toNat_abs_eq_natAbs _
  · exact vec32_completes (fun _ => rfl) fun s l _ _ => toNat_neg_eq_emod _
  · exact vec32_completes (fun _ => rfl) fun s l _ _ => divInt_rule _ _ _
  · exact vec32_completes (fun _ => rfl) fun s l _ _ => remInt_rule _ _ _

theorem longRule_completes {i : Instr} {f : VForm} {R : State → VForm → Nat → W64 → Prop} (h : longRule i = some (f, R)) :
    Completes64 i f fun s l r => R s f l r := by
  have h64 : 0 < 64 := by decide
  unfold longRule at h
  split at h <;> cases h
  · exact vec64_completes (fun _ => rfl) fun s l _ _ => satRule_satOr h64 _ (add_eq_ofInt _ _)
  · exact vec64_completes (fun _ => rfl) fun s l _ _ => satRule_satOr h64 _ (sub_eq_ofInt _ _)
  · exact vec64_completes (fun _ => rfl) fun s l _ _ => satRule_satOr h64 _ (mul_eq_ofInt _ _)
  · exact vec64_completes (fun _ => rfl) fun s l _ _ => toNat_lea _ _ _

theorem immediateForms_complete : Claims.immediateForms := by
  refine ⟨fun f => ?_, fun f => ?_, fun f => ?_⟩
  · exact imm32_completes (fun _ => rfl) fun s l => by push_cast [BitVec.toNat_add]; rfl
  · exact imm32_completes (fun _ => rfl) fun s l => by push_cast [BitVec.toNat_mul]; rfl
  · exact imm32_completes (fun _ => rfl) fun s l => rfl

/-- Settles O1: each arm of the two tables by the arithmetic of its lane function, and the format I instructions. -/
theorem integerArithmetic : Obligations.IntegerArithmetic :=
  ⟨⟨fun _ _ _ => intRule_completes, fun _ _ _ => longRule_completes⟩, immediateForms_complete⟩

end Sys2Proof.Machine
end

section
namespace Sys2Proof.Machine
open Sys2Proof Sys2Proof.Claims

/-! ### LOP3 and NOP (R115, R116) -/

/-- Each bit of a three-input function is its table's bit at the index that the input bits form. -/
theorem getLsbD_lop3 (t : BitVec 8) (a b c : W32) {i : Nat} (hi : i < 32) :
    (lop3 t a b c).getLsbD i = truth t (a.getLsbD i) (b.getLsbD i) (c.getLsbD i) := by
  have term (p : Prop) [Decidable p] (x : W32) : (if p then x else 0).getLsbD i = (decide p && x.getLsbD i) := by
    split <;> simp_all
  have literal (p : Prop) [Decidable p] (x : W32) : (if p then x else ~~~x).getLsbD i = (decide p == x.getLsbD i) := by
    split <;> simp_all
  simp only [lop3, truth, BitVec.getLsbD_or, BitVec.getLsbD_and, term, literal]
  cases a.getLsbD i <;> cases b.getLsbD i <;> cases c.getLsbD i <;> simp

theorem nop_completes (f : VForm) (s : State) (hi : s.issuing = true) (hs : s.signed = true) :
    ∃ t, exec (.nop f) s = .next t ∧ Untouched [] s t ∧ NextWord s t :=
  have h := State.retire_frame hi hs
  ⟨s.retire, rfl, h.untouched, h.word⟩

theorem toNat_fld {n : Nat} (w : BitVec n) (lo len : Nat) : (fld w lo len).toNat = w.toNat / 2 ^ lo % 2 ^ len := by
  rw [BitVec.extractLsb'_toNat, Nat.shiftRight_eq_div_pow]

/-- A word below 2^(lo + len) whose bits from lo on are zero lies below 2^lo. -/
theorem lt_of_fld_eq_zero {n : Nat} {w : BitVec n} {lo len : Nat} (h : fld w lo len = 0) (hlt : w.toNat < 2 ^ (lo + len)) :
    w.toNat < 2 ^ lo := by
  have h0 : w.toNat / 2 ^ lo % 2 ^ len = 0 := by rw [← toNat_fld, h]; rfl
  rw [Nat.mod_eq_of_lt (Nat.div_lt_of_lt_mul (Nat.pow_add 2 lo len ▸ hlt))] at h0
  exact (Nat.div_eq_zero_iff_lt (by positivity)).1 h0

theorem lt_of_bitAt_eq_false {n : Nat} {w : BitVec n} {i : Nat} (h : bitAt w i = false) (hlt : w.toNat < 2 ^ (i + 1)) :
    w.toNat < 2 ^ i := by
  refine lt_of_fld_eq_zero (len := 1) (BitVec.eq_of_getLsbD_eq fun j hj => ?_) hlt
  obtain rfl : j = 0 := by omega
  simpa using h

/-- Only the zero field names v0 (R65). -/
theorem eq_zero_of_srcOf {x : BitVec 10} (h : srcOf x = some (.v 0)) : x = 0 := by
  unfold srcOf at h
  split at h
  case h_1 hk =>
    have hkind : x.toNat < 2 ^ 8 := lt_of_fld_eq_zero (len := 2) (BitVec.eq_of_toNat_eq hk) x.isLt
    have hreg : x.toNat < 2 ^ 0 := lt_of_fld_eq_zero (len := 8) (by simpa using h) hkind
    exact BitVec.eq_of_toNat_eq (Nat.lt_one_iff.1 hreg)
  all_goals (split at h <;> simp at h)

/-- The format V fields of a word with opcode 0 are all zero only in the zero word. -/
theorem eq_zero_of_vForm {w : W64} (hop : fldN w 56 8 = 0) (h : vForm w = some {}) : w = 0 := by
  simp only [vForm, Option.bind_eq_bind, Option.bind_eq_some_iff, Option.some.injEq, VForm.mk.injEq] at h
  obtain ⟨a, ha, b, hb, c, hc, hd, hw, hbl, hp, hpn, rfl, rfl, rfl, hmd⟩ := h
  have h56 : w.toNat < 2 ^ 56 := lt_of_fld_eq_zero (BitVec.eq_of_toNat_eq hop) w.isLt
  have h48 : w.toNat < 2 ^ 48 := lt_of_fld_eq_zero hd h56
  have h47 : w.toNat < 2 ^ 47 := lt_of_bitAt_eq_false hw h48
  have h45 : w.toNat < 2 ^ 45 := lt_of_fld_eq_zero hbl h47
  have h42 : w.toNat < 2 ^ 42 := lt_of_fld_eq_zero hp h45
  have h41 : w.toNat < 2 ^ 41 := lt_of_bitAt_eq_false hpn h42
  have h31 : w.toNat < 2 ^ 31 := lt_of_fld_eq_zero (eq_zero_of_srcOf ha) h41
  have h21 : w.toNat < 2 ^ 21 := lt_of_fld_eq_zero (eq_zero_of_srcOf hb) h31
  have h11 : w.toNat < 2 ^ 11 := lt_of_fld_eq_zero (eq_zero_of_srcOf hc) h21
  have h0 : w.toNat < 2 ^ 0 := lt_of_fld_eq_zero hmd h11
  exact BitVec.eq_of_toNat_eq (Nat.lt_one_iff.1 h0)

theorem build_of_vForm_none {w : W64} (hop : fldN w 56 8 = 0) (h : vForm w = none) : build w = .error .reservedSource := by
  unfold build
  rw [hop, h]
  rfl

theorem build_of_vForm_some {w : W64} {f : VForm} (hop : fldN w 56 8 = 0) (h : vForm w = some f) : build w = .ok (.nop f) := by
  unfold build
  rw [hop, h]
  rfl

/-- Opcode 0 is NOP, whose every field must be zero (R116). -/
theorem decode_error_of_opcode_zero {w : W64} (hop : fldN w 56 8 = 0) (hw : w ≠ 0) : ∃ e, decode w = .error e := by
  cases hf : vForm w with
  | none => exact ⟨.reservedSource, by rw [decode, build_of_vForm_none hop hf]⟩
  | some f =>
    have hne : f ≠ {} := fun h => hw (eq_zero_of_vForm hop (h ▸ hf))
    exact ⟨.nonzeroField, by simp only [decode, build_of_vForm_some hop hf, Instr.check, if_neg hne]⟩

theorem tableLogic_holds : Claims.tableLogic := by
  refine ⟨fun f => vec32_completes (fun _ => rfl) fun s l _ _ i hi => ?_, nop_completes, rfl, fun w => decode_error_of_opcode_zero⟩
  have hlt : 4 * ((aOf f s l).getLsbD i).toNat + 2 * ((bOf f s l).getLsbD i).toNat + ((cOf f s l).getLsbD i).toNat < 8 := by
    have := ((aOf f s l).getLsbD i).toNat_lt; have := ((bOf f s l).getLsbD i).toNat_lt; have := ((cOf f s l).getLsbD i).toNat_lt
    omega
  rw [getLsbD_lop3 _ _ _ _ hi, truth, bitAt, BitVec.getLsbD_extractLsb', decide_eq_true hlt, Bool.true_and, Nat.zero_add]

/-! ### Shifts and rotations (R117) -/

theorem toNat_shl {w : Nat} (a : BitVec w) (k : Nat) : (a <<< k).toNat = a.toNat * 2 ^ k % 2 ^ w := by
  rw [BitVec.toNat_shiftLeft, Nat.shiftLeft_eq]

theorem shiftRight_rule {w : Nat} (sg : Bool) (a : BitVec w) (k : Nat) :
    if sg then (shiftRight sg a k).toInt = a.toInt / 2 ^ k else (shiftRight sg a k).toNat = a.toNat / 2 ^ k := by
  cases sg with
  | true => exact BitVec.toInt_sshiftRight.trans (Int.shiftRight_eq_div_pow _ _)
  | false => exact (BitVec.toNat_ushiftRight ..).trans (Nat.shiftRight_eq_div_pow _ _)

/-- A rotation moves bit i to bit i + k modulo the width. -/
theorem getLsbD_rotate {w : Nat} (a : BitVec w) (k : Nat) {i : Nat} (hi : i < w) :
    (a.rotateLeft (k % w)).getLsbD ((i + k) % w) = a.getLsbD i := by
  have hk : k % w < w := Nat.mod_lt _ (by omega)
  rw [BitVec.getLsbD_rotateLeft_of_le hk, ← Nat.add_mod_mod]
  by_cases h : i + k % w < w
  · rw [Nat.mod_eq_of_lt h]
    simp [h]
  · have hm : (i + k % w) % w = i + k % w - w := by rw [Nat.mod_eq_sub_mod (by omega), Nat.mod_eq_of_lt (by omega)]
    rw [hm, decide_eq_true (by omega : i + k % w - w < k % w), cond_true]
    congr 1; omega

/-! ### Bit fields (R118) -/

/-- A field lies within the word. -/
theorem fieldOf_le {w : Nat} (hw : 0 < w) (k : W32) : (fieldOf w k).1 < w ∧ (fieldOf w k).1 + (fieldOf w k).2 ≤ w := by
  have : fldN k 0 8 % w < w := Nat.mod_lt _ hw
  simp only [fieldOf]; omega

theorem toNat_fieldMask {w p n : Nat} (h : p + n ≤ w) : (fieldMask w p n).toNat = (2 ^ n - 1) * 2 ^ p := by
  refine (BitVec.toNat_ofNat _ _).trans (Nat.mod_eq_of_lt ?_)
  calc (2 ^ n - 1) * 2 ^ p < 2 ^ n * 2 ^ p := Nat.mul_lt_mul_of_pos_right (by have := Nat.two_pow_pos n; omega) (by positivity)
    _ = 2 ^ (p + n) := by rw [← Nat.pow_add, Nat.add_comm]
    _ ≤ 2 ^ w := Nat.pow_le_pow_right (by decide) h

theorem getLsbD_fieldMask {w p n i : Nat} (hi : i < w) : (fieldMask w p n).getLsbD i = true ↔ p ≤ i ∧ i < p + n := by
  rw [fieldMask, BitVec.getLsbD_ofNat, ← Nat.shiftLeft_eq, Nat.testBit_shiftLeft, Nat.testBit_two_pow_sub_one]
  simp only [hi, decide_true, Bool.true_and, Bool.and_eq_true, decide_eq_true_eq]
  omega

/-- The bits of a field, moved down to bit 0. -/
theorem toNat_field {w p n : Nat} (a : BitVec w) (h : p + n ≤ w) : ((a &&& fieldMask w p n) >>> p).toNat = a.toNat / 2 ^ p % 2 ^ n := by
  rw [BitVec.toNat_ushiftRight, BitVec.toNat_and, toNat_fieldMask h, ← Nat.shiftLeft_eq, Nat.shiftRight_and_distrib,
    Nat.shiftLeft_shiftRight, Nat.and_two_pow_sub_one_eq_mod, Nat.shiftRight_eq_div_pow]

/-- A field of n bits with ones above it is its value less 2^n. -/
theorem toInt_or_fieldMask {w n : Nat} (r : BitVec w) (hn : 0 < n) (hw : n ≤ w) (hr : r.toNat < 2 ^ n) (hs : 2 ^ (n - 1) ≤ r.toNat) :
    (r ||| fieldMask w n (w - n)).toInt = (r.toNat : Int) - 2 ^ n := by
  have hpow : 2 ^ n * 2 ^ (w - n) = 2 ^ w := by rw [← Nat.pow_add, Nat.add_sub_cancel' hw]
  have hor : (r ||| fieldMask w n (w - n)).toNat = r.toNat + (2 ^ w - 2 ^ n) := by
    rw [BitVec.toNat_or, toNat_fieldMask (by omega), Nat.or_comm, Nat.mul_comm, ← Nat.two_pow_add_eq_or_of_lt hr, Nat.mul_sub, hpow]
    omega
  have hle : 2 ^ n ≤ 2 ^ w := Nat.pow_le_pow_right (by decide) hw
  have hhalf : 2 ^ n = 2 * 2 ^ (n - 1) := (mul_pow_sub_one hn.ne' 2).symm
  rw [BitVec.toInt_eq_toNat_cond, hor, if_neg (by omega)]
  push_cast [hle]
  omega

/-- The top bit of a number of n bits. -/
theorem getLsbD_top {w n : Nat} (r : BitVec w) (hn : 0 < n) (hr : r.toNat < 2 ^ n) : r.getLsbD (n - 1) = decide (2 ^ (n - 1) ≤ r.toNat) := by
  have hhalf : 2 ^ (n - 1) * 2 = 2 ^ n := pow_sub_one_mul hn.ne' 2
  have hdiv : r.toNat / 2 ^ (n - 1) < 2 := Nat.div_lt_of_lt_mul (hhalf.symm ▸ hr)
  rw [BitVec.getLsbD, Nat.testBit_eq_decide_div_mod_eq, Nat.mod_eq_of_lt hdiv, decide_eq_decide, ← Nat.one_le_div_iff (by positivity)]
  omega

theorem bitExtract_rule {w : Nat} (hw : 0 < w) (sg : Bool) (a : BitVec w) (k : W32) :
    let p := fldN k 0 8 % w
    let n := min (fldN k 8 8) (w - p)
    let x := a.toNat / 2 ^ p % 2 ^ n
    if sg ∧ 0 < n ∧ 2 ^ (n - 1) ≤ x then (bitExtract sg a k).toInt = (x : Int) - 2 ^ n else (bitExtract sg a k).toNat = x := by
  intro p n x
  obtain ⟨-, hpn⟩ : p < w ∧ p + n ≤ w := fieldOf_le hw k
  have hx : ((a &&& fieldMask w p n) >>> p).toNat = x := toNat_field a hpn
  have hlt : ((a &&& fieldMask w p n) >>> p).toNat < 2 ^ n := hx ▸ Nat.mod_lt _ (by positivity)
  have hex : bitExtract sg a k = if sg && decide (0 < n) && ((a &&& fieldMask w p n) >>> p).getLsbD (n - 1)
      then (a &&& fieldMask w p n) >>> p ||| fieldMask w n (w - n) else (a &&& fieldMask w p n) >>> p := rfl
  by_cases h : sg = true ∧ 0 < n ∧ 2 ^ (n - 1) ≤ x
  · obtain ⟨hs, hn, hle⟩ := h
    rw [if_pos ⟨hs, hn, hle⟩, hex, getLsbD_top _ hn hlt, hx, if_pos (by simp [hs, hn, hle]), toInt_or_fieldMask _ hn (by omega) hlt (hx ▸ hle), hx]
  · rw [if_neg h, hex, if_neg, hx]
    intro hc
    simp only [Bool.and_eq_true, decide_eq_true_eq] at hc
    obtain ⟨⟨hs, hn⟩, hbit⟩ := hc
    rw [getLsbD_top _ hn hlt, hx, decide_eq_true_eq] at hbit
    exact h ⟨hs, hn, hbit⟩

theorem bitInsert_rule {w : Nat} (a c : BitVec w) (k : W32) {i : Nat} (hi : i < w) :
    (inField w k i → (bitInsert a c k).getLsbD i = a.getLsbD (i - fldN k 0 8 % w)) ∧
    (¬inField w k i → (bitInsert a c k).getLsbD i = c.getLsbD i) := by
  have hm : (fieldMask w (fieldOf w k).1 (fieldOf w k).2).getLsbD i = true ↔ inField w k i := getLsbD_fieldMask hi
  refine ⟨fun h => ?_, fun h => ?_⟩ <;>
    simp only [bitInsert, BitVec.getLsbD_or, BitVec.getLsbD_and, BitVec.getLsbD_not, BitVec.getLsbD_shiftLeft, hi, decide_true, Bool.true_and]
  · have hp : ¬i < (fieldOf w k).1 := Nat.not_lt.2 h.1
    simp [hm.2 h, hp]; rfl
  · simp [Bool.eq_false_iff.2 (mt hm.1 h)]

/-! ### Counts and reversal (R117) -/

theorem ones_le {w : Nat} (a : BitVec w) : ones a ≤ w :=
  (List.length_filter_le _ _).trans_eq List.length_range

theorem leadingZeros_zero {w : Nat} : leadingZeros (0 : BitVec w) = w := by
  rw [leadingZeros, List.takeWhile_eq_self_iff.2 (by simp), List.length_range]

theorem length_takeWhile_range {p : Nat → Bool} {k n : Nat} (hn : k < n) (hp : ∀ i < k, p i = true) (hk : p k = false) :
    ((List.range n).takeWhile p).length = k := by
  obtain ⟨m, rfl⟩ : ∃ m, n = k + (m + 1) := ⟨n - k - 1, by omega⟩
  rw [List.range_add, List.takeWhile_append_of_pos fun i hi => hp i (List.mem_range.1 hi), List.range_succ_eq_map, List.map_cons,
    List.takeWhile_cons_of_neg (by simp [hk]), List.append_nil, List.length_range]

/-- The leading zeros end at the highest one bit. -/
theorem leadingZeros_add_log2 {w : Nat} {a : BitVec w} (ha : a ≠ 0) : leadingZeros a + a.toNat.log2 + 1 = w := by
  have hne : a.toNat ≠ 0 := fun h => ha (BitVec.eq_of_toNat_eq h)
  have hlog : a.toNat.log2 < w := (Nat.log2_lt hne).2 a.isLt
  obtain ⟨k, hk⟩ : ∃ k, w = k + 1 + a.toNat.log2 := ⟨w - 1 - a.toNat.log2, by omega⟩
  have hzero (i : Nat) (hi : i < k) : (!a.getLsbD (w - 1 - i)) = true := by
    have : a.toNat < 2 ^ (w - 1 - i) := (Nat.log2_lt hne).1 (by omega)
    rw [BitVec.getLsbD, Nat.testBit_lt_two_pow this]; rfl
  have hone : (!a.getLsbD (w - 1 - k)) = false := by
    rw [show w - 1 - k = a.toNat.log2 by omega, BitVec.getLsbD, Nat.testBit_log2 hne]; rfl
  have hlen : leadingZeros a = k := length_takeWhile_range (by omega) hzero hone
  omega

/-- The first n steps of the reversal fill the n highest bits. -/
theorem getLsbD_bitReverse_steps {w : Nat} (a : BitVec w) {j : Nat} (hj : j < w) : ∀ n, n ≤ w →
    ((List.range n).foldl (fun r i => if a.getLsbD i then r ||| ((1 : BitVec w) <<< (w - 1 - i)) else r) 0).getLsbD j =
      (decide (w - 1 - j < n) && a.getLsbD (w - 1 - j))
  | 0, _ => by simp
  | n + 1, hn => by
    rw [List.range_succ, List.foldl_append, List.foldl_cons, List.foldl_nil]
    have ih := getLsbD_bitReverse_steps a hj n (by omega)
    by_cases hj' : w - 1 - j = n
    · subst hj'
      rw [show w - 1 - (w - 1 - j) = j by omega]
      simp only [lt_irrefl, decide_false, Bool.false_and, Nat.lt_succ_self, decide_true, Bool.true_and] at ih ⊢
      cases a.getLsbD (w - 1 - j) with
      | false => exact ih
      | true => simp [hj]
    · have hset : ((1 : BitVec w) <<< (w - 1 - n)).getLsbD j = false := by
        have : j < w - 1 - n ∨ j - (w - 1 - n) ≠ 0 := by omega
        simp; omega
      have hlt : decide (w - 1 - j < n + 1) = decide (w - 1 - j < n) := decide_eq_decide.2 (by omega)
      rw [hlt, ← ih]
      split
      · rw [BitVec.getLsbD_or, hset, Bool.or_false]
      · rfl

theorem getLsbD_bitReverse {w : Nat} (a : BitVec w) {i : Nat} (hi : i < w) : (bitReverse a).getLsbD (w - 1 - i) = a.getLsbD i := by
  rw [bitReverse, getLsbD_bitReverse_steps a (by omega) w le_rfl, show w - 1 - (w - 1 - i) = i by omega, decide_eq_true hi, Bool.true_and]

/-! ### The claims -/

/-- The lane function of a logic instruction in w bits (R117, R118): k is operand B read as 32 bits. -/
def logicValue {w : Nat} (i : Instr) (a b : BitVec w) (k : W32) (c : BitVec w) : BitVec w :=
  match i with
  | .and _ => a &&& b
  | .or _ => a ||| b
  | .xor _ => a ^^^ b
  | .andn _ => a &&& ~~~b
  | .shl _ => a <<< (k.toNat % w)
  | .shr f => shiftRight (mS f) a (k.toNat % w)
  | .rot _ => a.rotateLeft (k.toNat % w)
  | .bfe f => bitExtract (mS f) a k
  | .bfi _ => bitInsert a c k
  | .brev _ => bitReverse a
  | _ => 0

/-- A logic instruction computes its lane function, in 32 bits or, with D64, in 64. -/
theorem exec_eq_dual {w : Nat} {i : Instr} {f : VForm} {R : BitVec w → BitVec w → W32 → BitVec w → BitVec w → Prop}
    (h : logicRule w i = some (f, R)) (s : State) : exec i s = dual f s
      (fun l => logicValue i (aOf f s l) (bOf f s l) (bOf f s l) (cOf f s l))
      (fun l => logicValue i (aOf64 f s l) (bOf64 f s l) (bOf f s l) (cOf64 f s l)) := by
  unfold logicRule at h
  split at h <;> cases h <;> rfl

/-- The lane function meets its rule, in every width. -/
theorem logicValue_rule {w : Nat} (hw : 0 < w) {i : Instr} {f : VForm} {R : BitVec w → BitVec w → W32 → BitVec w → BitVec w → Prop}
    (h : logicRule w i = some (f, R)) (a b : BitVec w) (k : W32) (c : BitVec w) : R a b k c (logicValue i a b k c) := by
  unfold logicRule at h
  split at h <;> cases h
  · exact fun i _ => BitVec.getLsbD_and
  · exact fun i _ => BitVec.getLsbD_or
  · exact fun i _ => BitVec.getLsbD_xor
  · intro i hi; simp [logicValue, hi]
  · exact toNat_shl a _
  · exact shiftRight_rule _ a _
  · exact fun i hi => by
      show (a.rotateLeft (k.toNat % w)).getLsbD _ = _
      exact getLsbD_rotate a _ hi
  · exact bitExtract_rule hw _ a k
  · exact fun i hi => bitInsert_rule a c k hi
  · exact fun i hi => getLsbD_bitReverse a hi

theorem logicRule32_completes {i : Instr} {f : VForm} {R : W32 → W32 → W32 → W32 → W32 → Prop} (h : logicRule 32 i = some (f, R))
    (hd : f.d64 = false) : Completes32 i f fun s l r => R (aOf f s l) (bOf f s l) (bOf f s l) (cOf f s l) r :=
  vec32_completes (fun s => (exec_eq_dual h s).trans (by rw [dual, hd]; rfl)) fun _ _ _ _ => logicValue_rule (by decide) h _ _ _ _

theorem logicRule64_completes {i : Instr} {f : VForm} {R : W64 → W64 → W32 → W64 → W64 → Prop} (h : logicRule 64 i = some (f, R))
    (hd : f.d64 = true) : Completes64 i f fun s l r => R (aOf64 f s l) (bOf64 f s l) (bOf f s l) (cOf64 f s l) r :=
  vec64_completes (fun s => (exec_eq_dual h s).trans (by rw [dual, hd]; rfl)) fun _ _ _ _ => logicValue_rule (by decide) h _ _ _ _

/-- The count that POPC or CLZ gives of a word (R117). -/
def countValue {w : Nat} (i : Instr) (a : BitVec w) : Nat :=
  match i with
  | .popc _ => ones a
  | .clz _ => leadingZeros a
  | _ => 0

/-- POPC and CLZ compute their count of a 32-bit or, with D64, of a 64-bit operand. -/
theorem exec_eq_count {w : Nat} {i : Instr} {f : VForm} {R : BitVec w → W32 → Prop} (h : countRule w i = some (f, R)) (s : State) :
    exec i s = vec32 f s fun l => BitVec.ofNat 32 (if f.d64 then countValue i (aOf64 f s l) else countValue i (aOf f s l)) := by
  unfold countRule at h
  split at h <;> cases h <;> rfl

theorem countValue_rule {w : Nat} (hw : w < 2 ^ 32) {i : Instr} {f : VForm} {R : BitVec w → W32 → Prop} (h : countRule w i = some (f, R))
    (a : BitVec w) : R a (BitVec.ofNat 32 (countValue i a)) := by
  unfold countRule at h
  split at h <;> cases h
  · exact (BitVec.toNat_ofNat _ _).trans (Nat.mod_eq_of_lt ((ones_le a).trans_lt hw))
  · show if a = 0 then (BitVec.ofNat 32 (leadingZeros a)).toNat = w else (BitVec.ofNat 32 (leadingZeros a)).toNat + _ + 1 = w
    split
    case isTrue h => rw [h, leadingZeros_zero, BitVec.toNat_ofNat, Nat.mod_eq_of_lt hw]
    case isFalse h =>
      have := leadingZeros_add_log2 h
      rw [BitVec.toNat_ofNat, Nat.mod_eq_of_lt (by omega), this]

theorem countRule32_completes {i : Instr} {f : VForm} {R : W32 → W32 → Prop} (h : countRule 32 i = some (f, R)) (hd : f.d64 = false) :
    Completes32 i f fun s l r => R (aOf f s l) r :=
  vec32_completes (exec_eq_count h) fun s l _ _ => by simp only [hd]; exact countValue_rule (by decide) h _

theorem countRule64_completes {i : Instr} {f : VForm} {R : W64 → W32 → Prop} (h : countRule 64 i = some (f, R)) (hd : f.d64 = true) :
    Completes32 i f fun s l r => R (aOf64 f s l) r :=
  vec32_completes (exec_eq_count h) fun s l _ _ => by simp only [hd]; exact countValue_rule (by decide) h _

/-- Settles O2: the bits of LOP3, the zero word, and the lane function of each logic instruction in both widths. -/
theorem logicAndShifts : Obligations.LogicAndShifts :=
  ⟨tableLogic_holds, fun _ _ _ => logicRule32_completes, fun _ _ _ => logicRule64_completes,
    fun _ _ _ => countRule32_completes, fun _ _ _ => countRule64_completes⟩

end Sys2Proof.Machine
end

section
namespace Sys2Proof.Machine
open Sys2Proof Sys2Proof.Claims

/-! ### The grid of a format's magnitudes (R163)

The codes without a sign, in order, name ever larger numbers of units 2^qmin: beyond every bound, as the rounding of `Fmt.roundCode` counts them. -/

/-- The number of units 2^qmin that a code without a sign names. -/
def Fmt.grid (t : Fmt) (c : Nat) : Nat := if c < 2 ^ t.fb then c else (2 ^ t.fb + c % 2 ^ t.fb) * 2 ^ (c / 2 ^ t.fb - 1)

/-- The code of n units in binade k. -/
theorem Fmt.grid_binade (t : Fmt) {k n : Nat} (hn : n ≤ 2 ^ (t.fb + 1)) (hk : k = 0 ∨ 2 ^ t.fb ≤ n) :
    t.grid (k * 2 ^ t.fb + n) = n * 2 ^ k := by
  have hp : 0 < 2 ^ t.fb := by positivity
  rw [pow_succ] at hn
  unfold Fmt.grid
  by_cases h1 : n < 2 ^ t.fb
  · obtain rfl : k = 0 := by omega
    rw [if_pos (by omega)]; ring
  rw [if_neg (by nlinarith)]
  by_cases h2 : n = 2 ^ t.fb * 2
  · subst h2
    rw [show k * 2 ^ t.fb + 2 ^ t.fb * 2 = 2 ^ t.fb * (k + 2) by ring, Nat.mul_mod_right, Nat.mul_div_cancel_left _ hp]
    rw [show k + 2 - 1 = k + 1 by omega]
    ring
  · obtain ⟨j, rfl⟩ : ∃ j, n = 2 ^ t.fb + j := ⟨n - 2 ^ t.fb, by omega⟩
    rw [show k * 2 ^ t.fb + (2 ^ t.fb + j) = 2 ^ t.fb * (k + 1) + j by ring, Nat.mul_add_mod, Nat.mul_add_div hp,
      Nat.mod_eq_of_lt (by omega), Nat.div_eq_of_lt (by omega)]
    rfl

/-- Every code without a sign lies in a binade, below its end. -/
theorem Fmt.exists_binade (t : Fmt) (c : Nat) : ∃ k n, c = k * 2 ^ t.fb + n ∧ n < 2 ^ (t.fb + 1) ∧ (k = 0 ∨ 2 ^ t.fb ≤ n) := by
  have hp : 0 < 2 ^ t.fb := by positivity
  by_cases h : c < 2 ^ t.fb
  · exact ⟨0, c, by omega, by rw [pow_succ]; omega, .inl rfl⟩
  · have hdiv : 1 ≤ c / 2 ^ t.fb := (Nat.one_le_div_iff hp).2 (by omega)
    refine ⟨c / 2 ^ t.fb - 1, 2 ^ t.fb + c % 2 ^ t.fb, ?_, ?_, .inr (by omega)⟩
    · have := Nat.div_add_mod c (2 ^ t.fb)
      obtain ⟨d, hd⟩ : ∃ d, c / 2 ^ t.fb = d + 1 := ⟨_, (Nat.sub_add_cancel hdiv).symm⟩
      rw [hd] at this ⊢
      rw [Nat.add_sub_cancel]; nlinarith
    · have := Nat.mod_lt c hp
      rw [pow_succ]; omega

theorem Fmt.grid_strictMono (t : Fmt) : StrictMono t.grid := by
  refine strictMono_nat_of_lt_succ fun c => ?_
  obtain ⟨k, n, rfl, hn, hk⟩ := t.exists_binade c
  rw [t.grid_binade hn.le hk, Nat.add_assoc, t.grid_binade hn (hk.imp_right (by omega))]
  exact Nat.mul_lt_mul_of_pos_right (by omega) (by positivity)

@[simp] theorem Fmt.grid_zero (t : Fmt) : t.grid 0 = 0 := by simp [Fmt.grid]

/-- Every number of units with at most fb + 1 significant bits is on the grid. -/
theorem Fmt.exists_grid_eq (t : Fmt) : ∀ (j m : Nat), m ≤ 2 ^ (t.fb + 1) → ∃ c, t.grid c = m * 2 ^ j
  | 0, m, hm => ⟨0 * 2 ^ t.fb + m, t.grid_binade hm (.inl rfl)⟩
  | j + 1, m, hm => by
    by_cases h : 2 ^ t.fb ≤ m
    · exact ⟨(j + 1) * 2 ^ t.fb + m, t.grid_binade hm (.inr h)⟩
    · obtain ⟨c, hc⟩ := t.exists_grid_eq j (2 * m) (by rw [pow_succ]; omega)
      exact ⟨c, by rw [hc]; ring⟩

/-- The magnitude that a code without a sign names. -/
noncomputable def Fmt.point (t : Fmt) (c : Nat) : ℝ := t.grid c * 2 ^ t.qmin

theorem Fmt.point_strictMono (t : Fmt) : StrictMono t.point := fun _ _ h =>
  mul_lt_mul_of_pos_right (Nat.cast_lt.2 (t.grid_strictMono h)) (by positivity)

@[simp] theorem Fmt.point_zero (t : Fmt) : t.point 0 = 0 := by simp [Fmt.point]

theorem Fmt.point_nonneg (t : Fmt) (c : Nat) : 0 ≤ t.point c := by unfold Fmt.point; positivity

/-! ### Rounding in a direction, to integers and to codes (R119, R126) -/

/-- Which of three ways of rounding a magnitude a direction means for a sign; nothing is said of SRND. -/
def Rnd.pick (rnd : Rnd) (neg : Bool) (near down up : Prop) : Prop :=
  match rnd with
  | .rne => near
  | .rz => down
  | .ru => if neg then down else up
  | .rd => if neg then up else down
  | .srnd _ => True

theorem Rnd.pick_cases (rnd : Rnd) (neg : Bool) :
    (∀ near down up, rnd.pick neg near down up = near) ∨ (∀ near down up, rnd.pick neg near down up = down) ∨
      (∀ near down up, rnd.pick neg near down up = up) ∨ ((∀ near down up, rnd.pick neg near down up = True) ∧ ∃ r, rnd = .srnd r) := by
  cases rnd with
  | rne => exact .inl fun _ _ _ => rfl
  | rz => exact .inr (.inl fun _ _ _ => rfl)
  | ru =>
    cases neg with
    | true => exact .inr (.inl fun _ _ _ => rfl)
    | false => exact .inr (.inr (.inl fun _ _ _ => rfl))
  | rd =>
    cases neg with
    | true => exact .inr (.inr (.inl fun _ _ _ => rfl))
    | false => exact .inr (.inl fun _ _ _ => rfl)
  | srnd r => exact .inr (.inr (.inr ⟨fun _ _ _ => rfl, r, rfl⟩))

theorem Rnd.pick_of {rnd : Rnd} {neg : Bool} {near down up : Prop} (hn : near) (hd : down) (hu : up) : rnd.pick neg near down up := by
  rcases rnd.pick_cases neg with h | h | h | ⟨h, -⟩ <;> rw [h]
  · exact hn
  · exact hd
  · exact hu
  · trivial

theorem Rnd.pick_imp {rnd : Rnd} {neg : Bool} {near down up near' down' up' : Prop} (h : rnd.pick neg near down up)
    (hn : near → near') (hd : down → down') (hu : up → up') : rnd.pick neg near' down' up' := by
  rcases rnd.pick_cases neg with hp | hp | hp | ⟨hp, -⟩ <;> rw [hp] at h ⊢
  · exact hn h
  · exact hd h
  · exact hu h
  · trivial

/-- n is an integer nearest to y, the even one of two. -/
def NearInt (y : ℝ) (n : Nat) : Prop :=
  2 * (n : ℝ) ≤ 2 * y + 1 ∧ 2 * y ≤ 2 * n + 1 ∧ (2 * (n : ℝ) = 2 * y + 1 ∨ 2 * y = 2 * (n : ℝ) + 1 → n % 2 = 0)

/-- n is the integer part of y. -/
def DownInt (y : ℝ) (n : Nat) : Prop := (n : ℝ) ≤ y ∧ y < n + 1

/-- n is the least integer that is not below y. -/
def UpInt (y : ℝ) (n : Nat) : Prop := y ≤ n ∧ (n : ℝ) < y + 1

/-- No midpoint between c and another code lies between c and v, and a midpoint goes to the even code. -/
def Fmt.Nearest (t : Fmt) (v : ℝ) (c : Nat) : Prop :=
  (∀ d, c < d → 2 * v ≤ t.point c + t.point d ∧ (2 * v = t.point c + t.point d → c % 2 = 0)) ∧
  (∀ d < c, t.point c + t.point d ≤ 2 * v ∧ (t.point c + t.point d = 2 * v → c % 2 = 0))

/-- c is the greatest code that does not exceed v. -/
def Fmt.Below (t : Fmt) (v : ℝ) (c : Nat) : Prop := t.point c ≤ v ∧ v < t.point (c + 1)

/-- c is the least code not below v. -/
def Fmt.Above (t : Fmt) (v : ℝ) (c : Nat) : Prop := v ≤ t.point c ∧ ∀ d < c, t.point d < v

/-- The magnitude v of a sign rounds to the code c without a sign, as if the exponent were unbounded. -/
def Fmt.RoundsTo (t : Fmt) (rnd : Rnd) (neg : Bool) (v : ℝ) (c : Nat) : Prop :=
  rnd.pick neg (t.Nearest v c) (t.Below v c) (t.Above v c)

/-- What a Mag says of the magnitude it stands for. -/
def Mag.Holds (x : Mag) (v : ℝ) : Prop :=
  if x.more then (x.m : ℝ) * 2 ^ x.e < v ∧ v < (x.m + 1) * 2 ^ x.e else v = x.m * 2 ^ x.e

/-- An integer is every rounding of itself. -/
theorem pick_self (rnd : Rnd) (neg : Bool) (n : Nat) : rnd.pick neg (NearInt n n) (DownInt n n) (UpInt n n) := by
  have hn : NearInt n n := ⟨by linarith, by linarith, fun h => by rcases h with h | h <;> linarith⟩
  have hd : DownInt n n := ⟨le_rfl, by linarith⟩
  have hu : UpInt n n := ⟨le_rfl, by linarith⟩
  exact Rnd.pick_of hn hd hu

section
variable {more : Bool} {y δ : ℝ} {n rem k : Nat} (hrem : rem < 2 ^ k) (hy : y * 2 ^ k = n * 2 ^ k + rem + δ)
  (hδ : 0 ≤ δ) (hδ1 : δ < 1) (hmore : more = true ↔ 0 < δ)

include hrem hy hδ hδ1

/-- y lies rem of 2^k parts, and δ of one more, above n. -/
theorem downInt_of_parts : DownInt y n := by
  have hP : (0 : ℝ) < 2 ^ k := by positivity
  have hremP : (rem : ℝ) + 1 ≤ 2 ^ k := by exact_mod_cast hrem
  exact ⟨le_of_mul_le_mul_right (by linarith) hP, lt_of_mul_lt_mul_right (by linarith) hP.le⟩

include hmore

/-- The step up to the next integer, where anything is cut off. -/
theorem upInt_of_parts : UpInt y (if (decide (0 < rem) || more) then n + 1 else n) := by
  have hP : (0 : ℝ) < 2 ^ k := by positivity
  obtain ⟨-, hhi⟩ := downInt_of_parts hrem hy hδ hδ1
  split
  case isTrue h =>
    have hpos : 0 < rem + δ := by
      rcases Bool.or_eq_true_iff.1 h with h | h
      · have : (0 : ℝ) < rem := Nat.cast_pos.2 (of_decide_eq_true h)
        linarith
      · have := hmore.1 h
        positivity
    have hlt : (n : ℝ) < y := lt_of_mul_lt_mul_right (by linarith) hP.le
    exact ⟨by push_cast; linarith, by push_cast; linarith⟩
  case isFalse h =>
    obtain ⟨h1, h2⟩ : ¬0 < rem ∧ ¬more = true := by simpa [not_or] using h
    have hrem0 : (rem : ℝ) = 0 := by exact_mod_cast Nat.eq_zero_of_not_pos h1
    have hδ0 : ¬0 < δ := fun h => h2 (hmore.2 h)
    have hny : y ≤ n := le_of_mul_le_mul_right (by linarith) hP
    exact ⟨hny, by linarith [(downInt_of_parts hrem hy hδ hδ1).1]⟩

/-- The step to the nearest integer: past the half, and at the half from an odd one. -/
theorem nearInt_of_parts (hk : 0 < k) :
    NearInt y (if (decide (2 ^ k < 2 * rem) || (2 * rem == 2 ^ k && (more || n % 2 == 1))) then n + 1 else n) := by
  have hP : (0 : ℝ) < 2 ^ k := by positivity
  have heven : 2 ^ k = 2 * 2 ^ (k - 1) := (mul_pow_sub_one hk.ne' 2).symm
  obtain ⟨hlo, hhi⟩ := downInt_of_parts hrem hy hδ hδ1
  split
  case isTrue h =>
    have h : 2 ^ k < 2 * rem ∨ (2 * rem = 2 ^ k ∧ (more = true ∨ n % 2 = 1)) := by simpa using h
    have hge : (2 : ℝ) ^ k ≤ 2 * rem := by exact_mod_cast h.elim le_of_lt fun h => h.1.ge
    have hmid : 2 * (n : ℝ) + 1 ≤ 2 * y := le_of_mul_le_mul_right (by linarith) hP
    refine ⟨by push_cast; linarith, by push_cast; linarith, fun heq => ?_⟩
    have heq : 2 * y = 2 * (n : ℝ) + 1 := by push_cast at heq; rcases heq with heq | heq <;> linarith
    have hsum : 2 * (rem + δ) = 2 ^ k := by linear_combination 2 ^ k * heq - 2 * hy
    have hle : 2 * rem ≤ 2 ^ k := by
      have : 2 * (rem : ℝ) ≤ 2 ^ k := by linarith
      exact_mod_cast this
    obtain ⟨-, hm | hodd⟩ := h.resolve_left (by omega)
    · have := hmore.1 hm; linarith
    · omega
  case isFalse h =>
    obtain ⟨hle, htie⟩ : 2 * rem ≤ 2 ^ k ∧ (2 * rem = 2 ^ k → more = false ∧ n % 2 = 0) := by simpa using h
    have hsum : 2 * (rem + δ) ≤ 2 ^ k ∧ (2 * (rem + δ) = 2 ^ k → n % 2 = 0) := by
      rcases hle.lt_or_eq with hlt | heq
      · have : 2 * (rem : ℝ) + 2 ≤ 2 ^ k := by exact_mod_cast (by omega : 2 * rem + 2 ≤ 2 ^ k)
        exact ⟨by linarith, fun h => by linarith⟩
      · have hδ0 : ¬0 < δ := fun h => by simp [(htie heq).1] at hmore; linarith
        have : 2 * (rem : ℝ) = 2 ^ k := by exact_mod_cast heq
        exact ⟨by linarith, fun _ => (htie heq).2⟩
    have hmid : 2 * y ≤ 2 * n + 1 := le_of_mul_le_mul_right (by linarith [hsum.1]) hP
    refine ⟨by linarith, hmid, fun heq => hsum.2 ?_⟩
    have heq : 2 * y = 2 * (n : ℝ) + 1 := by rcases heq with heq | heq <;> linarith
    linear_combination 2 ^ k * heq - 2 * hy

/-- The step of one unit that moveUp decides. -/
theorem pick_moveUp (rnd : Rnd) (neg : Bool) (hk : 0 < k) :
    let r := if moveUp rnd neg (n % 2 == 1) rem (2 ^ k) more then n + 1 else n
    rnd.pick neg (NearInt y r) (DownInt y r) (UpInt y r) := by
  have hdown := downInt_of_parts hrem hy hδ hδ1
  have hup := upInt_of_parts hrem hy hδ hδ1 hmore
  cases rnd with
  | rne => exact nearInt_of_parts hrem hy hδ hδ1 hmore hk
  | rz => exact hdown
  | ru =>
    cases neg with
    | true => exact hdown
    | false => exact hup
  | rd =>
    cases neg with
    | true => exact hup
    | false => exact hdown
  | srnd _ => trivial

end

theorem two_zpow_toNat {e : Int} (h : 0 ≤ e) : (2 : ℝ) ^ e.toNat = 2 ^ e := by
  rw [← zpow_natCast, Int.toNat_of_nonneg h]

/-- A magnitude lies less than one unit above its integer, and above it when more is set. -/
theorem Mag.Holds.exists_excess {x : Mag} {v : ℝ} (h : x.Holds v) :
    ∃ δ : ℝ, v / 2 ^ x.e = x.m + δ ∧ 0 ≤ δ ∧ δ < 1 ∧ (x.more = true ↔ 0 < δ) := by
  have hP : (0 : ℝ) < 2 ^ x.e := by positivity
  refine ⟨v / 2 ^ x.e - x.m, by ring, ?_⟩
  unfold Mag.Holds at h
  split at h
  case isTrue hm =>
    obtain ⟨h1, h2⟩ := h
    rw [← lt_div_iff₀ hP] at h1
    rw [← div_lt_iff₀ hP] at h2
    exact ⟨by linarith, by linarith, fun _ => by linarith, fun _ => hm⟩
  case isFalse hm =>
    rw [h, mul_div_cancel_right₀ _ hP.ne']
    simp [hm]

/-- The units of 2^q of a magnitude are its quotient by 2^q, rounded. -/
theorem Mag.units_rounds {x : Mag} {v : ℝ} (hv : x.Holds v) {q : Int} (hq : x.more = true → x.e < q) (rnd : Rnd) (neg : Bool) :
    rnd.pick neg (NearInt (v / 2 ^ q) (x.units q rnd neg)) (DownInt (v / 2 ^ q) (x.units q rnd neg)) (UpInt (v / 2 ^ q) (x.units q rnd neg)) := by
  unfold Mag.units
  split
  case isTrue h =>
    have hm : x.more ≠ true := fun hm => by have := hq hm; omega
    have hv : v = x.m * 2 ^ x.e := by simpa [Mag.Holds, hm] using hv
    have he : v / 2 ^ q = ((x.m * 2 ^ (x.e - q).toNat : Nat) : ℝ) := by
      push_cast
      rw [two_zpow_toNat (by omega), zpow_sub₀ two_ne_zero, hv, mul_div_assoc]
    rw [he]
    exact pick_self rnd neg _
  case isFalse h =>
    have hscale : v / 2 ^ q * 2 ^ (q - x.e).toNat = v / 2 ^ x.e := by
      rw [two_zpow_toNat (by omega), zpow_sub₀ two_ne_zero]
      field_simp
    have hdiv : ((x.m / 2 ^ (q - x.e).toNat : Nat) : ℝ) * 2 ^ (q - x.e).toNat + (x.m % 2 ^ (q - x.e).toNat : Nat) = x.m := by
      exact_mod_cast Nat.div_add_mod' x.m (2 ^ (q - x.e).toNat)
    obtain ⟨δ, hδ, h0, h1, hmore⟩ := hv.exists_excess
    exact pick_moveUp (Nat.mod_lt _ (by positivity)) (by rw [hscale, hdiv, hδ]) h0 h1 hmore rnd neg (by omega)

theorem Fmt.point_binade (t : Fmt) {k n : Nat} (hn : n ≤ 2 ^ (t.fb + 1)) (hk : k = 0 ∨ 2 ^ t.fb ≤ n) :
    t.point (k * 2 ^ t.fb + n) = n * 2 ^ (t.qmin + k) := by
  rw [Fmt.point, t.grid_binade hn hk, zpow_add₀ two_ne_zero, zpow_natCast]
  push_cast; ring

section
variable {t : Fmt} {v : ℝ} {c : Nat}

/-- The lower of two neighbours is nearest to what lies between them, up to the middle. -/
theorem Fmt.nearest_lower (hlo : t.point c ≤ v) (hmid : 2 * v ≤ t.point c + t.point (c + 1))
    (htie : 2 * v = t.point c + t.point (c + 1) → c % 2 = 0) : t.Nearest v c := by
  have hmono := t.point_strictMono
  refine ⟨fun d hd => ?_, fun d hd => ?_⟩
  · have hle := hmono.monotone (show c + 1 ≤ d from hd)
    exact ⟨by linarith, fun heq => htie (hmid.antisymm (by linarith))⟩
  · have := hmono hd
    exact ⟨by linarith, fun heq => by linarith⟩

/-- The upper of two neighbours is nearest to what lies between them, from the middle on. -/
theorem Fmt.nearest_upper (hhi : v < t.point (c + 1)) (hmid : t.point c + t.point (c + 1) ≤ 2 * v)
    (htie : t.point c + t.point (c + 1) = 2 * v → (c + 1) % 2 = 0) : t.Nearest v (c + 1) := by
  have hmono := t.point_strictMono
  refine ⟨fun d hd => ?_, fun d hd => ?_⟩
  · have := hmono hd
    exact ⟨by linarith, fun heq => by linarith⟩
  · have hle := hmono.monotone (show d ≤ c from Nat.lt_succ_iff.1 hd)
    exact ⟨by linarith, fun heq => htie (hmid.antisymm (by linarith))⟩

theorem Fmt.above_self (hlo : t.point c ≤ v) (hle : v ≤ t.point c) : t.Above v c :=
  ⟨hle, fun _ hd => (t.point_strictMono hd).trans_le hlo⟩

theorem Fmt.above_upper (hlo : t.point c < v) (hhi : v < t.point (c + 1)) : t.Above v (c + 1) :=
  ⟨hhi.le, fun _ hd => (t.point_strictMono.monotone (Nat.lt_succ_iff.1 hd)).trans_lt hlo⟩

end

/-- A quotient by the spacing of its binade, rounded to an integer, is the code to which the magnitude rounds. -/
theorem Fmt.roundsTo_binade (t : Fmt) (hfb : 0 < t.fb) {k n : Nat} {rnd : Rnd} {neg : Bool} {v y : ℝ} (hv : v = y * 2 ^ (t.qmin + k))
    (h0 : 0 ≤ y) (hlt : y < 2 ^ (t.fb + 1)) (hge : k = 0 ∨ (2 : ℝ) ^ t.fb ≤ y) (h : rnd.pick neg (NearInt y n) (DownInt y n) (UpInt y n)) :
    t.RoundsTo rnd neg v (k * 2 ^ t.fb + n) := by
  have hQ : (0 : ℝ) < 2 ^ (t.qmin + k) := by positivity
  obtain ⟨f, hf⟩ : ∃ f, f = ⌊y⌋₊ := ⟨_, rfl⟩
  have hfy : (f : ℝ) ≤ y := hf ▸ Nat.floor_le h0
  have hyf : y < f + 1 := hf ▸ Nat.lt_floor_add_one y
  have hflt : f < 2 ^ (t.fb + 1) := by exact_mod_cast hfy.trans_lt hlt
  have hfge : k = 0 ∨ 2 ^ t.fb ≤ f := hge.imp_right fun h => hf ▸ Nat.le_floor (by exact_mod_cast h)
  have hpf : t.point (k * 2 ^ t.fb + f) = f * 2 ^ (t.qmin + k) := t.point_binade hflt.le hfge
  have hpf1 : t.point (k * 2 ^ t.fb + f + 1) = (f + 1) * 2 ^ (t.qmin + k) := by
    rw [Nat.add_assoc, t.point_binade hflt (hfge.imp_right (by omega))]; push_cast; rfl
  have hlow : t.point (k * 2 ^ t.fb + f) ≤ v := by rw [hpf, hv]; gcongr
  have hhigh : v < t.point (k * 2 ^ t.fb + f + 1) := by rw [hpf1, hv]; gcongr
  have heven : 2 ∣ k * 2 ^ t.fb := (dvd_pow_self 2 hfb.ne').mul_left k
  have hcast {a b : Nat} (h : (a : ℝ) < b + 1) : a ≤ b := Nat.lt_succ_iff.1 (by exact_mod_cast h)
  have hof {n : Nat} (hn : n ≤ f + 1) (hf : f ≤ n) : n = f ∨ n = f + 1 := by omega
  refine Rnd.pick_imp h ?near ?down ?up
  case near =>
    rintro ⟨h1, h2, htie⟩
    rcases hof (hcast (by push_cast; linarith)) (hcast (by linarith)) with rfl | rfl
    · refine Fmt.nearest_lower hlow (by rw [hpf, hpf1, hv]; nlinarith) fun heq => ?_
      rw [hpf, hpf1, hv] at heq
      have := htie (.inr (mul_right_cancel₀ hQ.ne' (by linear_combination heq)))
      omega
    · refine Fmt.nearest_upper (c := k * 2 ^ t.fb + f) hhigh (by rw [hpf, hpf1, hv]; push_cast at h1; nlinarith) fun heq => ?_
      rw [hpf, hpf1, hv] at heq
      have := htie (.inl (mul_right_cancel₀ hQ.ne' (by push_cast; linear_combination heq)))
      omega
  case down =>
    rintro ⟨h1, h2⟩
    obtain rfl : n = f := le_antisymm (hcast (by linarith)) (hcast (by linarith))
    exact ⟨hlow, hhigh⟩
  case up =>
    rintro ⟨h1, h2⟩
    rcases hof (hcast (by push_cast; linarith)) (hcast (by linarith)) with rfl | rfl
    · exact Fmt.above_self hlow (by rw [hpf, hv]; gcongr)
    · exact Fmt.above_upper (c := k * 2 ^ t.fb + f) (by rw [hpf, hv]; push_cast at h2; gcongr; linarith) hhigh

/-- Fmt.roundCode rounds a magnitude that is known exactly, or well enough for its place (R119). -/
theorem Fmt.roundCode_roundsTo (t : Fmt) (hfb : 0 < t.fb) (rnd : Rnd) (neg : Bool) {x : Mag} {v : ℝ} (hv : x.Holds v) (hm : x.m ≠ 0)
    (hq : x.more = true → x.e < max t.qmin (x.e + (x.m.log2 : Int) - t.fb)) : t.RoundsTo rnd neg v (t.roundCode rnd neg x) := by
  rw [Fmt.roundCode, if_neg (fun h => hm h.1)]
  extract_lets q
  have hP : (0 : ℝ) < 2 ^ x.e := by positivity
  have hQ : (0 : ℝ) < 2 ^ q := by positivity
  have hqmin : 0 ≤ q - t.qmin := by omega
  have hlt : (x.m : ℝ) + 1 ≤ 2 ^ (x.m.log2 + 1) := by exact_mod_cast (Nat.lt_log2_self : x.m < _)
  have hge : (2 : ℝ) ^ x.m.log2 ≤ x.m := by exact_mod_cast Nat.log2_self_le hm
  obtain ⟨δ, hδ, h0, h1, -⟩ := hv.exists_excess
  rw [div_eq_iff hP.ne'] at hδ
  refine t.roundsTo_binade hfb (y := v / 2 ^ q) ?_ ?_ ?_ ?_ (Mag.units_rounds hv hq rnd neg)
  · rw [Int.toNat_of_nonneg hqmin, add_sub_cancel, div_mul_cancel₀ _ hQ.ne']
  · rw [hδ]; positivity
  · rw [div_lt_iff₀ hQ]
    calc v < 2 ^ (x.m.log2 + 1) * 2 ^ x.e := by rw [hδ]; gcongr; linarith
      _ = 2 ^ ((x.m.log2 : Int) + 1 + x.e) := by rw [zpow_add₀ two_ne_zero]; norm_cast
      _ ≤ 2 ^ ((t.fb : Int) + 1 + q) := zpow_le_zpow_right₀ one_le_two (by omega)
      _ = 2 ^ (t.fb + 1) * 2 ^ q := by rw [zpow_add₀ two_ne_zero]; norm_cast
  · by_cases h : q = t.qmin
    · left; omega
    · right
      rw [le_div_iff₀ hQ]
      calc (2 : ℝ) ^ t.fb * 2 ^ q = 2 ^ ((t.fb : Int) + q) := by rw [zpow_add₀ two_ne_zero]; norm_cast
        _ = 2 ^ ((x.m.log2 : Int) + x.e) := by rw [show (t.fb : Int) + q = x.m.log2 + x.e by omega]
        _ = 2 ^ x.m.log2 * 2 ^ x.e := by rw [zpow_add₀ two_ne_zero]; norm_cast
        _ ≤ v := by rw [hδ]; gcongr; linarith

end Sys2Proof.Machine
end

section
namespace Sys2Proof.Machine
open Sys2Proof Sys2Proof.Claims

/-! ### Codes with a sign (R163) -/

/-- A format whose largest finite code is followed by the infinity, in the spacing of the last binade (R163). -/
structure Fmt.Regular (t : Fmt) : Prop where
  fb_pos : 0 < t.fb
  mag_pos : 0 < t.mag
  top_pos : 0 < t.top
  top_lt : t.top + 1 < 2 ^ t.mag
  top_step : t.grid (t.top + 1) + t.grid (t.top - 1) = 2 * t.grid t.top
  inf_eq : t.inf = some (t.top + 1)

theorem fp32_regular : fp32.Regular := ⟨by decide, by decide, by decide, by decide, by decide, rfl⟩

/-- A code's magnitude bits. -/
def Fmt.bare (t : Fmt) (c : Nat) : Nat := c % 2 ^ t.mag

theorem Fmt.bare_signed (t : Fmt) (neg : Bool) {c : Nat} (h : c < 2 ^ t.mag) : t.bare (t.signed neg c) = c := by
  cases neg <;> simp [Fmt.bare, Fmt.signed, Nat.mod_eq_of_lt h]

theorem Fmt.negative_signed (t : Fmt) (neg : Bool) {c : Nat} (h : c < 2 ^ t.mag) : negative t (t.signed neg c) = neg := by
  cases neg <;> simp [negative, Fmt.signed, Nat.div_eq_of_lt h, Nat.add_div_left]

theorem Fmt.signed_lt (t : Fmt) (neg : Bool) {c : Nat} (h : c < 2 ^ t.mag) : t.signed neg c < 2 ^ (t.mag + 1) := by
  unfold Fmt.signed; rw [pow_succ]; split <;> omega

theorem Fmt.signed_mod_two {t : Fmt} (ht : t.Regular) (neg : Bool) (c : Nat) : t.signed neg c % 2 = c % 2 := by
  have : 2 ∣ 2 ^ t.mag := dvd_pow_self 2 ht.mag_pos.ne'
  unfold Fmt.signed; split <;> omega

/-- The value of a code from its sign and its magnitude bits. -/
theorem Fmt.value_eq (t : Fmt) (c : Nat) : t.value c =
    if t.top < t.bare c then (if t.inf = some (t.bare c) then .inf (negative t c) else .nan)
    else if t.bare c < 2 ^ t.fb then .fin (negative t c) (t.bare c) t.qmin
    else .fin (negative t c) (2 ^ t.fb + t.bare c % 2 ^ t.fb) (t.qmin + (t.bare c / 2 ^ t.fb - 1 : Nat)) := rfl

/-- A code at most the largest finite one names its number of units; the exponent is at least that of the units. -/
theorem Fmt.value_of_le_top (t : Fmt) {c : Nat} (h : t.bare c ≤ t.top) :
    ∃ m e, t.value c = .fin (negative t c) m e ∧ t.qmin ≤ e ∧ m * 2 ^ (e - t.qmin).toNat = t.grid (t.bare c) := by
  rw [t.value_eq, if_neg (Nat.not_lt.2 h), Fmt.grid]
  split
  · exact ⟨_, _, rfl, le_rfl, by simp⟩
  · exact ⟨_, _, rfl, by omega, by simp⟩

theorem Fmt.value_of_top_lt (t : Fmt) {c : Nat} (h : t.top < t.bare c) :
    t.value c = if t.inf = some (t.bare c) then .inf (negative t c) else .nan := by
  rw [t.value_eq, if_pos h]

theorem Fmt.finite_iff (t : Fmt) (c : Nat) : finite t c = true ↔ t.bare c ≤ t.top := by
  by_cases h : t.bare c ≤ t.top
  · obtain ⟨m, e, hv, -⟩ := t.value_of_le_top h
    simp [finite, hv, h]
  · rw [finite, t.value_of_top_lt (by omega)]
    by_cases hi : t.inf = some (t.bare c) <;> simp [hi, h]

theorem Fmt.value_infCode {t : Fmt} (ht : t.Regular) (neg : Bool) : t.value (t.infCode neg) = .inf neg := by
  have hlt := ht.top_lt
  have hc : t.infCode neg = t.signed neg (t.top + 1) := by rw [Fmt.infCode, ht.inf_eq]; rfl
  rw [hc, t.value_of_top_lt (by rw [t.bare_signed neg hlt]; omega), t.bare_signed neg hlt, if_pos ht.inf_eq, t.negative_signed neg hlt]

/-- A sign as a factor. -/
noncomputable def signOf (neg : Bool) : ℝ := if neg then -1 else 1

@[simp] theorem signOf_true : signOf true = -1 := rfl
@[simp] theorem signOf_false : signOf false = 1 := rfl
@[simp] theorem abs_signOf (neg : Bool) : |signOf neg| = 1 := by cases neg <;> simp

/-- The number that a finite code names. -/
noncomputable def Fmt.real (t : Fmt) (c : Nat) : ℝ := signOf (negative t c) * t.point (t.bare c)

/-- The number of a finite code, counted in the direction of a sign. -/
noncomputable def Fmt.along (t : Fmt) (neg : Bool) (c : Nat) : ℝ := signOf neg * t.real c

theorem Fmt.along_eq (t : Fmt) (neg : Bool) (c : Nat) : t.along neg c = t.point (t.bare c) ∨ t.along neg c = -t.point (t.bare c) := by
  unfold Fmt.along Fmt.real
  cases neg <;> cases negative t c <;> simp

theorem Fmt.along_signed (t : Fmt) (neg : Bool) {c : Nat} (h : c < 2 ^ t.mag) : t.along neg (t.signed neg c) = t.point c := by
  unfold Fmt.along Fmt.real
  rw [t.negative_signed neg h, t.bare_signed neg h]
  cases neg <;> simp

theorem Fmt.real_eq_along (t : Fmt) (neg : Bool) (c : Nat) : t.real c = signOf neg * t.along neg c := by
  unfold Fmt.along
  cases neg <;> simp

/-- The number of a finite code in units of 2^E. -/
theorem Fmt.units_value (t : Fmt) {c : Nat} (h : finite t c = true) {E : Int} (hE : E ≤ t.qmin) :
    (units E (t.value c) : ℝ) = t.real c / 2 ^ E := by
  obtain ⟨m, e, hv, he, hg⟩ := t.value_of_le_top ((t.finite_iff c).1 h)
  have hsplit : (2 : ℝ) ^ (e - E).toNat = 2 ^ (e - t.qmin).toNat * 2 ^ t.qmin / 2 ^ E := by
    rw [two_zpow_toNat (by omega), two_zpow_toNat (by omega), ← zpow_add₀ two_ne_zero, ← zpow_sub₀ two_ne_zero, sub_add_cancel]
  rw [hv, Fmt.real, Fmt.point, ← hg]
  simp only [units, signOf]
  push_cast
  rw [hsplit]
  ring

/-! ### Rounded results (R119, R126) -/

section
variable {t : Fmt} {v : ℝ} {K : Nat}

theorem Fmt.Nearest.abs_lt_or (h : t.Nearest v K) (hv : 0 ≤ v) {y : ℝ} {u : Nat} (hy : y = t.point u ∨ y = -t.point u) :
    |t.point K - v| < |y - v| ∨ (|t.point K - v| = |y - v| ∧ (y = t.point K ∨ K % 2 = 0)) := by
  have hmono := t.point_strictMono
  obtain ⟨h1, h2⟩ := h
  have hK := t.point_nonneg K
  rcases hy with rfl | rfl
  · rcases lt_trichotomy K u with hlt | rfl | hgt
    · obtain ⟨h3, h4⟩ := h1 u hlt
      have hpt := hmono hlt
      have habs : |t.point u - v| = t.point u - v := abs_of_nonneg (by linarith)
      rw [habs]
      rcases h3.lt_or_eq with h3 | h3
      · exact .inl (abs_lt.2 ⟨by linarith, by linarith⟩)
      · exact .inr ⟨by rw [abs_of_nonpos (by linarith)]; linarith, .inr (h4 h3)⟩
    · exact .inr ⟨rfl, .inl rfl⟩
    · obtain ⟨h3, h4⟩ := h2 u hgt
      have hpt := hmono hgt
      have habs : |t.point u - v| = v - t.point u := by rw [abs_of_nonpos (by linarith)]; ring
      rw [habs]
      rcases h3.lt_or_eq with h3 | h3
      · exact .inl (abs_lt.2 ⟨by linarith, by linarith⟩)
      · exact .inr ⟨by rw [abs_of_nonneg (by linarith)]; linarith, .inr (h4 h3)⟩
  · have hu := t.point_nonneg u
    have habs : |-t.point u - v| = v + t.point u := by rw [abs_of_nonpos (by linarith)]; ring
    rw [habs]
    rcases Nat.eq_zero_or_pos K with rfl | hpos
    · rw [t.point_zero, zero_sub, abs_neg, abs_of_nonneg hv]
      rcases hu.lt_or_eq with hu | hu
      · exact .inl (by linarith)
      · exact .inr ⟨by linarith, .inr rfl⟩
    · obtain ⟨h3, h4⟩ := h2 0 hpos
      have hpt := hmono hpos
      rw [t.point_zero] at h3 h4 hpt
      rcases h3.lt_or_eq with h3 | h3
      · exact .inl (abs_lt.2 ⟨by linarith, by linarith⟩)
      · rcases hu.lt_or_eq with hu | hu
        · exact .inl (by rw [abs_of_nonneg (by linarith)]; linarith)
        · exact .inr ⟨by rw [abs_of_nonneg (by linarith)]; linarith, .inr (h4 h3)⟩

theorem Fmt.Below.le_point (h : t.Below v K) {y : ℝ} {u : Nat} (hy : y = t.point u ∨ y = -t.point u) (hle : y ≤ v) : y ≤ t.point K := by
  rcases hy with rfl | rfl
  · exact t.point_strictMono.monotone (Nat.lt_succ_iff.1 (t.point_strictMono.lt_iff_lt.1 (hle.trans_lt h.2)))
  · linarith [t.point_nonneg u, t.point_nonneg K]

theorem Fmt.Above.point_le (h : t.Above v K) (hv : 0 < v) {y : ℝ} {u : Nat} (hy : y = t.point u ∨ y = -t.point u) (hle : v ≤ y) : t.point K ≤ y := by
  rcases hy with rfl | rfl
  · exact t.point_strictMono.monotone (Nat.not_lt.1 fun hlt => (h.2 u hlt).not_ge hle)
  · linarith [t.point_nonneg u]

/-- Where the rounding of v leaves the finite codes. -/
theorem Fmt.RoundsTo.top_lt_iff {rnd : Rnd} {neg : Bool} (h : t.RoundsTo rnd neg v K) :
    rnd.pick neg (t.top < K ↔ t.point t.top + t.point (t.top + 1) < 2 * v ∨ (t.point t.top + t.point (t.top + 1) = 2 * v ∧ t.top % 2 = 1))
      (t.top < K ↔ t.point (t.top + 1) ≤ v) (t.top < K ↔ t.point t.top < v) := by
  have hmono := t.point_strictMono
  refine Rnd.pick_imp h ?_ ?_ ?_
  · rintro ⟨h1, h2⟩
    constructor
    · intro hK
      have hle := hmono.monotone (show t.top + 1 ≤ K from hK)
      obtain ⟨h3, h4⟩ := h2 t.top hK
      rcases (show t.point t.top + t.point (t.top + 1) ≤ 2 * v by linarith).lt_or_eq with hlt | heq
      · exact .inl hlt
      · have hKtop : K = t.top + 1 := hmono.injective (by linarith)
        have := h4 (by linarith)
        exact .inr ⟨heq, by omega⟩
    · intro hv
      by_contra hK
      have hle := hmono.monotone (show K ≤ t.top by omega)
      obtain ⟨h3, h4⟩ := h1 (t.top + 1) (by omega)
      rcases hv with hv | ⟨hv, hodd⟩
      · linarith
      · have hKtop : K = t.top := hmono.injective (by linarith)
        have := h4 (by linarith)
        omega
  · rintro ⟨h1, h2⟩
    constructor
    · intro hK; exact (hmono.monotone (show t.top + 1 ≤ K from hK)).trans h1
    · intro hv; exact Nat.lt_of_succ_lt_succ (hmono.lt_iff_lt.1 (hv.trans_lt h2))
  · rintro ⟨h1, h2⟩
    constructor
    · intro hK; exact h2 _ hK
    · intro hv; exact hmono.lt_iff_lt.1 (hv.trans_le h1)

end

/-- The code without a sign to which v rounds, as a code with a sign: where it lies beyond the finite ones, what the direction makes of an overflow (R126). -/
def Fmt.deliver (t : Fmt) (rnd : Rnd) (neg : Bool) (K : Nat) : Nat := if t.top < K then t.overflow rnd neg else t.signed neg K

theorem Fmt.round_eq_deliver (t : Fmt) (rnd : Rnd) (neg : Bool) (x : Mag) : t.round rnd neg x = t.deliver rnd neg (t.roundCode rnd neg x) := rfl

theorem Fmt.deliver_of_le_top {t : Fmt} {K : Nat} (h : K ≤ t.top) (rnd : Rnd) (neg : Bool) : t.deliver rnd neg K = t.signed neg K :=
  if_neg (Nat.not_lt.2 h)

theorem Fmt.deliver_of_top_lt {t : Fmt} {K : Nat} (h : t.top < K) (rnd : Rnd) (neg : Bool) : t.deliver rnd neg K = t.overflow rnd neg :=
  if_pos h

/-- What the model gives for an overflow meets the rule (R126). -/
theorem Fmt.ieeeOver_overflow {t : Fmt} (ht : t.Regular) (rnd : Rnd) (neg : Bool) : ieeeOver t rnd neg (t.overflow rnd neg) := by
  have hinf := Fmt.value_infCode ht neg
  have hlargest : t.signed neg t.top = t.top + if neg then 2 ^ t.mag else 0 := Nat.add_comm _ _
  cases rnd with
  | rne => exact hinf
  | rz => exact hlargest
  | srnd r => exact hlargest
  | ru => cases neg with
    | true => exact hlargest
    | false => exact hinf
  | rd => cases neg with
    | true => exact hinf
    | false => exact hlargest

/-- The integer i stands for the real number y of a sign, in units of which lam make one. -/
def Measures (lam : ℝ) (neg : Bool) (i : Int) (y : ℝ) : Prop := (i : ℝ) = lam * (signOf neg * y)

section
variable {lam : ℝ} {neg : Bool} {i j : Int} {y z : ℝ}

theorem Measures.le_iff (hlam : 0 < lam) (hi : Measures lam neg i y) (hj : Measures lam neg j z) :
    i ≤ j ↔ if neg then z ≤ y else y ≤ z := by
  rw [← Int.cast_le (R := ℝ), hi, hj, mul_le_mul_iff_right₀ hlam]
  cases neg <;> simp

theorem Measures.sub (hi : Measures lam neg i y) (hj : Measures lam neg j z) : Measures lam neg (i - j) (y - z) := by
  unfold Measures at *
  push_cast
  rw [hi, hj]; ring

theorem Measures.natAbs (hlam : 0 < lam) (hi : Measures lam neg i y) : (i.natAbs : ℝ) = lam * |y| := by
  rw [Nat.cast_natAbs, Int.cast_abs, hi, abs_mul, abs_mul, abs_of_pos hlam, abs_signOf, one_mul]

theorem Measures.natAbs_lt_iff (hlam : 0 < lam) (hi : Measures lam neg i y) (hj : Measures lam neg j z) : i.natAbs < j.natAbs ↔ |y| < |z| := by
  rw [← Nat.cast_lt (α := ℝ), hi.natAbs hlam, hj.natAbs hlam, mul_lt_mul_iff_right₀ hlam]

theorem Measures.natAbs_eq_iff (hlam : 0 < lam) (hi : Measures lam neg i y) (hj : Measures lam neg j z) : i.natAbs = j.natAbs ↔ |y| = |z| := by
  rw [← Nat.cast_inj (R := ℝ), hi.natAbs hlam, hj.natAbs hlam, mul_right_inj' hlam.ne']

theorem Measures.eq_of_eq (hi : Measures lam neg i y) (hj : Measures lam neg j y) : i = j := by
  exact_mod_cast hi.trans hj.symm

theorem Measures.lt_zero_iff (hlam : 0 < lam) (hi : Measures lam neg i y) (hy : 0 < y) : i < 0 ↔ neg = true := by
  rw [← Int.cast_lt (R := ℝ), hi]
  cases neg <;> simp <;> positivity

/-- Overflow in units (R126), for a spacing that carries the largest finite number m to m'. -/
theorem Measures.overflows_iff (hlam : 0 < lam) (hi : Measures lam neg i y) (hy : 0 < y) {rnd : Rnd} (hr : ∀ r, rnd ≠ .srnd r) {odd : Bool}
    {m u : Nat} {p p' : ℝ} (hm : (m : ℝ) = lam * p) (hu : ((m + u : Nat) : ℝ) = lam * p') :
    Overflows rnd odd i m u ↔ rnd.pick neg (p + p' < 2 * y ∨ (p + p' = 2 * y ∧ odd = true)) (p' ≤ y) (p < y) := by
  have habs : (i.natAbs : ℝ) = lam * y := by rw [hi.natAbs hlam, abs_of_pos hy]
  have hdown : m + u ≤ i.natAbs ↔ p' ≤ y := by rw [← Nat.cast_le (α := ℝ), hu, habs, mul_le_mul_iff_right₀ hlam]
  have hup : m < i.natAbs ↔ p < y := by rw [← Nat.cast_lt (α := ℝ), hm, habs, mul_lt_mul_iff_right₀ hlam]
  have hsum : ((2 * m + u : Nat) : ℝ) = lam * (p + p') := by push_cast at hu ⊢; linarith
  have hdbl : ((2 * i.natAbs : Nat) : ℝ) = lam * (2 * y) := by push_cast; rw [habs]; ring
  have hlt : 2 * m + u < 2 * i.natAbs ↔ p + p' < 2 * y := by rw [← Nat.cast_lt (α := ℝ), hsum, hdbl, mul_lt_mul_iff_right₀ hlam]
  have heq : 2 * m + u = 2 * i.natAbs ↔ p + p' = 2 * y := by rw [← Nat.cast_inj (R := ℝ), hsum, hdbl, mul_right_inj' hlam.ne']
  have hneg := hi.lt_zero_iff hlam hy
  cases rnd with
  | rne => simp only [Overflows, Rnd.pick, hlt, heq]
  | rz => exact hdown
  | ru => cases neg <;> simp [Overflows, Rnd.pick, hneg, hdown, hup]
  | rd => cases neg <;> simp [Overflows, Rnd.pick, hneg, hdown, hup]
  | srnd r => exact absurd rfl (hr r)

end

/-- Integers x and V stand for the magnitude v of a sign and for the numbers of the finite codes. -/
structure Fmt.Measured (t : Fmt) (lam : ℝ) (neg : Bool) (v : ℝ) (x : Int) (V : Nat → Int) : Prop where
  lam_pos : 0 < lam
  pos : 0 < v
  value : Measures lam neg x v
  code : ∀ d, finite t d = true → Measures lam neg (V d) (t.along neg d)

section
variable {t : Fmt} {lam v : ℝ} {neg : Bool} {x : Int} {V : Nat → Int} {K : Nat}

theorem Fmt.bare_of_le_top {t : Fmt} (ht : t.Regular) {c : Nat} (hc : c ≤ t.top) : t.bare c = c :=
  Nat.mod_eq_of_lt (by have := ht.top_lt; omega)

theorem Fmt.finite_signed (ht : t.Regular) (neg : Bool) (hK : K ≤ t.top) : finite t (t.signed neg K) = true := by
  rw [t.finite_iff, t.bare_signed neg (by have := ht.top_lt; omega)]; exact hK

theorem Fmt.Measured.signed (h : t.Measured lam neg v x V) (ht : t.Regular) (hK : K ≤ t.top) : Measures lam neg (V (t.signed neg K)) (t.point K) :=
  t.along_signed neg (show K < 2 ^ t.mag by have := ht.top_lt; omega) ▸ h.code _ (Fmt.finite_signed ht neg hK)

theorem Fmt.Measured.natAbs_code (h : t.Measured lam neg v x V) {d : Nat} (hd : finite t d = true) : ((V d).natAbs : ℝ) = lam * t.point (t.bare d) := by
  rw [(h.code d hd).natAbs h.lam_pos]
  rcases t.along_eq neg d with hy | hy <;> rw [hy] <;> simp [abs_of_nonneg (t.point_nonneg _)]

/-- The overflow that the rule states is that of the code (R126). -/
theorem Fmt.Measured.overflows_iff (h : t.Measured lam neg v x V) (ht : t.Regular) {rnd : Rnd} (hr : ∀ r, rnd ≠ .srnd r) (hK : t.RoundsTo rnd neg v K) :
    Overflows rnd (t.top % 2 == 1) x (V t.top).natAbs ((V t.top).natAbs - (V (t.top - 1)).natAbs) ↔ t.top < K := by
  have hcode {c : Nat} (hc : c ≤ t.top) : ((V c).natAbs : ℝ) = lam * t.point c := by
    have hb := Fmt.bare_of_le_top ht hc
    rw [h.natAbs_code ((t.finite_iff c).2 (hb.trans_le hc)), hb]
  have hm := hcode le_rfl
  have hm1 := hcode (Nat.sub_le t.top 1)
  have hle : (V (t.top - 1)).natAbs ≤ (V t.top).natAbs := by
    rw [← Nat.cast_le (α := ℝ), hm, hm1, mul_le_mul_iff_right₀ h.lam_pos]
    exact t.point_strictMono.monotone (Nat.sub_le _ _)
  have hstep : t.point (t.top + 1) + t.point (t.top - 1) = 2 * t.point t.top := by
    unfold Fmt.point
    rw [← add_mul, ← mul_assoc]
    congr 1
    exact_mod_cast ht.top_step
  have hu : (((V t.top).natAbs + ((V t.top).natAbs - (V (t.top - 1)).natAbs) : Nat) : ℝ) = lam * t.point (t.top + 1) := by
    rw [Nat.cast_add, Nat.cast_sub hle, hm, hm1]
    linear_combination -lam * hstep
  rw [h.value.overflows_iff h.lam_pos h.pos hr hm hu, beq_iff_eq]
  have htop := hK.top_lt_iff
  cases rnd with
  | rne => exact htop.symm
  | rz => exact htop.symm
  | ru => cases neg <;> exact htop.symm
  | rd => cases neg <;> exact htop.symm
  | srnd r => exact absurd rfl (hr r)

/-- The nearest code, of two the even one. -/
theorem Fmt.Measured.nearest (h : t.Measured lam neg v x V) (ht : t.Regular) (hK : K ≤ t.top) (hn : t.Nearest v K) (d : Nat) (hd : finite t d = true) :
    (V (t.signed neg K) - x).natAbs < (V d - x).natAbs ∨
      ((V (t.signed neg K) - x).natAbs = (V d - x).natAbs ∧ (V d = V (t.signed neg K) ∨ t.signed neg K % 2 = 0)) := by
  have hc := (h.signed ht hK).sub h.value
  have hd' := (h.code d hd).sub h.value
  rw [hc.natAbs_lt_iff h.lam_pos hd', hc.natAbs_eq_iff h.lam_pos hd', Fmt.signed_mod_two ht]
  refine (hn.abs_lt_or h.pos.le (t.along_eq neg d)).imp_right fun ⟨h1, h2⟩ => ⟨h1, h2.imp_left fun h3 => ?_⟩
  exact (h.code d hd).eq_of_eq (h3 ▸ h.signed ht hK)

/-- The largest code in magnitude that does not exceed the value. -/
theorem Fmt.Measured.truncated (h : t.Measured lam neg v x V) (ht : t.Regular) (hK : K ≤ t.top) (hb : t.Below v K) :
    (V (t.signed neg K)).natAbs ≤ x.natAbs ∧
      ∀ d, finite t d = true → (V d).natAbs ≤ x.natAbs → (V d).natAbs ≤ (V (t.signed neg K)).natAbs := by
  have hx : (x.natAbs : ℝ) = lam * v := by rw [h.value.natAbs h.lam_pos, abs_of_pos h.pos]
  have hc : ((V (t.signed neg K)).natAbs : ℝ) = lam * t.point K := by
    rw [(h.signed ht hK).natAbs h.lam_pos, abs_of_nonneg (t.point_nonneg K)]
  refine ⟨?_, fun d hd => ?_⟩
  · rw [← Nat.cast_le (α := ℝ), hc, hx, mul_le_mul_iff_right₀ h.lam_pos]; exact hb.1
  · rw [← Nat.cast_le (α := ℝ), ← Nat.cast_le (α := ℝ), hc, hx, h.natAbs_code hd, mul_le_mul_iff_right₀ h.lam_pos, mul_le_mul_iff_right₀ h.lam_pos]
    exact hb.le_point (.inl rfl)

/-- The greatest code not above a positive value is the least not below a negative one. -/
theorem Fmt.Measured.toward (h : t.Measured lam neg v x V) (ht : t.Regular) (hK : K ≤ t.top) (hb : t.Below v K) :
    if neg then x ≤ V (t.signed neg K) ∧ ∀ d, finite t d = true → x ≤ V d → V (t.signed neg K) ≤ V d
    else V (t.signed neg K) ≤ x ∧ ∀ d, finite t d = true → V d ≤ x → V d ≤ V (t.signed neg K) := by
  have hc := h.signed ht hK
  have hle (d : Nat) := hb.le_point (t.along_eq neg d)
  cases neg with
  | true =>
    refine ⟨(h.value.le_iff h.lam_pos hc).2 hb.1, fun d hd => ?_⟩
    rw [h.value.le_iff h.lam_pos (h.code d hd), hc.le_iff h.lam_pos (h.code d hd)]
    exact hle d
  | false =>
    refine ⟨(hc.le_iff h.lam_pos h.value).2 hb.1, fun d hd => ?_⟩
    rw [(h.code d hd).le_iff h.lam_pos h.value, (h.code d hd).le_iff h.lam_pos hc]
    exact hle d

/-- The least code not below a positive value is the greatest not above a negative one. -/
theorem Fmt.Measured.away (h : t.Measured lam neg v x V) (ht : t.Regular) (hK : K ≤ t.top) (ha : t.Above v K) :
    if neg then V (t.signed neg K) ≤ x ∧ ∀ d, finite t d = true → V d ≤ x → V d ≤ V (t.signed neg K)
    else x ≤ V (t.signed neg K) ∧ ∀ d, finite t d = true → x ≤ V d → V (t.signed neg K) ≤ V d := by
  have hc := h.signed ht hK
  have hle (d : Nat) := ha.point_le h.pos (t.along_eq neg d)
  cases neg with
  | true =>
    refine ⟨(hc.le_iff h.lam_pos h.value).2 ha.1, fun d hd => ?_⟩
    rw [(h.code d hd).le_iff h.lam_pos h.value, (h.code d hd).le_iff h.lam_pos hc]
    exact hle d
  | false =>
    refine ⟨(h.value.le_iff h.lam_pos hc).2 ha.1, fun d hd => ?_⟩
    rw [h.value.le_iff h.lam_pos (h.code d hd), hc.le_iff h.lam_pos (h.code d hd)]
    exact hle d

end

/-- One rounding, as the rule of R119 states it: a code to which the magnitude rounds meets it, also where it overflows. -/
theorem Fmt.rounded_deliver {t : Fmt} (ht : t.Regular) {rnd : Rnd} (hr : ∀ r, rnd ≠ .srnd r) {num : Int} {den : Nat} {e : Int} {v : ℝ} {K : Nat}
    (hv : 0 < v) (hden : 0 < den) (hnum : (num : ℝ) * 2 ^ e = signOf (decide (num < 0)) * v * den) (h : t.RoundsTo rnd (decide (num < 0)) v K) :
    Rounded t rnd (ieeeOver t rnd) num den e (t.deliver rnd (decide (num < 0)) K) := by
  obtain ⟨neg, hneg⟩ : ∃ neg, neg = decide (num < 0) := ⟨_, rfl⟩
  unfold Rounded
  extract_lets E x V m truncated
  rw [← hneg] at hnum h ⊢
  have hme : t.Measured (den / 2 ^ E) neg v x V := by
    refine ⟨by positivity, hv, ?_, fun d hd => ?_⟩
    · rw [Measures, show (x : ℝ) = num * 2 ^ e / 2 ^ E by
        simp only [x]; push_cast; rw [two_zpow_toNat (by omega), zpow_sub₀ two_ne_zero, mul_div_assoc], hnum]
      ring
    · rw [Measures, ← t.real_eq_along, show (V d : ℝ) = t.real d / 2 ^ E * den by
        simp only [V]; push_cast; rw [t.units_value hd (by omega)]]
      ring
  have hover : Overflows rnd (t.top % 2 == 1) x m (m - (V (t.top - 1)).natAbs) ↔ t.top < K := hme.overflows_iff ht hr h
  refine ⟨fun ho => ?_, fun hno => ?_⟩
  · rw [Fmt.deliver_of_top_lt (hover.1 ho)]
    exact Fmt.ieeeOver_overflow ht rnd neg
  · have hK : K ≤ t.top := Nat.not_lt.1 (mt hover.2 hno)
    have hfin := Fmt.finite_signed ht neg hK
    have hsign : negative t (t.signed neg K) = neg := t.negative_signed neg (by have := ht.top_lt; omega)
    rw [Fmt.deliver_of_le_top hK]
    refine ⟨hfin, hsign, ?_⟩
    cases rnd with
    | rne => exact hme.nearest ht hK h
    | rz => exact ⟨hfin, hsign.trans hneg, hme.truncated ht hK h⟩
    | ru =>
      cases neg with
      | true => exact hme.toward ht hK h
      | false => exact hme.away ht hK h
    | rd =>
      cases neg with
      | true => exact hme.away ht hK h
      | false => exact hme.toward ht hK h
    | srnd r => exact absurd rfl (hr r)

end Sys2Proof.Machine
end

section
namespace Sys2Proof.Machine
open Sys2Proof Sys2Proof.Claims

/-! ### Canonical results (R119) -/

/-- A code of the format whose NaN, if it is one, is the canonical one. -/
def Fmt.Canonical (t : Fmt) (c : Nat) : Prop := c < 2 ^ (t.mag + 1) ∧ t.canon c = c

theorem Fmt.canon_of_ne_nan {t : Fmt} {c : Nat} (h : t.value c ≠ .nan) : t.canon c = c := by
  unfold Fmt.canon
  split
  case h_1 heq => exact absurd heq h
  case h_2 => rfl

theorem Fmt.value_ne_nan_of_finite {t : Fmt} {c : Nat} (h : finite t c = true) : t.value c ≠ .nan := by
  intro hn; simp [finite, hn] at h

theorem canonical_nanCode : fp32.Canonical fp32.nanCode := ⟨by decide, by decide⟩

theorem Fmt.canonical_infCode {t : Fmt} (ht : t.Regular) (neg : Bool) : t.Canonical (t.infCode neg) := by
  refine ⟨?_, Fmt.canon_of_ne_nan (by rw [Fmt.value_infCode ht]; simp)⟩
  rw [Fmt.infCode, ht.inf_eq]
  exact t.signed_lt neg ht.top_lt

theorem Fmt.canonical_signed {t : Fmt} (ht : t.Regular) (neg : Bool) {K : Nat} (hK : K ≤ t.top) : t.Canonical (t.signed neg K) :=
  ⟨t.signed_lt neg (by have := ht.top_lt; omega), Fmt.canon_of_ne_nan (Fmt.value_ne_nan_of_finite (Fmt.finite_signed ht neg hK))⟩

theorem Fmt.canonical_deliver {t : Fmt} (ht : t.Regular) (rnd : Rnd) (neg : Bool) (K : Nat) : t.Canonical (t.deliver rnd neg K) := by
  have hinf := Fmt.canonical_infCode ht neg
  have htop := Fmt.canonical_signed ht neg le_rfl
  unfold Fmt.deliver
  split
  case isFalse h => exact Fmt.canonical_signed ht neg (Nat.not_lt.1 h)
  case isTrue =>
    cases rnd with
    | rne => exact hinf
    | rz => exact htop
    | srnd r => exact htop
    | ru => cases neg with
      | true => exact htop
      | false => exact hinf
    | rd => cases neg with
      | true => exact hinf
      | false => exact htop

/-- The modifiers of R119 keep a code within the format. -/
theorem Fmt.modify_lt (t : Fmt) (neg abs : Bool) (c : Nat) : t.modify neg abs c < 2 ^ (t.mag + 1) :=
  t.signed_lt _ (Nat.mod_lt _ (by positivity))

/-! ### The order of codes (R121) -/

/-- The number of a finite value. -/
noncomputable def Fp.real : Fp → ℝ
  | .fin n m e => signOf n * (m * 2 ^ e)
  | _ => 0

theorem Fmt.value_real (t : Fmt) {c : Nat} (h : finite t c = true) : (t.value c).real = t.real c := by
  obtain ⟨m, e, hv, he, hg⟩ := t.value_of_le_top ((t.finite_iff c).1 h)
  rw [hv, Fmt.real, Fmt.point, ← hg, Fp.real]
  push_cast
  rw [two_zpow_toNat (by omega), mul_assoc, ← zpow_add₀ two_ne_zero, sub_add_cancel]

/-- A difference of finite values has its sign. -/
theorem addExact_neg_iff (na nb : Bool) (ma mb : Nat) (ea eb : Int) :
    (addExact na ma ea (!nb) mb eb).1 < 0 ↔ (Fp.fin na ma ea).real < (Fp.fin nb mb eb).real := by
  have hE : (0 : ℝ) < 2 ^ min ea eb := by positivity
  have hpow {e : Int} (he : min ea eb ≤ e) : (2 : ℝ) ^ e = 2 ^ (e - min ea eb).toNat * 2 ^ min ea eb := by
    rw [two_zpow_toNat (by omega), ← zpow_add₀ two_ne_zero, sub_add_cancel]
  have hsum : (Fp.fin na ma ea).real - (Fp.fin nb mb eb).real = ((addExact na ma ea (!nb) mb eb).1 : ℝ) * 2 ^ min ea eb := by
    simp only [Fp.real, addExact]
    rw [hpow (min_le_left ea eb), hpow (min_le_right ea eb)]
    cases na <;> cases nb <;> (simp; ring)
  rw [← sub_neg (a := (Fp.fin na ma ea).real), hsum, ← Int.cast_lt (R := ℝ), Int.cast_zero, mul_neg_iff]
  simp [hE, hE.not_gt]

/-- A code that is no NaN is finite or an infinity. -/
theorem Fmt.finite_or_inf {t : Fmt} (ht : t.Regular) {c : Nat} (h : t.value c ≠ .nan) :
    (∃ m e, t.value c = .fin (negative t c) m e ∧ t.bare c ≤ t.top ∧ (m = 0 ↔ t.bare c = 0)) ∨
      (t.value c = .inf (negative t c) ∧ t.bare c = t.top + 1) := by
  by_cases hc : t.bare c ≤ t.top
  · obtain ⟨m, e, hv, -, hg⟩ := t.value_of_le_top hc
    refine .inl ⟨m, e, hv, hc, ?_⟩
    have hz : t.grid (t.bare c) = 0 ↔ t.bare c = 0 := by
      rw [← t.grid_strictMono.injective.eq_iff (a := t.bare c) (b := 0), t.grid_zero]
    rw [← hz, ← hg]
    simp
  · right
    rw [t.value_of_top_lt (by omega), ht.inf_eq] at h ⊢
    by_cases hi : t.bare c = t.top + 1
    · simp [hi]
    · exact absurd (if_neg (by simpa using Ne.symm hi)) h

theorem Fmt.rank_eq (t : Fmt) (c : Nat) : rank t c = if negative t c then -1 - (t.bare c : Int) else t.bare c := rfl

/-- Two numbers of which not both are zero are in the order of their codes, read with their signs. -/
theorem Fmt.signOf_point_lt_iff (t : Fmt) {na nb : Bool} {u w : Nat} (h : 0 < u + w) : signOf na * t.point u < signOf nb * t.point w ↔
    (if na then -1 - (u : Int) else u) < if nb then -1 - (w : Int) else w := by
  have hmono := t.point_strictMono
  have hu := t.point_nonneg u
  have hw := t.point_nonneg w
  cases na <;> cases nb <;> simp only [signOf_true, signOf_false, Bool.false_eq_true, if_false, if_true, one_mul, neg_one_mul]
  · rw [hmono.lt_iff_lt]; omega
  · exact iff_of_false (by linarith) (by omega)
  · refine iff_of_true ?_ (by omega)
    rcases Nat.eq_zero_or_pos u with rfl | hu0
    · have := hmono (show 0 < w by omega)
      rw [t.point_zero] at this ⊢
      linarith
    · have := hmono hu0
      rw [t.point_zero] at this
      linarith
  · rw [neg_lt_neg_iff, hmono.lt_iff_lt]; omega

/-- The order of numbers that are no NaN is that of their ranks, in which -0 lies below +0. -/
theorem Fmt.lt_value_iff {t : Fmt} (ht : t.Regular) {a b : Nat} (ha : t.value a ≠ .nan) (hb : t.value b ≠ .nan) :
    Fp.lt true (t.value a) (t.value b) = true ↔ rank t a < rank t b := by
  rw [t.rank_eq, t.rank_eq]
  rcases Fmt.finite_or_inf ht ha with ⟨ma, ea, hva, hla, hza⟩ | ⟨hva, hla⟩ <;>
    rcases Fmt.finite_or_inf ht hb with ⟨mb, eb, hvb, hlb, hzb⟩ | ⟨hvb, hlb⟩
  case inl.inl =>
    by_cases hz : ma = 0 ∧ mb = 0
    · rw [hva, hvb]
      simp only [Fp.lt, hz, hza.1 hz.1, hzb.1 hz.2]
      cases negative t a <;> cases negative t b <;> simp
    · have hreal : Fp.lt true (t.value a) (t.value b) = true ↔ t.real a < t.real b := by
        rw [← t.value_real ((t.finite_iff a).2 hla), ← t.value_real ((t.finite_iff b).2 hlb), hva, hvb, ← addExact_neg_iff]
        simp [Fp.lt, hz]
      have hpos : 0 < t.bare a + t.bare b := by
        by_contra h
        exact hz ⟨hza.2 (by omega), hzb.2 (by omega)⟩
      rw [hreal]
      exact t.signOf_point_lt_iff hpos
  all_goals
    rw [hva, hvb]
    cases negative t a <;> cases negative t b <;> simp [Fp.lt] <;> omega

/-- A number compared with zero shows its sign. -/
theorem Fmt.lt_zero_iff {t : Fmt} (ht : t.Regular) {c : Nat} (h : t.value c ≠ .nan) :
    Fp.lt true (t.value c) (.fin false 0 0) = true ↔ negative t c = true := by
  rcases Fmt.finite_or_inf ht h with ⟨m, e, hv, -, -⟩ | ⟨hv, -⟩ <;> rw [hv]
  · by_cases hm : m = 0
    · simp [Fp.lt, hm]
    · have hpos : (0 : ℝ) < m * 2 ^ e := mul_pos (Nat.cast_pos.2 (Nat.pos_of_ne_zero hm)) (by positivity)
      have : Fp.lt true (.fin (negative t c) m e) (.fin false 0 0) = true ↔ (Fp.fin (negative t c) m e).real < (Fp.fin false 0 0).real := by
        rw [← addExact_neg_iff]; simp [Fp.lt, hm]
      rw [this]
      cases negative t c <;> simp [Fp.real, hpos, hpos.le]
  · simp [Fp.lt]

/-- A code is its sign and its magnitude bits. -/
theorem Fmt.eq_sign_add_bare {t : Fmt} {c : Nat} (hc : c < 2 ^ (t.mag + 1)) : c = (if negative t c then 2 ^ t.mag else 0) + t.bare c := by
  have hdiv : c / 2 ^ t.mag < 2 := Nat.div_lt_of_lt_mul (by rwa [← pow_succ])
  have hsum : 2 ^ t.mag * (c / 2 ^ t.mag) + t.bare c = c := Nat.div_add_mod c (2 ^ t.mag)
  rcases Nat.le_one_iff_eq_zero_or_eq_one.1 (Nat.lt_succ_iff.1 hdiv) with h | h <;>
    rw [h] at hsum <;> simp only [negative, h] <;> simpa using hsum.symm

theorem Fmt.bare_of_not_negative {t : Fmt} {c : Nat} (hc : c < 2 ^ (t.mag + 1)) (h : negative t c = false) : t.bare c = c := by
  have := Fmt.eq_sign_add_bare hc
  rw [h] at this
  simpa using this.symm

/-- The codes of a format, with their signs, have different ranks. -/
theorem Fmt.rank_injOn {t : Fmt} {a b : Nat} (ha : a < 2 ^ (t.mag + 1)) (hb : b < 2 ^ (t.mag + 1)) (h : rank t a = rank t b) : a = b := by
  rw [Fmt.eq_sign_add_bare ha, Fmt.eq_sign_add_bare hb]
  rw [t.rank_eq, t.rank_eq] at h
  cases hna : negative t a <;> cases hnb : negative t b <;> simp only [hna, hnb, Bool.false_eq_true, if_false, if_true] at h ⊢ <;> omega

/-! ### SAT and the end of an FP32 instruction (R119) -/

/-- SatUnit, as R119 states it on codes. -/
theorem satRange_satUnit {t : Fmt} (ht : t.Regular) {one c : Nat} (h1 : one ≤ t.top) (hc : c < 2 ^ (t.mag + 1)) : satRange t one true c (t.satUnit one c) := by
  have hone : t.bare one = one := Fmt.bare_of_le_top ht h1
  have hone1 : t.value one ≠ .nan := Fmt.value_ne_nan_of_finite ((t.finite_iff one).2 (hone.trans_le h1))
  by_cases hn : t.value c = .nan
  · simp [satRange, Fmt.satUnit, hn]
  · have hsat : t.satUnit one c = if Fp.lt true (t.value c) (.fin false 0 0) then 0 else if Fp.lt true (t.value one) (t.value c) then one else c := by
      unfold Fmt.satUnit; split
      · contradiction
      · rfl
    rw [hsat]
    cases hneg : negative t c with
    | true => simp [satRange, hneg, (Fmt.lt_zero_iff ht hn).2 hneg]
    | false =>
      have hlt : Fp.lt true (t.value one) (t.value c) = true ↔ one < c := by
        have hone0 : negative t one = false := by
          have : one / 2 ^ t.mag = 0 := Nat.div_eq_of_lt (by have := ht.top_lt; omega)
          simp [negative, this]
        rw [Fmt.lt_value_iff ht hone1 hn, t.rank_eq, t.rank_eq, hone, hone0, hneg, Fmt.bare_of_not_negative hc hneg]
        simp
      have hzero : ¬Fp.lt true (t.value c) (.fin false 0 0) = true := by rw [Fmt.lt_zero_iff ht hn, hneg]; simp
      simp only [satRange, hn, hneg, if_true, if_neg hzero, hlt, or_self, Bool.false_eq_true, if_false]
      split <;> rfl

theorem satRange_lt {t : Fmt} {one c r n : Nat} {sat : Bool} (h : satRange t one sat c r) (h1 : one < n) (hc : c < n) : r < n := by
  unfold satRange at h
  split at h
  · split at h
    · omega
    · split at h <;> omega
  · omega

theorem finish32_rule (f : VForm) {c : Nat} (hc : fp32.Canonical c) : satRange fp32 one32 (bitAt f.md 8) c (finish32 f c).toNat := by
  obtain ⟨hlt, hcanon⟩ := hc
  have hrule : satRange fp32 one32 (bitAt f.md 8) c (if bitAt f.md 8 then fp32.satUnit one32 c else c) := by
    cases bitAt f.md 8 with
    | true => exact satRange_satUnit fp32_regular (by decide) hlt
    | false => rfl
  have : (finish32 f c).toNat = if bitAt f.md 8 then fp32.satUnit one32 c else c := by
    unfold finish32
    rw [hcanon]
    exact (BitVec.toNat_ofNat _ _).trans (Nat.mod_eq_of_lt (satRange_lt hrule (by decide) hlt))
  rwa [this]

/-- An FP32 meaning completes with its lane function, canonical and then under SAT. -/
theorem vecF_completes {i : Instr} {f : VForm} {g : State → Nat → Nat} {P : State → Nat → Nat → Prop}
    (he : ∀ s, exec i s = vecF f s (g s)) (hp : ∀ s l, fp32.Canonical (g s l) ∧ P s l (g s l)) :
    Completes32 i f fun s l r => ∃ c, P s l c ∧ satRange fp32 0x3F800000 (bitAt f.md 8) c r.toNat :=
  vec32_completes he fun s l _ _ => ⟨g s l, (hp s l).2, finish32_rule f (hp s l).1⟩

/-! ### Minimum, maximum and clamp (R121) -/

/-- The choice of R121 between two codes: a NaN gives way to a number, and b is taken of two numbers where p says so. -/
def Fmt.choose (t : Fmt) (a b : Nat) (p : Bool) : Nat :=
  if t.value a = .nan then (if t.value b = .nan then t.nanCode else b) else if t.value b = .nan then a else if p then b else a

theorem Fmt.minNum_eq_choose (t : Fmt) (a b : Nat) : t.minNum a b = t.choose a b (Fp.lt true (t.value b) (t.value a)) := by
  unfold Fmt.minNum Fmt.choose
  split <;> simp_all

theorem Fmt.maxNum_eq_choose (t : Fmt) (a b : Nat) : t.maxNum a b = t.choose a b (Fp.lt true (t.value a) (t.value b)) := by
  unfold Fmt.maxNum Fmt.choose
  split <;> simp_all

theorem canonical_choose {a b : Nat} (ha : a < 2 ^ 32) (hb : b < 2 ^ 32) (p : Bool) : fp32.Canonical (fp32.choose a b p) := by
  unfold Fmt.choose
  split
  case isTrue =>
    split
    · exact canonical_nanCode
    case isFalse h => exact ⟨hb, Fmt.canon_of_ne_nan h⟩
  case isFalse h =>
    split
    · exact ⟨ha, Fmt.canon_of_ne_nan h⟩
    case isFalse h' =>
      cases p
      · exact ⟨ha, Fmt.canon_of_ne_nan h⟩
      · exact ⟨hb, Fmt.canon_of_ne_nan h'⟩

theorem minMax_choose {a b : Nat} {least p : Bool}
    (h : fp32.value a ≠ .nan → fp32.value b ≠ .nan → (if p then b else a) = if (rank fp32 a ≤ rank fp32 b) = (least = true) then a else b) :
    MinMax fp32 least a b (fp32.choose a b p) := by
  unfold MinMax Fmt.choose
  by_cases ha : fp32.value a = .nan
  · by_cases hb : fp32.value b = .nan
    · simp only [ha, hb, if_true]; rfl
    · simp only [ha, hb, if_true, if_false]
  · by_cases hb : fp32.value b = .nan
    · simp only [ha, hb, if_true, if_false]
    · simp only [ha, hb, if_false]; exact h ha hb

theorem minNum_rule {a b : Nat} (ha : a < 2 ^ 32) (hb : b < 2 ^ 32) : fp32.Canonical (fp32.minNum a b) ∧ MinMax fp32 true a b (fp32.minNum a b) := by
  rw [Fmt.minNum_eq_choose]
  refine ⟨canonical_choose ha hb _, minMax_choose fun hna hnb => ?_⟩
  simp only [Fmt.lt_value_iff fp32_regular hnb hna, eq_iff_iff, iff_true]
  rcases lt_or_ge (rank fp32 b) (rank fp32 a) with h | h
  · rw [if_pos h, if_neg h.not_ge]
  · rw [if_neg h.not_gt, if_pos h]

theorem maxNum_rule {a b : Nat} (ha : a < 2 ^ 32) (hb : b < 2 ^ 32) : fp32.Canonical (fp32.maxNum a b) ∧ MinMax fp32 false a b (fp32.maxNum a b) := by
  rw [Fmt.maxNum_eq_choose]
  refine ⟨canonical_choose ha hb _, minMax_choose fun hna hnb => ?_⟩
  simp only [Fmt.lt_value_iff fp32_regular hna hnb, eq_iff_iff, Bool.false_eq_true, iff_false]
  rcases lt_trichotomy (rank fp32 a) (rank fp32 b) with h | h | h
  · rw [if_pos h, if_neg (not_not.2 h.le)]
  · rw [Fmt.rank_injOn ha hb h, ite_self, ite_self]
  · rw [if_neg h.not_gt, if_pos h.not_ge]

end Sys2Proof.Machine
end

section
namespace Sys2Proof.Machine
open Sys2Proof Sys2Proof.Claims

/-! ### The directions of MOD (R68) -/

theorem direction_eq (f : VForm) : direction f = fRnd f := by
  unfold direction fRnd
  generalize fldN f.md 0 3 = n
  match n with
  | 0 => rfl
  | 1 => rfl
  | 2 => rfl
  | 3 => rfl
  | n + 4 => rfl

/-- A direction of codes 0 to 3 is not stochastic. -/
theorem fRnd_ne_srnd {f : VForm} (h : fldN f.md 0 3 ≤ 3) (r : Nat) : fRnd f ≠ .srnd r := by
  unfold fRnd
  interval_cases fldN f.md 0 3 <;> simp [rndOf]

/-- What holds of each way of rounding holds of a direction that is not stochastic. -/
theorem Rnd.of_pick {rnd : Rnd} (hr : ∀ r, rnd ≠ .srnd r) {neg : Bool} {p : Prop} (h : rnd.pick neg p p p) : p := by
  rcases rnd.pick_cases neg with hp | hp | hp | ⟨-, r, hs⟩
  · rwa [hp] at h
  · rwa [hp] at h
  · rwa [hp] at h
  · exact absurd hs (hr r)

/-! ### Where a magnitude rounds to (R119) -/

section
variable {t : Fmt} {rnd : Rnd} {neg : Bool} {v : ℝ} {K c : Nat}

theorem Fmt.RoundsTo.le_of_le_point (h : t.RoundsTo rnd neg v K) (hr : ∀ r, rnd ≠ .srnd r) (hv : v ≤ t.point c) : K ≤ c := by
  have hmono := t.point_strictMono
  refine Rnd.of_pick hr (Rnd.pick_imp h (fun hn => ?_) (fun hb => ?_) fun ha => ?_)
  · by_contra hlt
    have := (hn.2 c (by omega)).1
    have := hmono (show c < K by omega)
    linarith
  · exact hmono.le_iff_le.1 (hb.1.trans hv)
  · by_contra hlt
    exact (ha.2 c (by omega)).not_ge hv

theorem Fmt.RoundsTo.le_of_point_le (h : t.RoundsTo rnd neg v K) (hr : ∀ r, rnd ≠ .srnd r) (hv : t.point c ≤ v) : c ≤ K := by
  have hmono := t.point_strictMono
  refine Rnd.of_pick hr (Rnd.pick_imp h (fun hn => ?_) (fun hb => ?_) fun ha => ?_)
  · by_contra hlt
    have := (hn.1 c (by omega)).1
    have := hmono (show K < c by omega)
    linarith
  · exact Nat.lt_succ_iff.1 (hmono.lt_iff_lt.1 (hv.trans_lt hb.2))
  · exact hmono.le_iff_le.1 (hv.trans ha.1)

end

/-- The bounds of a finite FP32 value. -/
theorem fp32_value_fin {c : Nat} {n : Bool} {m : Nat} {e : Int} (h : fp32.value c = .fin n m e) : m < 2 ^ 24 ∧ -149 ≤ e ∧ e ≤ 104 := by
  rw [fp32.value_eq] at h
  split at h
  · split at h <;> cases h
  · rename_i htop
    have htop : fp32.bare c ≤ 0x7F7FFFFF := Nat.not_lt.1 htop
    split at h
    · rename_i hlt
      have hlt : fp32.bare c < 2 ^ 23 := hlt
      cases h
      exact ⟨by omega, by decide, by decide⟩
    · cases h
      simp only [show fp32.fb = 23 from rfl, show fp32.qmin = -149 from rfl]
      omega

/-! ### Square roots (R120, R122) -/

/-- The bits that isqrtStep settles. -/
theorem isqrtStep_spec (x : Nat) : ∀ n r, r * r ≤ x → x < (r + 2 ^ n) * (r + 2 ^ n) →
    isqrtStep x n r * isqrtStep x n r ≤ x ∧ x < (isqrtStep x n r + 1) * (isqrtStep x n r + 1)
  | 0, r, h1, h2 => ⟨h1, h2⟩
  | n + 1, r, h1, h2 => by
    unfold isqrtStep
    split
    case isTrue h => exact isqrtStep_spec x n _ h (by rw [pow_succ] at h2; convert h2 using 2 <;> ring)
    case isFalse h => exact isqrtStep_spec x n r h1 (Nat.not_le.1 h)

theorem isqrt_eq_sqrt (x : Nat) : isqrt x = Nat.sqrt x := by
  have hlt : x < (0 + 2 ^ (x.log2 / 2 + 1)) * (0 + 2 ^ (x.log2 / 2 + 1)) := by
    rw [Nat.zero_add, ← pow_add]
    exact Nat.lt_log2_self.trans_le (Nat.pow_le_pow_right (by decide) (by omega))
  obtain ⟨h1, h2⟩ := isqrtStep_spec x _ 0 (by omega) hlt
  exact Nat.eq_sqrt.2 ⟨h1, h2⟩

/-- The integer root of the integer part of X, with a mark where X is no square of it, stands for the root of X. -/
theorem holds_sqrt {X : ℝ} {N : Nat} {e : Int} {more : Bool} (h1 : (N : ℝ) ≤ X) (h2 : X < N + 1) (hmore : more = true ↔ (Nat.sqrt N : ℝ) ^ 2 ≠ X) :
    (Mag.mk (Nat.sqrt N) e more).Holds (√X * 2 ^ e) := by
  have hX : 0 ≤ X := (Nat.cast_nonneg N).trans h1
  have hP : (0 : ℝ) < 2 ^ e := by positivity
  have hlo : ((Nat.sqrt N : ℝ)) ^ 2 ≤ X := le_trans (by exact_mod_cast Nat.sqrt_le' N) h1
  have hhi : X < ((Nat.sqrt N : ℝ) + 1) ^ 2 := h2.trans_le (by exact_mod_cast Nat.lt_succ_sqrt' N)
  unfold Mag.Holds
  split
  case isTrue hm =>
    have hlt := lt_of_le_of_ne hlo (hmore.1 hm)
    exact ⟨by gcongr; exact Real.lt_sqrt_of_sq_lt hlt, by gcongr; exact (Real.sqrt_lt' (by positivity)).2 hhi⟩
  case isFalse hm =>
    have heq : (Nat.sqrt N : ℝ) ^ 2 = X := not_not.1 (mt hmore.2 hm)
    rw [← heq, Real.sqrt_sq (Nat.cast_nonneg _)]

/-- The spacing of FP32's subnormal numbers. -/
noncomputable def unit32 : ℝ := 2 ^ (-149 : Int)

theorem unit32_pos : 0 < unit32 := by unfold unit32; positivity

/-- The integer of a finite code is its number in units of 2^-149. -/
theorem int32_mul_unit32 {c : Nat} (h : finite fp32 c = true) : (int32 c : ℝ) * unit32 = fp32.real c := by
  rw [int32, fp32.units_value h (by decide : e32 ≤ fp32.qmin)]
  exact div_mul_cancel₀ _ unit32_pos.ne'

theorem int32_mul_unit32_of_not_negative {c : Nat} (h : finite fp32 c = true) (hn : negative fp32 c = false) :
    (int32 c : ℝ) * unit32 = fp32.point (fp32.bare c) := by
  rw [int32_mul_unit32 h, Fmt.real, hn, signOf_false, one_mul]

/-- A positive root v rounds to the finite code K: how the codes' integers compare with v. -/
structure RootCode (rnd : Rnd) (v : ℝ) (K : Nat) : Prop where
  pos : 0 < v
  le_top : K ≤ fp32.top
  rounds : fp32.RoundsTo rnd false v K

section
variable {rnd : Rnd} {v : ℝ} {K : Nat}

theorem RootCode.bare (h : RootCode rnd v K) : fp32.bare K = K := Fmt.bare_of_le_top fp32_regular h.le_top

theorem RootCode.finite_code (h : RootCode rnd v K) : finite fp32 K = true := (fp32.finite_iff K).2 (h.bare.trans_le h.le_top)

theorem RootCode.not_negative (h : RootCode rnd v K) : negative fp32 K = false := by
  have := fp32.negative_signed false (show K < 2 ^ fp32.mag from h.le_top.trans_lt (by decide))
  rwa [Fmt.signed, if_neg (by decide), Nat.zero_add] at this

theorem RootCode.int32_eq (h : RootCode rnd v K) : (int32 K : ℝ) * unit32 = fp32.point K := by
  rw [int32_mul_unit32_of_not_negative h.finite_code h.not_negative, h.bare]

/-- No midpoint lies between the nearest code and v. -/
theorem RootCode.midpoint (h : RootCode .rne v K) {d : Nat} (hd : finite fp32 d = true) (hn : negative fp32 d = false) :
    (int32 K < int32 d → (2 * v) ^ 2 ≤ (((int32 K : ℝ) + int32 d) * unit32) ^ 2) ∧
    (int32 d < int32 K → (((int32 K : ℝ) + int32 d) * unit32) ^ 2 ≤ (2 * v) ^ 2) := by
  have hmono := fp32.point_strictMono
  have hv := h.pos
  have hlt : int32 K < int32 d ↔ K < fp32.bare d := by
    rw [← Int.cast_lt (R := ℝ), ← mul_lt_mul_iff_left₀ unit32_pos, h.int32_eq, int32_mul_unit32_of_not_negative hd hn, hmono.lt_iff_lt]
  have hgt : int32 d < int32 K ↔ fp32.bare d < K := by
    rw [← Int.cast_lt (R := ℝ), ← mul_lt_mul_iff_left₀ unit32_pos, h.int32_eq, int32_mul_unit32_of_not_negative hd hn, hmono.lt_iff_lt]
  have h0 := fp32.point_nonneg K
  have h1 := fp32.point_nonneg (fp32.bare d)
  rw [hlt, hgt, add_mul, h.int32_eq, int32_mul_unit32_of_not_negative hd hn]
  exact ⟨fun hk => pow_le_pow_left₀ (by linarith) (h.rounds.1 _ hk).1 2, fun hk => pow_le_pow_left₀ (by linarith) (h.rounds.2 _ hk).1 2⟩

end

/-- The root v of m 2^e, rounded, meets the rule of R120. -/
theorem RootCode.rootRounded {rnd : Rnd} (hr : ∀ r, rnd ≠ .srnd r) {m : Nat} {e : Int} {v : ℝ} {K : Nat} (he : -298 ≤ e) (hsq : v ^ 2 = m * 2 ^ e)
    (h : RootCode rnd v K) : RootRounded rnd m e K := by
  have hU := unit32_pos
  have hv := h.pos
  unfold RootRounded
  extract_lets x
  have hx : (x : ℝ) * unit32 ^ 2 = v ^ 2 := by
    simp only [x]
    push_cast
    rw [two_zpow_toNat (by omega), hsq, unit32, ← zpow_natCast, ← zpow_mul, mul_assoc, ← zpow_add₀ two_ne_zero]
    norm_num
  refine ⟨h.finite_code, h.not_negative, ?_⟩
  have hcast {a b : Int} (hab : (a : ℝ) * unit32 ^ 2 ≤ b * unit32 ^ 2) : a ≤ b := by
    exact_mod_cast le_of_mul_le_mul_right hab (by positivity)
  have hcast' {a b : Int} (hab : (a : ℝ) * unit32 ≤ b * unit32) : a ≤ b := by
    exact_mod_cast le_of_mul_le_mul_right hab hU
  have hdown (hb : fp32.Below v K) : int32 K ^ 2 ≤ (x : Int) ∧ ∀ d, finite fp32 d = true → int32 d ^ 2 ≤ (x : Int) → int32 d ≤ int32 K := by
    refine ⟨hcast ?_, fun d hd hle => hcast' ?_⟩
    · push_cast
      rw [hx, ← mul_pow, h.int32_eq]
      exact pow_le_pow_left₀ (fp32.point_nonneg K) hb.1 2
    · have hle : fp32.real d ^ 2 ≤ v ^ 2 := by
        rw [← int32_mul_unit32 hd, mul_pow, ← hx]
        gcongr
        exact_mod_cast hle
      have halong : fp32.along false d = fp32.real d := by simp [Fmt.along]
      rw [int32_mul_unit32 hd, h.int32_eq, ← halong]
      exact hb.le_point (fp32.along_eq false d) (halong ▸ le_of_abs_le (abs_le_of_sq_le_sq hle hv.le))
  cases rnd with
  | rne =>
    intro d hd hn
    obtain ⟨h1, h2⟩ := h.midpoint hd hn
    have hx4 : (4 * x : ℝ) * unit32 ^ 2 = (2 * v) ^ 2 := by linear_combination 4 * hx
    refine ⟨fun hk => hcast ?_, fun hk => hcast ?_⟩
    · push_cast
      rw [hx4, ← mul_pow]
      exact h1 hk
    · push_cast
      rw [hx4, ← mul_pow]
      exact h2 hk
  | rz => exact hdown h.rounds
  | rd => exact hdown h.rounds
  | ru =>
    have ha : fp32.Above v K := h.rounds
    refine ⟨hcast ?_, fun d hd hn hle => hcast' ?_⟩
    · push_cast
      rw [hx, ← mul_pow, h.int32_eq]
      exact pow_le_pow_left₀ hv.le ha.1 2
    · have hle : v ^ 2 ≤ fp32.point (fp32.bare d) ^ 2 := by
        rw [← int32_mul_unit32_of_not_negative hd hn, mul_pow, ← hx]
        gcongr
        exact_mod_cast hle
      rw [int32_mul_unit32_of_not_negative hd hn, h.int32_eq]
      exact ha.point_le hv (.inl rfl) (le_of_sq_le_sq hle (fp32.point_nonneg _))
  | srnd r => exact absurd rfl (hr r)

/-- The reciprocal root v of m 2^e, rounded to nearest, meets the rule of R122. -/
theorem RootCode.rsqrtRounded {m : Nat} {e : Int} {v : ℝ} {K : Nat} (he : e ≤ 298) (hsq : v ^ 2 * m = 2 ^ (-e)) (h : RootCode .rne v K) :
    finite fp32 K = true ∧ negative fp32 K = false ∧ ∀ d, finite fp32 d = true → negative fp32 d = false →
      (int32 K < int32 d → (4 * 2 ^ (298 - e).toNat : Int) ≤ (int32 K + int32 d) ^ 2 * m) ∧
      (int32 d < int32 K → (int32 K + int32 d) ^ 2 * m ≤ (4 * 2 ^ (298 - e).toNat : Int)) := by
  refine ⟨h.finite_code, h.not_negative, fun d hd hn => ?_⟩
  obtain ⟨h1, h2⟩ := h.midpoint hd hn
  have hcast {a b : Int} (hab : (a : ℝ) * unit32 ^ 2 ≤ b * unit32 ^ 2) : a ≤ b := by
    exact_mod_cast le_of_mul_le_mul_right hab (pow_pos unit32_pos 2)
  have hx : (4 * 2 ^ (298 - e).toNat : ℝ) * unit32 ^ 2 = (2 * v) ^ 2 * m := by
    have : (2 : ℝ) ^ (298 - e).toNat * unit32 ^ 2 = 2 ^ (-e) := by
      rw [two_zpow_toNat (by omega), unit32, ← zpow_natCast, ← zpow_mul, ← zpow_add₀ two_ne_zero]
      congr 1; push_cast; ring
    rw [← hsq] at this
    linear_combination 4 * this
  refine ⟨fun hk => hcast ?_, fun hk => hcast ?_⟩ <;> push_cast <;> rw [hx, mul_right_comm, ← mul_pow]
  · exact mul_le_mul_of_nonneg_right (h1 hk) (Nat.cast_nonneg m)
  · exact mul_le_mul_of_nonneg_right (h2 hk) (Nat.cast_nonneg m)

/-- A root known to 24 bits or more rounds to a finite code. -/
theorem rootCode_of_holds {rnd : Rnd} (hr : ∀ r, rnd ≠ .srnd r) {x : Mag} {v : ℝ} (hx : x.Holds v) (hm : 2 ^ 24 ≤ x.m) (hv : 0 < v) (hsq : v ^ 2 ≤ 2 ^ 150) :
    RootCode rnd v (fp32.round rnd false x) := by
  have hlog : 24 ≤ x.m.log2 := (Nat.le_log2 (by omega)).2 hm
  have hrounds := fp32.roundCode_roundsTo (by decide) rnd false hx (by omega) fun _ => by
    simp only [show fp32.fb = 23 from rfl]; omega
  have hpoint : fp32.point (201 * 2 ^ fp32.fb + 2 ^ fp32.fb) = 2 ^ 75 := by
    rw [fp32.point_binade (by decide) (.inr le_rfl)]
    simp only [show fp32.fb = 23 from rfl, show fp32.qmin = -149 from rfl]
    norm_num
  have hle : v ≤ 2 ^ 75 := le_of_sq_le_sq (hsq.trans_eq (by norm_num)) (by positivity)
  have htop : fp32.roundCode rnd false x ≤ fp32.top := (hrounds.le_of_le_point hr (hle.trans_eq hpoint.symm)).trans (by decide)
  have hround : fp32.round rnd false x = fp32.roundCode rnd false x := by
    rw [Fmt.round_eq_deliver, Fmt.deliver_of_le_top htop, Fmt.signed, if_neg (by decide), Nat.zero_add]
  rw [hround]
  exact ⟨hv, htop, hrounds⟩

theorem RootCode.canonical {rnd : Rnd} {v : ℝ} {K : Nat} (h : RootCode rnd v K) : fp32.Canonical K :=
  ⟨h.le_top.trans_lt (by decide), Fmt.canon_of_ne_nan (Fmt.value_ne_nan_of_finite h.finite_code)⟩

/-- What FSQRT gives of a positive number. -/
theorem rootCode_sqrt {rnd : Rnd} (hr : ∀ r, rnd ≠ .srnd r) {m : Nat} {e : Int} (hm0 : m ≠ 0) (hm : m < 2 ^ 24) (he : e ≤ 104) :
    ∃ v : ℝ, v ^ 2 = m * 2 ^ e ∧ RootCode rnd v (fp32.sqrt rnd (.fin false m e)) := by
  obtain ⟨k, hk, j, hj⟩ : ∃ k : Nat, k = (if e % 2 = 0 then 64 else 65) ∧ ∃ j : Int, e - k = 2 * j := by
    split
    · exact ⟨64, rfl, (e - 64) / 2, by omega⟩
    · exact ⟨65, rfl, (e - 65) / 2, by omega⟩
  have hsqrt : fp32.sqrt rnd (.fin false m e) = fp32.round rnd false
      ⟨Nat.sqrt (m * 2 ^ k), j, decide (Nat.sqrt (m * 2 ^ k) * Nat.sqrt (m * 2 ^ k) ≠ m * 2 ^ k)⟩ := by
    simp only [Fmt.sqrt, hm0, ← hk, isqrt_eq_sqrt, show (e - k) / 2 = j by omega]
    rfl
  have hX : (0 : ℝ) < (m * 2 ^ k : Nat) := by positivity
  have hsq : (√((m * 2 ^ k : Nat) : ℝ) * 2 ^ j) ^ 2 = m * 2 ^ e := by
    rw [mul_pow, Real.sq_sqrt hX.le, ← zpow_natCast, ← zpow_mul, show j * (2 : Nat) = e - k by push_cast; omega, zpow_sub₀ two_ne_zero]
    push_cast
    rw [zpow_natCast]
    field_simp
  refine ⟨√((m * 2 ^ k : Nat) : ℝ) * 2 ^ j, hsq, ?_⟩
  rw [hsqrt]
  refine rootCode_of_holds hr (holds_sqrt le_rfl (lt_add_one _) ?_) ?_ (by positivity) ?_
  · rw [decide_eq_true_iff, sq]
    exact_mod_cast Iff.rfl
  · refine Nat.le_sqrt.2 ?_
    calc 2 ^ 24 * 2 ^ 24 ≤ 1 * 2 ^ k := by rw [one_mul, ← pow_add]; exact Nat.pow_le_pow_right (by decide) (by split at hk <;> omega)
      _ ≤ m * 2 ^ k := Nat.mul_le_mul_right _ (Nat.pos_of_ne_zero hm0)
  · rw [hsq]
    calc (m : ℝ) * 2 ^ e ≤ 2 ^ 24 * 2 ^ (104 : Int) := by
          gcongr
          · exact_mod_cast hm.le
          · exact one_le_two
      _ ≤ 2 ^ 150 := by norm_num

/-- What FRSQ gives of a positive number. -/
theorem rootCode_rsqrt {m : Nat} {e : Int} (hm0 : m ≠ 0) (hm : m < 2 ^ 24) (he : -149 ≤ e) :
    ∃ v : ℝ, v ^ 2 * m = 2 ^ (-e) ∧ RootCode .rne v (fp32.rsqrt (.fin false m e)) := by
  obtain ⟨m', e', hpair, hval, hle, j, hj⟩ : ∃ (m' : Nat) (e' : Int), (if e % 2 = 0 then (m, e) else (2 * m, e - 1)) = (m', e') ∧
      (m' : ℝ) * 2 ^ e' = m * 2 ^ e ∧ (1 ≤ m' ∧ m' < 2 ^ 25) ∧ ∃ j : Int, e' = 2 * j := by
    split
    · exact ⟨m, e, rfl, rfl, by omega, e / 2, by omega⟩
    · refine ⟨2 * m, e - 1, rfl, ?_, by omega, e / 2, by omega⟩
      rw [zpow_sub₀ two_ne_zero]
      push_cast; ring
  have hm' : (0 : ℝ) < m' := Nat.cast_pos.2 hle.1
  have hN : 2 ^ 160 / m' * m' ≤ 2 ^ 160 ∧ 2 ^ 160 < (2 ^ 160 / m' + 1) * m' :=
    ⟨Nat.div_mul_le_self _ _, by rw [mul_comm]; exact Nat.lt_mul_div_succ _ hle.1⟩
  have hrsqrt : fp32.rsqrt (.fin false m e) = fp32.round .rne false
      ⟨Nat.sqrt (2 ^ 160 / m'), -80 - j, decide (Nat.sqrt (2 ^ 160 / m') * Nat.sqrt (2 ^ 160 / m') * m' ≠ 2 ^ 160)⟩ := by
    simp only [Fmt.rsqrt, hm0, hpair, isqrt_eq_sqrt, show e' / 2 = j by omega]
    rfl
  have hX : (0 : ℝ) < 2 ^ 160 / m' := by positivity
  have hsq : (√((2 : ℝ) ^ 160 / m') * 2 ^ (-80 - j)) ^ 2 * (m * 2 ^ e) = 1 := by
    have hscale : ((2 : ℝ) ^ (-80 - j)) ^ 2 = 2 ^ (-160 : Int) / 2 ^ (2 * j) := by
      rw [← zpow_natCast, ← zpow_mul, ← zpow_sub₀ two_ne_zero]
      congr 1; push_cast; ring
    rw [← hval, mul_pow, Real.sq_sqrt hX.le, hscale, hj]
    field_simp
  refine ⟨√((2 : ℝ) ^ 160 / m') * 2 ^ (-80 - j), ?_, ?_⟩
  · rw [zpow_neg, ← one_div, eq_div_iff (by positivity), mul_assoc]
    exact hsq
  rw [hrsqrt]
  refine rootCode_of_holds (by simp) (holds_sqrt ?_ ?_ ?_) ?_ (by positivity) ?_
  · rw [le_div_iff₀ hm']; exact_mod_cast hN.1
  · rw [div_lt_iff₀ hm']; exact_mod_cast hN.2
  · rw [decide_eq_true_iff, sq, ne_eq, ne_eq, eq_div_iff hm'.ne']
    exact_mod_cast Iff.rfl
  · refine Nat.le_sqrt.2 ((Nat.le_div_iff_mul_le hle.1).2 ?_)
    calc 2 ^ 24 * 2 ^ 24 * m' ≤ 2 ^ 24 * 2 ^ 24 * 2 ^ 25 := Nat.mul_le_mul_left _ hle.2.le
      _ ≤ 2 ^ 160 := by decide
  · have hlow : (2 : ℝ) ^ (-149 : Int) ≤ m * 2 ^ e :=
      calc (2 : ℝ) ^ (-149 : Int) ≤ 1 * 2 ^ e := by rw [one_mul]; exact zpow_le_zpow_right₀ one_le_two he
        _ ≤ m * 2 ^ e := by gcongr; exact_mod_cast Nat.pos_of_ne_zero hm0
    have h149 : _ * (2 : ℝ) ^ (-149 : Int) ≤ 1 := (mul_le_mul_of_nonneg_left hlow (sq_nonneg (√((2 : ℝ) ^ 160 / m') * 2 ^ (-80 - j)))).trans_eq hsq
    rw [zpow_neg, ← div_eq_mul_inv, div_le_one (by positivity)] at h149
    exact h149.trans (by norm_num)

/-- FSQRT meets its rule, canonical, on every FP32 value (R120, R122). -/
theorem sqrt_rule {rnd : Rnd} (hr : ∀ r, rnd ≠ .srnd r) (c : Nat) :
    fp32.Canonical (fp32.sqrt rnd (fp32.value c)) ∧ RootOf rnd (fp32.value c) (fp32.sqrt rnd (fp32.value c)) := by
  cases hv : fp32.value c with
  | nan => exact ⟨canonical_nanCode, rfl⟩
  | inf n =>
    cases n with
    | true => exact ⟨canonical_nanCode, rfl⟩
    | false => exact ⟨Fmt.canonical_infCode fp32_regular false, rfl⟩
  | fin n m e =>
    obtain ⟨hm, hlo, hhi⟩ := fp32_value_fin hv
    by_cases hm0 : m = 0
    · subst hm0
      exact ⟨Fmt.canonical_signed fp32_regular n (Nat.zero_le _), by cases n <;> rfl⟩
    · cases n with
      | true =>
        have h : fp32.sqrt rnd (.fin true m e) = fp32.nanCode := by simp [Fmt.sqrt, hm0]
        rw [h]
        exact ⟨canonical_nanCode, by simp only [RootOf, hm0, if_false, if_true]; rfl⟩
      | false =>
        obtain ⟨v, hsq, hroot⟩ := rootCode_sqrt hr hm0 hm hhi
        refine ⟨hroot.canonical, ?_⟩
        simp only [RootOf, hm0, if_false, Bool.false_eq_true]
        exact hroot.rootRounded hr (by omega) hsq

/-- FRSQ meets its rule, canonical, on every FP32 value (R122). -/
theorem rsqrt_rule (c : Nat) : fp32.Canonical (fp32.rsqrt (fp32.value c)) ∧ RsqrtOf (fp32.value c) (fp32.rsqrt (fp32.value c)) := by
  cases hv : fp32.value c with
  | nan => exact ⟨canonical_nanCode, rfl⟩
  | inf n =>
    cases n with
    | true => exact ⟨canonical_nanCode, rfl⟩
    | false => exact ⟨Fmt.canonical_signed fp32_regular false (Nat.zero_le _), rfl⟩
  | fin n m e =>
    obtain ⟨hm, hlo, hhi⟩ := fp32_value_fin hv
    by_cases hm0 : m = 0
    · subst hm0
      exact ⟨Fmt.canonical_infCode fp32_regular n, by cases n <;> rfl⟩
    · cases n with
      | true =>
        have h : fp32.rsqrt (.fin true m e) = fp32.nanCode := by simp [Fmt.rsqrt, hm0]
        rw [h]
        exact ⟨canonical_nanCode, by simp only [RsqrtOf, hm0, if_false, if_true]; rfl⟩
      | false =>
        obtain ⟨v, hsq, hroot⟩ := rootCode_rsqrt hm0 hm hlo
        refine ⟨hroot.canonical, ?_⟩
        simp only [RsqrtOf, hm0, if_false, Bool.false_eq_true]
        exact hroot.rsqrtRounded (by omega) hsq

theorem floatRoots_hold : Claims.floatRoots := by
  refine ⟨fun f hf => ?_, fun f => ?_⟩
  · rw [direction_eq]
    exact vecF_completes (fun _ => rfl) fun s l => sqrt_rule (fRnd_ne_srnd hf) _
  · exact vecF_completes (fun _ => rfl) fun s l => rsqrt_rule _

end Sys2Proof.Machine
end

section
namespace Sys2Proof.Machine
open Sys2Proof Sys2Proof.Claims

/-! ### FRND (R123) -/

/-- An integer to which a magnitude in units of 2^q rounds meets the rule of R123, R126. -/
theorem roundedInt_of_pick {rnd : Rnd} (hr : ∀ r, rnd ≠ .srnd r) {neg : Bool} {m k : Nat} {e q : Int} {y : ℝ} (hy : y * 2 ^ q = m * 2 ^ e)
    (h : rnd.pick neg (NearInt y k) (DownInt y k) (UpInt y k)) : RoundedInt rnd neg m e q k := by
  unfold RoundedInt
  extract_lets E x one down up
  have hE : (0 : ℝ) < 2 ^ E := by positivity
  have hone : (0 : ℝ) < one := by simp only [one]; positivity
  have hx : (x : ℝ) = y * one := by
    have hdiv {a : Int} (ha : E ≤ a) : (2 : ℝ) ^ (a - E).toNat = 2 ^ a / 2 ^ E := by rw [two_zpow_toNat (by omega), zpow_sub₀ two_ne_zero]
    simp only [x, one]
    push_cast
    rw [hdiv (min_le_left _ _), hdiv (min_le_right _ _), ← mul_div_assoc, ← hy, mul_div_assoc]
  have hcast {a b : Nat} {α β : ℝ} (ha : (a : ℝ) = α * one) (hb : (b : ℝ) = β * one) :
      (a ≤ b ↔ α ≤ β) ∧ (a < b ↔ α < β) ∧ (a = b ↔ α = β) := by
    rw [← Nat.cast_le (α := ℝ), ← Nat.cast_lt (α := ℝ), ← Nat.cast_inj (R := ℝ), ha, hb]
    exact ⟨mul_le_mul_iff_left₀ hone, mul_lt_mul_iff_left₀ hone, mul_left_inj' hone.ne'⟩
  have hk : ((k * one : Nat) : ℝ) = k * one := by push_cast; ring
  have hk1 : ((k * one + one : Nat) : ℝ) = (k + 1) * one := by push_cast; ring
  have hx1 : ((x + one : Nat) : ℝ) = (y + 1) * one := by push_cast; rw [hx]; ring
  have hdown (hd : DownInt y k) : down := ⟨(hcast hk hx).1.2 hd.1, (hcast hx hk1).2.1.2 hd.2⟩
  have hup (hu : UpInt y k) : up := ⟨(hcast hx hk).1.2 hu.1, (hcast hk hx1).2.1.2 hu.2⟩
  cases rnd with
  | rne =>
    obtain ⟨h1, h2, h3⟩ := h
    have hk2 : ((2 * (k * one) : Nat) : ℝ) = (2 * k) * one := by push_cast; ring
    have hx2 : ((2 * x : Nat) : ℝ) = (2 * y) * one := by push_cast; rw [hx]; ring
    have hk21 : ((2 * (k * one) + one : Nat) : ℝ) = (2 * k + 1) * one := by push_cast; ring
    have hx21 : ((2 * x + one : Nat) : ℝ) = (2 * y + 1) * one := by push_cast; rw [hx]; ring
    exact ⟨(hcast hk2 hx21).1.2 h1, (hcast hx2 hk21).1.2 h2, fun h => h3 (h.imp (hcast hk2 hx21).2.2.1 (hcast hx2 hk21).2.2.1)⟩
  | rz => exact hdown h
  | ru =>
    cases neg with
    | true => exact hdown h
    | false => exact hup h
  | rd =>
    cases neg with
    | true => exact hup h
    | false => exact hdown h
  | srnd r => exact absurd rfl (hr r)

/-- A number on the grid rounds to itself. -/
theorem Fmt.RoundsTo.eq_of_point {t : Fmt} {rnd : Rnd} (hr : ∀ r, rnd ≠ .srnd r) {neg : Bool} {K c : Nat} (h : t.RoundsTo rnd neg (t.point c) K) : K = c :=
  le_antisymm (h.le_of_le_point hr le_rfl) (h.le_of_point_le hr le_rfl)

theorem Mag.units_of_le {x : Mag} {q : Int} (h : q ≤ x.e) (rnd : Rnd) (neg : Bool) : x.units q rnd neg = x.m * 2 ^ (x.e - q).toNat := if_pos h

theorem Mag.units_le_of_lt {x : Mag} {q : Int} (h : x.e < q) (rnd : Rnd) (neg : Bool) : x.units q rnd neg ≤ x.m + 1 := by
  have hdiv := Nat.div_le_self x.m (2 ^ (q - x.e).toNat)
  rw [Mag.units, if_neg (Int.not_le.2 h)]
  extract_lets k n
  have hn : n ≤ x.m := hdiv
  split <;> omega

/-- The integers that FRND meets are on FP32's grid, at finite codes. -/
theorem exists_code_of_units {m : Nat} {e : Int} (hm : m < 2 ^ 24) (hhi : e ≤ 104) (rnd : Rnd) (neg : Bool) :
    ∃ K, K ≤ fp32.top ∧ fp32.grid K = Mag.units ⟨m, e, false⟩ 0 rnd neg * 2 ^ 149 := by
  have hfb : fp32.fb = 23 := rfl
  have hgrid : (∃ K, fp32.grid K = Mag.units ⟨m, e, false⟩ 0 rnd neg * 2 ^ 149) ∧ Mag.units ⟨m, e, false⟩ 0 rnd neg < 2 ^ 128 := by
    rcases le_or_gt 0 e with h | h
    · rw [Mag.units_of_le h]
      obtain ⟨K, hK⟩ := fp32.exists_grid_eq ((e - 0).toNat + 149) m (by rw [hfb]; omega)
      refine ⟨⟨K, by rw [hK, pow_add, mul_assoc]⟩, ?_⟩
      calc m * 2 ^ (e - 0).toNat < 2 ^ 24 * 2 ^ (e - 0).toNat := Nat.mul_lt_mul_of_pos_right hm (by positivity)
        _ ≤ 2 ^ 24 * 2 ^ 104 := Nat.mul_le_mul_left _ (Nat.pow_le_pow_right (by decide) (by omega))
    · have hle : Mag.units ⟨m, e, false⟩ 0 rnd neg ≤ m + 1 := Mag.units_le_of_lt h rnd neg
      exact ⟨fp32.exists_grid_eq 149 _ (by rw [hfb]; omega), by omega⟩
  obtain ⟨⟨K, hK⟩, hlt⟩ := hgrid
  refine ⟨K, Nat.lt_succ_iff.1 (fp32.grid_strictMono.lt_iff_lt.1 ?_), hK⟩
  calc fp32.grid K < 2 ^ 128 * 2 ^ 149 := by rw [hK]; exact Nat.mul_lt_mul_of_pos_right hlt (by positivity)
    _ = fp32.grid (fp32.top + 1) := by decide

theorem fp32_point_of_grid {k K : Nat} (h : fp32.grid K = k * 2 ^ 149) : fp32.point K = k := by
  have hunit : ((2 ^ 149 : Nat) : ℝ) * 2 ^ fp32.qmin = 1 := by rw [show fp32.qmin = -149 from rfl]; norm_num
  rw [Fmt.point, h, Nat.cast_mul, mul_assoc, hunit, mul_one]

/-- A number on the grid is delivered as it is. -/
theorem round_of_grid {rnd : Rnd} (hr : ∀ r, rnd ≠ .srnd r) (neg : Bool) {k K : Nat} (htop : K ≤ fp32.top) (h : fp32.grid K = k * 2 ^ 149) :
    fp32.round rnd neg ⟨k, 0, false⟩ = fp32.signed neg K := by
  have hcode : fp32.roundCode rnd neg ⟨k, 0, false⟩ = K := by
    by_cases hk : k = 0
    · have : fp32.grid K = fp32.grid 0 := by rw [h, hk, fp32.grid_zero, Nat.zero_mul]
      rw [fp32.grid_strictMono.injective this, Fmt.roundCode, if_pos ⟨hk, Bool.false_ne_true⟩]
    · have hholds : (Mag.mk k 0 false).Holds (fp32.point K) := by simp [Mag.Holds, fp32_point_of_grid h]
      exact (fp32.roundCode_roundsTo (by decide) rnd neg hholds hk (by simp)).eq_of_point hr
  rw [Fmt.round_eq_deliver, hcode, Fmt.deliver_of_le_top htop]

/-- FRND gives an integral value exactly (R123). -/
theorem integral_rule {rnd : Rnd} (hr : ∀ r, rnd ≠ .srnd r) (c : Nat) :
    fp32.Canonical (fp32.integral rnd c) ∧ Integral rnd (fp32.value c) (fp32.integral rnd c) := by
  unfold Fmt.integral
  cases hv : fp32.value c with
  | nan => exact ⟨canonical_nanCode, rfl⟩
  | inf n => exact ⟨Fmt.canonical_infCode fp32_regular n, Fmt.value_infCode fp32_regular n⟩
  | fin n m e =>
    obtain ⟨hm, -, hhi⟩ := fp32_value_fin hv
    obtain ⟨K, htop, hK⟩ := exists_code_of_units hm hhi rnd n
    have hlt : K < 2 ^ fp32.mag := htop.trans_lt (by decide)
    have hfin := Fmt.finite_signed fp32_regular n htop
    simp only [round_of_grid (rnd := .rne) (by simp) n htop hK]
    refine ⟨Fmt.canonical_signed fp32_regular n htop, hfin, fp32.negative_signed n hlt, Mag.units ⟨m, e, false⟩ 0 rnd n, ?_, ?_⟩
    · have hholds : (Mag.mk m e false).Holds (m * 2 ^ e) := by simp [Mag.Holds]
      exact roundedInt_of_pick hr (by simp) (Mag.units_rounds hholds (q := 0) (by simp) rnd n)
    · have hint : (int32 (fp32.signed n K) : ℝ) = signOf n * fp32.grid K := by
        rw [int32, fp32.units_value hfin (by decide : e32 ≤ fp32.qmin), Fmt.real, fp32.negative_signed n hlt, fp32.bare_signed n hlt, Fmt.point]
        rw [← mul_assoc]
        exact mul_div_cancel_right₀ _ (by positivity)
      rw [← hK, ← Nat.cast_inj (R := ℝ), Nat.cast_natAbs, Int.cast_abs, hint, abs_mul, abs_signOf, one_mul, Nat.abs_cast]

/-! ### FSCALE (R123) -/

/-- A magnitude below half the smallest subnormal rounds to zero, or up to that subnormal. -/
theorem Fmt.RoundsTo.tiny {t : Fmt} {rnd : Rnd} {neg : Bool} {v : ℝ} {K : Nat} (h : t.RoundsTo rnd neg v K) (hv : 0 < v) (h1 : 2 * v < t.point 1) :
    rnd.pick neg (K = 0) (K = 0) (K = 1) := by
  have hmono := t.point_strictMono
  refine Rnd.pick_imp h (fun hn => ?_) (fun hb => ?_) fun ha => ?_
  · by_contra hK
    have hle := hmono.monotone (show 1 ≤ K by omega)
    have := (hn.2 0 (by omega)).1
    rw [t.point_zero] at this
    linarith
  · exact Nat.lt_one_iff.1 (hmono.lt_iff_lt.1 (hb.1.trans_lt (by linarith)))
  · have hpos : 0 < K := hmono.lt_iff_lt.1 (by rw [t.point_zero]; exact hv.trans_le ha.1)
    by_contra hK
    have := ha.2 1 (by omega)
    linarith

theorem Rnd.pick_unique {rnd : Rnd} (hr : ∀ r, rnd ≠ .srnd r) {neg : Bool} {a b K L : Nat} (hK : rnd.pick neg (K = a) (K = a) (K = b))
    (hL : rnd.pick neg (L = a) (L = a) (L = b)) : K = L := by
  rcases rnd.pick_cases neg with hp | hp | hp | ⟨-, r, hs⟩
  · rw [hp] at hK hL; exact hK.trans hL.symm
  · rw [hp] at hK hL; exact hK.trans hL.symm
  · rw [hp] at hK hL; exact hK.trans hL.symm
  · exact absurd hs (hr r)

/-- The exact value m 2^e, rounded (R119). -/
theorem roundCode_exact_roundsTo (rnd : Rnd) (neg : Bool) {m : Nat} (hm : m ≠ 0) (e : Int) :
    fp32.RoundsTo rnd neg (m * 2 ^ e) (fp32.roundCode rnd neg ⟨m, e, false⟩) :=
  fp32.roundCode_roundsTo (by decide) rnd neg (by simp [Mag.Holds]) hm (by simp)

/-- A power cut to 1000 gives the same result: beyond it every number overflows, below it every number is tiny. -/
theorem round_cut {rnd : Rnd} (hr : ∀ r, rnd ≠ .srnd r) (neg : Bool) {m : Nat} {e : Int} (hm0 : m ≠ 0) (hm : m < 2 ^ 24) (hlo : -149 ≤ e) (hhi : e ≤ 104)
    (n : Int) : fp32.round rnd neg ⟨m, e + max (-1000) (min 1000 n), false⟩ = fp32.round rnd neg ⟨m, e + n, false⟩ := by
  have hround (e : Int) := roundCode_exact_roundsTo rnd neg hm0 e
  have hm1 : (1 : ℝ) ≤ m := by exact_mod_cast Nat.pos_of_ne_zero hm0
  have hm2 : (m : ℝ) ≤ 2 ^ (24 : Int) := by exact_mod_cast hm.le
  have hover {e : Int} (he : 128 ≤ e) : fp32.round rnd neg ⟨m, e, false⟩ = fp32.overflow rnd neg := by
    have hge : fp32.point (fp32.top + 1) ≤ m * 2 ^ e := by
      rw [fp32_point_of_grid (k := 2 ^ 128) (by decide), Nat.cast_pow, Nat.cast_two, ← zpow_natCast, ← one_mul ((2 : ℝ) ^ _)]
      exact mul_le_mul hm1 (zpow_le_zpow_right₀ one_le_two (by push_cast; omega)) (by positivity) (by positivity)
    rw [Fmt.round_eq_deliver, Fmt.deliver_of_top_lt ((hround e).le_of_point_le hr hge)]
  have htiny {e : Int} (he : e ≤ -175) : (0 : ℝ) < m * 2 ^ e ∧ 2 * (m * 2 ^ e) < fp32.point 1 := by
    refine ⟨by positivity, ?_⟩
    calc 2 * ((m : ℝ) * 2 ^ e) ≤ 2 * (2 ^ (24 : Int) * 2 ^ (-175 : Int)) := by
          gcongr
          exact one_le_two
      _ < 1 * 2 ^ (-149 : Int) := by norm_num
      _ = fp32.point 1 := by rw [Fmt.point, show fp32.grid 1 = 1 by decide, Nat.cast_one]; rfl
  rcases le_or_gt n (-1000) with h | h
  · have h1 := (hround (e + max (-1000) (min 1000 n))).tiny (htiny (by omega)).1 (htiny (by omega)).2
    have h2 := (hround (e + n)).tiny (htiny (by omega)).1 (htiny (by omega)).2
    rw [Fmt.round_eq_deliver, Fmt.round_eq_deliver, Rnd.pick_unique hr h1 h2]
  · rcases le_or_gt 1000 n with h' | h'
    · rw [hover (by omega), hover (by omega)]
    · rw [show max (-1000) (min 1000 n) = n by omega]

theorem scale_rule {rnd : Rnd} (hr : ∀ r, rnd ≠ .srnd r) (n : Int) (c : Nat) :
    fp32.Canonical (fp32.scale rnd (fp32.value c) n) ∧ Scaled rnd n (fp32.value c) (fp32.scale rnd (fp32.value c) n) := by
  cases hv : fp32.value c with
  | nan => exact ⟨canonical_nanCode, canonical_nanCode.1, rfl⟩
  | inf s => exact ⟨Fmt.canonical_infCode fp32_regular s, (Fmt.canonical_infCode fp32_regular s).1, Fmt.value_infCode fp32_regular s⟩
  | fin s m e =>
    obtain ⟨hm, hlo, hhi⟩ := fp32_value_fin hv
    by_cases hm0 : m = 0
    · have hscale : fp32.scale rnd (.fin s m e) n = fp32.signed s 0 := by
        have hcode : fp32.roundCode rnd s ⟨m, e + max (-1000) (min 1000 n), false⟩ = 0 := if_pos ⟨hm0, Bool.false_ne_true⟩
        rw [Fmt.scale, Fmt.round_eq_deliver, hcode, Fmt.deliver_of_le_top (Nat.zero_le _)]
      have hcan := Fmt.canonical_signed fp32_regular s (Nat.zero_le _)
      rw [hscale]
      refine ⟨hcan, ?_⟩
      simp only [Scaled, exactOf, hm0, if_true]
      exact ⟨hcan.1, Nat.add_zero _⟩
    · have hscale : fp32.scale rnd (.fin s m e) n = fp32.deliver rnd s (fp32.roundCode rnd s ⟨m, e + n, false⟩) := round_cut hr s hm0 hm hlo hhi n
      rw [hscale]
      have hcan := Fmt.canonical_deliver fp32_regular rnd s (fp32.roundCode rnd s ⟨m, e + n, false⟩)
      refine ⟨hcan, ?_⟩
      simp only [Scaled, exactOf, hm0, if_false]
      have hneg : decide ((if s then -(m : Int) else m) < 0) = s := by
        cases s <;> simp; omega
      have hrounded := Fmt.rounded_deliver fp32_regular hr (num := if s then -(m : Int) else m) (den := 1) (e := e + n)
        (v := m * 2 ^ (e + n)) (by positivity) one_pos (by rw [hneg]; cases s <;> simp) (hneg.symm ▸ roundCode_exact_roundsTo rnd s hm0 (e + n))
      rw [hneg] at hrounded
      exact ⟨hcan.1, hrounded⟩

/-! ### FEXPT (R123) -/

theorem fexpt_rule (c : Nat) : ExponentOf (fp32.value c) (fexpt (fp32.value c)) := by
  cases hv : fp32.value c with
  | nan => rfl
  | inf n => rfl
  | fin n m e =>
    obtain ⟨hm, hlo, hhi⟩ := fp32_value_fin hv
    by_cases hm0 : m = 0
    · simp [ExponentOf, fexpt, hm0]
    · have hlog : m.log2 < 24 := (Nat.log2_lt hm0).2 hm
      have hr : (fexpt (.fin n m e)).toInt = e + m.log2 := by
        simp only [fexpt, hm0, if_false, exptOf]
        exact toInt_ofInt_of_range (by decide) (by omega) (by omega)
      simp only [ExponentOf, hm0, if_false, hr]
      rw [show (e + (m.log2 : Int) - e).toNat = m.log2 by omega]
      exact ⟨by omega, Nat.log2_self_le hm0, Nat.lt_log2_self⟩

/-! ### The claims -/

theorem floatSelections_hold : Claims.floatSelections := by
  refine ⟨fun f => ?_, fun f => ?_, fun f => ?_, fun f hf => ?_, fun f hf => ?_, fun f => ?_⟩
  · exact vecF_completes (fun _ => rfl) fun s l => minNum_rule (Fmt.modify_lt _ _ _ _) (Fmt.modify_lt _ _ _ _)
  · exact vecF_completes (fun _ => rfl) fun s l => maxNum_rule (Fmt.modify_lt _ _ _ _) (Fmt.modify_lt _ _ _ _)
  · refine vec32_completes (fun _ => rfl) fun s l _ _ => ?_
    obtain ⟨hcmax, hmax⟩ := maxNum_rule (a := fA f s l) (b := fB f s l) (Fmt.modify_lt _ _ _ _) (Fmt.modify_lt _ _ _ _)
    obtain ⟨hcmin, hmin⟩ := minNum_rule (b := fC f s l) hcmax.1 (Fmt.modify_lt _ _ _ _)
    exact ⟨_, _, hmax, hmin, finish32_rule f hcmin⟩
  · rw [direction_eq]
    exact vecF_completes (fun _ => rfl) fun s l => integral_rule (fRnd_ne_srnd hf) _
  · rw [direction_eq]
    exact vecF_completes (fun _ => rfl) fun s l => scale_rule (fRnd_ne_srnd hf) _ _
  · exact vec32_completes (fun _ => rfl) fun s l _ _ => fexpt_rule _

/-- Settles O5: each root or selection by the rule of its lane function on codes, and SAT after it. -/
theorem floatRootsAndSelections : Obligations.FloatRootsAndSelections := ⟨floatRoots_hold, floatSelections_hold⟩

end Sys2Proof.Machine
end

section
namespace Sys2Proof.Machine
open Sys2Proof Sys2Proof.Claims

/-! ### Changes of registers, one after another -/

theorem VChange.refl (s : State) : VChange s s :=
  ⟨rfl, rfl, id, rfl, ⟨fun _ _ => rfl, rfl, ⟨rfl, rfl, rfl⟩, rfl, rfl, fun _ _ => rfl⟩, fun _ _ => rfl, ⟨rfl, rfl⟩, fun _ => rfl⟩

theorem VChange.trans {s t u : State} (h : VChange s t) (k : VChange t u) : VChange s u where
  cur := k.cur.trans h.cur
  tick := k.tick.trans h.tick
  issuing hi := k.issuing (h.issuing hi)
  split := k.split.trans h.split
  outside := h.outside.trans k.outside h.cur
  special := h.special.trans k.special fun _ => id
  scalar := h.scalar.trans k.scalar
  pred := h.pred.trans k.pred

theorem VChange.regChange {s t : State} (h : VChange s t) (hi : s.issuing = true) : RegChange s t :=
  ⟨h.cur, h.tick, h.issuing hi, h.split, h.outside, h.special⟩

theorem RegChange.trans {s t u : State} (h : RegChange s t) (k : RegChange t u) : RegChange s u where
  cur := k.cur.trans h.cur
  tick := k.tick.trans h.tick
  issuing := k.issuing
  split := k.split.trans h.split
  outside := h.outside.trans k.outside h.cur
  special := h.special.trans k.special fun _ => id

/-- A latch still reads the same after retirement, while the clause goes on. -/
theorem RegChange.latch_retire {s t : State} (h : RegChange s t) (hs : s.signed = true) (hm : s.midClause) (b l : Nat) :
    t.retire.latch b l = t.latch b l := by
  obtain ⟨-, -, -, hleft, hhdr, hsigb, hir, -⟩ := of_old h.split
  have hts : t.signed = true := by simpa [State.signed, hleft, hhdr, hsigb, hir] using hs
  have hmt : t.midClause := by simpa [State.midClause, hleft] using hm
  have rf := State.retire_frame h.issuing hts
  rw [latch_eq (s := t) rf.tick rf.word.cur, latch_eq (s := t) rfl rfl, rf.latch hmt]

/-- A change of registers that puts a 32-bit result f in the lanes of m, and retirement. -/
theorem RegChange.wrote32 {s t : State} (h : RegChange s t) (hs : s.signed = true) {d : BitVec 8} {w : Bool} {bl : BitVec 2} {m : Mask}
    {f : Nat → W32}
    (hv : ∀ r l, l < 64 → t.G.vreg r l = if bitAt m l = true ∧ r = d.toNat ∧ w = false then f l else s.G.vreg r l)
    (hl : ∀ b l, l < 64 → t.latch b l = if bitAt m l = true ∧ b = bl.toNat then (f l).setWidth 64 else s.latch b l) :
    Wrote32 d w bl m (fun l x => x = f l) s t.retire where
  result l hl64 hb := by
    refine ⟨f l, rfl, fun hw => ?_, fun hm => ?_⟩
    · rw [vreg_of_v (h.retire hs).v, hv _ _ hl64, if_pos ⟨hb, rfl, hw⟩]
    · rw [h.latch_retire hs hm, hl _ _ hl64, if_pos ⟨hb, rfl⟩]
  others r l hl64 ho := by
    rw [vreg_of_v (h.retire hs).v, hv _ _ hl64, if_neg]
    rintro ⟨hb, hr, hw⟩
    rcases ho with ho | ho | ho
    · exact absurd (hw.symm.trans ho) (by decide)
    · exact ho hr
    · exact absurd (hb.symm.trans ho) (by decide)
  latches hm b l _ hl64 ho := by
    rw [h.latch_retire hs hm, hl _ _ hl64, if_neg]
    rintro ⟨hb, hbl⟩
    rcases ho with ho | ho
    · exact ho hbl
    · exact absurd (hb.symm.trans ho) (by decide)

/-! ### Results of cross-lane instructions (R143) -/

/-- What is kept for the clauses of siblings is no part of the registers or the latches. -/
theorem State.keepLanes_spec {s : State} (hi : s.issuing = true) (d : BitVec 8) (w : Bool) (n : Nat) (m : Mask) :
    VChange s (s.keepLanes d w n m) ∧ (s.keepLanes d w n m).G.v = s.G.v ∧ (s.keepLanes d w n m).G.latch = s.G.latch := by
  cases w with
  | true => exact ⟨.refl s, rfl, rfl⟩
  | false =>
    have hgid (g : Group) : (g.keepV s.cur.2 d.toNat n m).gid = g.gid := by
      obtain ⟨sp, e, -⟩ := OnlyOld.keepV g s.cur.2 d.toNat n m; rw [e]
    obtain ⟨sp, e, eo⟩ := OnlyOld.keepV s.G s.cur.2 d.toNat n m
    have hG : (s.keepLanes d false n m).G = s.G.keepV s.cur.2 d.toNat n m := State.grp_modGroup hgid (State.issuing_group hi)
    exact ⟨VChange.of (mo := s.mops) hi hgid ⟨_, _, _, sp, e, eo⟩, by rw [hG, e], by rw [hG, e]⟩

/-- A 32-bit result of a cross-lane instruction before retirement: where it goes, and that nothing else changes. -/
theorem State.writeLanes_spec {s : State} (hi : s.issuing = true) (f : VForm) (m : Mask) (g : Nat → W32) :
    VChange s (s.writeLanes f m g) ∧
    (∀ r l, l < 64 → (s.writeLanes f m g).G.vreg r l = if bitAt m l = true ∧ r = f.d.toNat ∧ f.w = false then g l else s.G.vreg r l) ∧
    (∀ b l, l < 64 → (s.writeLanes f m g).latch b l = if bitAt m l = true ∧ b = f.bl.toNat then (g l).setWidth 64 else s.latch b l) := by
  obtain ⟨hk, hkv, hkl⟩ := State.keepLanes_spec hi f.d f.w 1 m
  obtain ⟨hw, hv, hl⟩ := State.write32_spec (hk.issuing hi) f.d f.w f.bl m g
  refine ⟨hk.trans hw, fun r l hl64 => ?_, fun b l hl64 => ?_⟩
  · rw [← vreg_of_v hkv]; exact hv r l hl64
  · have hlatch : (s.keepLanes f.d f.w 1 m).latch b l = s.latch b l := by
      rw [latch_eq (s := s) hk.tick hk.cur, hkl]; rfl
    rw [← hlatch]; exact hl b l hl64

theorem Group.setP_eq (g : Group) (r : Nat) (m val : Mask) : ∃ p, g.setP r m val = { g with p := p } := by
  unfold Group.setP; split
  · exact ⟨g.p, rfl⟩
  · exact ⟨_, rfl⟩

/-- A write of a predicate changes the predicates of the issuing group alone. -/
theorem State.setP_change {s : State} (hi : s.issuing = true) (r : Nat) (m val : Mask) :
    RegChange s (s.modG fun g => g.setP r m val) ∧ (s.modG fun g => g.setP r m val).G = s.G.setP r m val := by
  have hgid (g : Group) : (g.setP r m val).gid = g.gid := by
    obtain ⟨p, e⟩ := g.setP_eq r m val; rw [e]
  obtain ⟨p, e⟩ := s.G.setP_eq r m val
  exact ⟨RegChange.of hi hgid ⟨_, _, _, p, _, _, _, e, rfl⟩, State.grp_modGroup hgid (State.issuing_group hi)⟩

/-! ### SHFL (R139) -/

theorem shflSource_eq_sourceLane (f : VForm) (s : State) (l : Nat) : shflSource f s l = sourceLane f s l := by
  have hk : 64 >>> ((bOf f s l).toNat % 32) = lanes / 2 ^ ((bOf f s l).toNat % 32) := Nat.shiftRight_eq_div_pow _ _
  rw [sourceLane, hk]
  rfl

/-- The result of SHFL in lane l. -/
def shuffled (f : VForm) (s : State) (l : Nat) : W32 := aOf f s (if laneExists f s l then (sourceLane f s l).toNat else l)

/-- SHFL writes its result in the selected lanes and, with MOD bit 2, the in-range predicate; then it retires. -/
theorem exec_shfl (f : VForm) (s : State) : exec (.shfl f) s =
    go (if bitAt f.md 2 then (s.writeLanes f (selV f s) (shuffled f s)).modG fun g => g.setP (fldN f.md 3 3) (selV f s) (maskOf (laneExists f s))
      else s.writeLanes f (selV f s) (shuffled f s)).retire := by
  show execShfl f s = _
  simp only [execShfl, shflSource_eq_sourceLane]
  rfl

/-- Settles O12: the results are computed in the state before, and the predicate write leaves registers and latches alone. -/
theorem laneShuffle : Obligations.LaneShuffle := by
  intro f s hi hs
  obtain ⟨hc, hv, hl⟩ := State.writeLanes_spec hi f (selV f s) (shuffled f s)
  by_cases hmod : bitAt f.md 2 = true
  · obtain ⟨hp, hG⟩ := State.setP_change (hc.issuing hi) (fldN f.md 3 3) (selV f s) (maskOf (laneExists f s))
    obtain ⟨p, e⟩ := (s.writeLanes f (selV f s) (shuffled f s)).G.setP_eq (fldN f.md 3 3) (selV f s) (maskOf (laneExists f s))
    have h := (hc.regChange hi).trans hp
    have hr := h.retire hs
    rw [exec_shfl, if_pos hmod]
    refine ⟨_, rfl, ⟨hr.sregs.trans ?_, hr.bank.trans ?_⟩, hr.special, hr.outside, hr.word, h.wrote32 hs (fun r l hl64 => ?_) (fun b l hl64 => ?_),
      fun hno => absurd (hmod.symm.trans hno) (by decide), fun _ q l hl64 => ?_⟩
    · rw [hG, e]; exact hc.scalar.1
    · rw [hG, e]; exact hc.scalar.2
    · rw [hG, e]; exact hv r l hl64
    · rw [State.latch, hG, e]; exact hl b l hl64
    · have hq : (q = fldN f.md 3 3 ∧ fldN f.md 3 3 ≠ 0 ∧ bitAt (selV f s) l = true) ↔ q = fldN f.md 3 3 ∧ q ≠ 0 ∧ bitAt (selV f s) l = true :=
        and_congr_right fun h => by rw [h]
      rw [hr.p, hG, Group.pred_setP _ _ _ _ _ _ hl64, bitAt_maskOf _ hl64, hc.pred]
      simp only [hq]
  · have h := hc.regChange hi
    have hr := h.retire hs
    rw [exec_shfl, if_neg hmod]
    exact ⟨_, rfl, ⟨hr.sregs.trans hc.scalar.1, hr.bank.trans hc.scalar.2⟩, hr.special, hr.outside, hr.word, h.wrote32 hs hv hl,
      fun _ p => (hr.p p).trans (hc.pred p), fun hyes => absurd hyes hmod⟩

end Sys2Proof.Machine
end

section
namespace Sys2Proof.Machine
open Sys2Proof Sys2Proof.Claims

/-! ### TRET of a frame that no address names (R156, R178) -/

/-- In trap mode a TRET whose SR_TFRAME has a nonzero bit among 63:60 is a double fault, whatever memory holds at the frame's offset. -/
theorem tret_of_frame_beyond {f : VForm} {s : State} (skip : Bool) (hsel : selV f s ≠ 0) (hsaved : s.G.saved.isNone = false)
    (hstrip : s.G.strip = false) (hframe : 2 ^ 60 ≤ s.G.tframe.toNat) : tret f s skip = s.fatalContext s.cur.1 0 s.S.pc := by
  have hr : s.returnTrap skip = s.fatalContext s.cur.1 0 s.S.pc := by
    unfold State.returnTrap
    rw [hstrip]
    exact if_pos hframe
  unfold tret
  rw [if_neg hsel, hsaved, hr]
  rfl

/-- Bytes 0xFF bring the CRC's register to zero, where zero bytes leave it (R327). -/
theorem crc32c_ones_zeros (n : Nat) : crc32c (List.replicate 4 0xFF ++ List.replicate n 0) = 0xFFFFFFFF := by
  have hzeros : (List.replicate n (0 : Byte)).foldl (fun c b => crc32cBits 8 (c ^^^ b.setWidth 32)) 0 = 0 := by
    induction n with
    | zero => rfl
    | succ n ih => exact ih
  have hones : (List.replicate 4 (0xFF : Byte)).foldl (fun c b => crc32cBits 8 (c ^^^ b.setWidth 32)) (BitVec.allOnes 32) = 0 := by decide +kernel
  rw [crc32c, List.foldl_append, hones, hzeros]
  rfl

/-- A good frame at 0x800: it begins with four bytes 0xFF, its CRC is 0xFFFFFFFF, and its other bytes are zero. -/
def goodFrame (m : Memory) : Memory := (m.writeN 0x800 (List.replicate 4 0xFF)).writeN 0xBFC (List.replicate 4 0xFF)

/-- The frame with the mark of its page's entry. -/
def markedFrame : Memory := (goodFrame (fetchMem [] 64 0)).write 0x3004 0x0C

/-- A group in trap mode, of a context that maps a 1 GiB page at address 0: its split trapped in mid-clause at 0x108, and its frame at offset
0x800 is good; but bit 60 of SR_TFRAME is set, which a handler may write. -/
def beyondFrame : State :=
  let b := State.reset.withFetchWord 64 0
  { b.modG fun g => { g with trapm := true, tvec := 0x400, tframe := 0x1000000000000800, tpc := 0x108, tmask := 0xF,
                             saved := some { splits := fetchGroup.splits } } with
    mem := goodFrame b.mem }

/-- The page of the frame is found, and its entry marked as accessed. -/
theorem translate_beyondFrame : ∃ u, beyondFrame.translate beyondFrame.G.core beyondFrame.G.ctx beyondFrame.G.tframe .load 0 =
    (u, .ok (.mem 0x800) 0x400FFFF0F) ∧ u.mem = markedFrame := by
  refine ⟨_, Prod.ext rfl ?_, ?_⟩ <;> decide +kernel

theorem length_bytesOf {m : Nat} (n : Nat) (w : BitVec m) : (bytesOf n w).length = n := by simp only [bytesOf, List.length_map, List.length_range]

/-- Between its code and its page tables the memory holds nothing. -/
theorem read_fetchMem {a : Nat} (h1 : 0x110 ≤ a) (h2 : a < 0x1000) : (fetchMem [] 64 0).read a = 0 := by
  have hcode : (clauseBytes 64 0).length = 16 := by simp only [clauseBytes, List.length_append, length_bytesOf]
  unfold fetchMem Memory.setNum
  rw [Memory.read_writeN, if_neg (by omega), Memory.read_writeN, if_neg (by omega), Memory.read_writeN, if_neg (by omega),
    Memory.read_writeN, if_neg (by omega)]
  rfl

theorem readN_markedFrame {n : Nat} (hn : n ≤ 1016) : markedFrame.readN 0x800 (4 + n) = List.replicate 4 0xFF ++ List.replicate n 0 := by
  refine List.ext_getElem (by simp only [Memory.readN, List.length_map, List.length_range, List.length_append, List.length_replicate]) fun i h1 h2 => ?_
  have hi : i < 1020 := by simp only [Memory.readN, List.length_map, List.length_range] at h1; omega
  simp only [Memory.readN, List.getElem_map, List.getElem_range]
  have hones : (List.replicate 4 (0xFF : Byte)).length = 4 := rfl
  rw [markedFrame, Memory.read_write, if_neg (by omega), goodFrame, Memory.read_writeN, if_neg (by omega), Memory.read_writeN]
  by_cases h4 : i < (List.replicate 4 (0xFF : Byte)).length
  · rw [if_pos (by omega), List.getElem_append_left h4, Nat.add_sub_cancel_left, List.getD_eq_getElem _ _ h4]
  · rw [if_neg (by omega), List.getElem_append_right (by omega), List.getElem_replicate, read_fetchMem (by omega) (by omega)]

theorem markedFrame_crc : natOfBytes (markedFrame.readN (0x800 + 0x3FC) 4) = (crc32c (markedFrame.readN 0x800 0x3FC)).toNat := by
  rw [readN_markedFrame (n := 1016) le_rfl, crc32c_ones_zeros]
  decide +kernel

/-- The double fault kills the context with its group: no split is left to go on at SR_TPC. -/
theorem killed_beyondFrame : (beyondFrame.fatalContext beyondFrame.cur.1 0 beyondFrame.S.pc).S.pc ≠ beyondFrame.G.tpc := by decide +kernel

theorem not_trapReturns : ¬ Claims.trapReturns := by
  rintro ⟨h, -⟩
  obtain ⟨u, htrans, hmem⟩ := translate_beyondFrame
  obtain ⟨⟨t, ht, -, -, -, hpc, -⟩, -⟩ := h {} beyondFrame { splits := fetchGroup.splits } _ u 0x800 _ 0x100 0xF000000000000000
    (by decide) (by decide) (by decide) rfl (by decide) (by decide) (by decide) rfl rfl rfl rfl rfl htrans (hmem ▸ markedFrame_crc) rfl (by decide)
  have hkill : exec (.tretRpl {}) beyondFrame = .next (beyondFrame.fatalContext beyondFrame.cur.1 0 beyondFrame.S.pc) :=
    congrArg Host.Outcome.next (tret_of_frame_beyond false (by decide) (by decide) (by decide) (by decide))
  cases hkill.symm.trans ht
  exact killed_beyondFrame hpc

/-- Refutes O22: its claim of returns bounds neither SR_TFRAME nor poison. A TRET with bit 60 of SR_TFRAME set is a double fault, although the
offset translates and the CRC of the block that lies there matches; a poison mark in the block, which TRET consumes, would do as well. -/
theorem not_softwareTrapsAndReturns : ¬ Obligations.SoftwareTrapsAndReturns := fun h => not_trapReturns h.2

end Sys2Proof.Machine
end
